-- ==== Sys2Proof/Word.lean ====
section
/-!
DEFINITION. The word types of the AQZ-3100 and their plainest arithmetic (spec 00, R3 and R8).
-/
namespace Sys2Proof

/-- A 64-bit register word (R19). -/
abbrev Word := BitVec 64

/-- One byte of memory. -/
abbrev Byte := BitVec 8

/-- The `n` bits of `w` from bit `lo` upward (R3: bit 0 is the least significant). -/
def fld (w lo n : Nat) : Nat := w / 2 ^ lo % 2 ^ n

/-- Bit `k` of `w`. -/
def bitAt (w k : Nat) : Bool := w / 2 ^ k % 2 == 1

end Sys2Proof
end

