-- ==== Sys2Proof/Syntax/Kinds.lean ====
section
/-!
DEFINITION. The kinds of operand an instruction or event names: register numbers with their admitted
ranges (spec 03, R80), scopes and orders (R86), and the plain data that the events of
opcode_table.json carry.
-/
namespace Sys2Proof

/-- An X register number (R80). -/
abbrev XReg := Fin 32
/-- A vector register number (R80). -/
abbrev VReg := Fin 48
/-- A mask register number (R80). -/
abbrev MReg := Fin 12
/-- The mask field of PFX: 0 keeps M0, 1 to 11 substitute M1 to M11 (R92). -/
abbrev PfxMask := Fin 12
/-- The copy field of PFX: a vector register, or none (code 63, R92). -/
abbrev PfxCopy := Option (Fin 48)
/-- An operator slot OP0 to OP15, or an engine tag (R80, R238). -/
abbrev Slot := Fin 16
/-- A bin AC0 to AC3 (R80). -/
abbrev Bin := Fin 4
/-- A traffic class or launch class (R337, R10). -/
abbrev TrafficClass := Fin 3

/-- Scopes (R86). -/
inductive Scope where
  | hart | core | quad | device | domain
  deriving DecidableEq, Repr

/-- Atomic orders (R86). -/
inductive Order where
  | relaxed | acquire | release | acqRel
  deriving DecidableEq, Repr

/-- The second operand of VCMP (R79, R80): a vector register, ATHR (code 62), or an X register (sx = 1). -/
inductive CmpOperand where
  | vec (v : VReg) | athr | scalar (x : XReg)
  deriving DecidableEq, Repr

/-- The second operand of VWHILE (R79, R91): ATHR is not admitted. -/
inductive LoopOperand where
  | vec (v : VReg) | scalar (x : XReg)
  deriving DecidableEq, Repr

/-- The constant source of PASS (R202). -/
inductive KSrc where
  | none | bit | all
  deriving DecidableEq, Repr

/-- The row type named by MZRO (R90). -/
inductive ZeroTyp where
  | f32 | i32 | f64
  deriving DecidableEq, Repr

/-- The comparison conditions of VCMP and VWHILE (R84). -/
inductive Cond where
  | eq | ne | lt | le | gt | ge | un | ord
  deriving DecidableEq, Repr

/-- The atomic operations (R84, R134). -/
inductive AtomOp where
  | add | incb | cas | swp | min | max | and | or
  deriving DecidableEq, Repr

/-- A stall: its first cluster and the log2 of its size (R12, R14). -/
structure Stall where
  core : Nat
  base : Nat
  size : Nat
  deriving DecidableEq, Repr

/-- A pending stall on the hart's own core: NBASE and NSIZE (R14, R15). -/
structure PendingStall where
  base : BitVec 3
  size : BitVec 2
  deriving DecidableEq, Repr

/-- The two windows of the Cedor link (R334). -/
inductive HostSpace where
  | registers | memory
  deriving DecidableEq, Repr

/-- The direction of a link hold (R338): which sender the hold stops. -/
inductive LinkDir where
  | toDevice | toHost
  deriving DecidableEq, Repr

/-- What a scrub finds in a sector (R404). -/
inductive ScrubOutcome where
  | clean | corrected | uncorrectable
  deriving DecidableEq, Repr

/-- An access that another device of the domain sends to this device's memory (R394). -/
inductive RemoteAccess where
  | load (addr size : Nat)
  | store (addr : Nat) (bytes : List (BitVec 8))
  | atomic (op : AtomOp) (addr : Nat) (wide : Bool) (operand expected : BitVec 64)
  | lmove (src dst : Nat)
  deriving DecidableEq, Repr

/-- What ends a collective at another device of its group or on its path (R393, R400): REASON 1 for a device whose
DMEMB lacks a member, 3 to 5 for a route, a port or a flit there; the port concerned, and the ordinal. -/
structure CollFault where
  reason : Nat
  port : Nat
  ord : Option Nat
  deriving DecidableEq, Repr

/-- What one other member brings to a collective (R247, R248): its ordinal, the descriptor fields the
members exchange when they join, and the bytes of its contribution. -/
structure CollMember where
  ordinal : Nat
  op : Nat
  typ : Nat
  cls : Nat
  k : Nat
  group : BitVec 128
  count : Nat
  bytes : List (BitVec 8)
  deriving DecidableEq, Repr

/-- The operands of an event of opcode_table.json: what the agent that causes it chooses. `hart` and
`launch` are positions in the machine's lists of harts and launches. -/
inductive Input where
  /-- No input stands at the machine. -/
  | idle
  | stallChangeRequest (hart : Nat) (pending : Option PendingStall)
  | stallAdoption (hart : Nat)
  | setvlYield (hart : Nat)
  | hartEnd (hart : Nat)
  | barrierCompletion (launch : Nat)
  | engineTransferEnd (hart : Nat) (tag : Slot)
  | engineTransferFailure (hart : Nat) (tag : Slot)
  | hardStop (hart : Nat) (stopAt : Option Nat)
  | contextRestore (hart : Nat) (stall : Stall)
  | yieldRequest (hart : Nat)
  | yieldWindowExpiry (hart : Nat)
  | narrowingTimeout (hart : Nat)
  | matrixArbitration (hart : Nat)
  | laneBlockReady (hart vp : Nat)
  | laneRunJoin (hart : Nat)
  | malformedAccess (offset size : Nat) (store : Bool)
  | hostRead (space : HostSpace) (offset size : Nat) (cls : TrafficClass)
  | hostWrite (offset : Nat) (bytes : List (BitVec 8)) (cls : TrafficClass)
  | hostAtomic (op : AtomOp) (offset : Nat) (wide : Bool) (operand expected : BitVec 64) (cls : TrafficClass)
  | hostLmove (src dst : Nat) (cls : TrafficClass)
  | hostRegisterWrite (offset size : Nat) (value : BitVec 64) (cls : TrafficClass)
  | linkHold (dir : LinkDir) (cls : TrafficClass)
  | linkHoldRelease (dir : LinkDir) (cls : TrafficClass)
  | linkDown
  | linkUp
  | linkAccessTimeout (hart : Nat) (tag : Option Slot)
  | queueEnable (queue : Nat) (en : Bool)
  | queueReset (queue : Nat)
  | queueResetDone (queue : Nat)
  | launchAccept (queue : Nat)
  | gangPlacement (launch : Nat) (stalls : List Stall)
  | completionPost
  | preemption (launch : Nat)
  | agingExpiry (launch : Nat)
  | syscNull (hart : Nat)
  | syscTime (hart : Nat)
  | syscBudget (hart : Nat)
  | syscPrefault (hart : Nat)
  | syscUnknown (hart : Nat)
  | devicePageMap (asid : Nat) (va : BitVec 64)
  | faultRecordPost
  | frespRetry (fid : BitVec 48)
  | frespEnd (fid : BitVec 48)
  | invalidate (ctl : BitVec 64)
  | invalidationComplete
  | deviceReset
  | recoveryGo
  | firmwareFlashWrite (image : Option (List (BitVec 8))) (minVersion : Option Nat) (cut : Option Nat)
  | attestRequest
  | attestReportComplete
  | domainEnable (den : Bool)
  | fabricAckTimeout (hart : Nat) (tag : Option Slot)
  | flitCrcReplay (port replays : Nat) (sent lost : Bool)
  | portTrain (port peer peerPort : Nat)
  | collectiveTimeout (hart : Nat) (tag : Slot)
  | collectiveEnd (hart : Nat) (tag : Slot) (peers : List CollMember) (elsewhere : Option CollFault)
  | hbmScrub (sector : Nat) (outcome : ScrubOutcome)
  | governorTick (watts : Nat)
  | thermalThrottle (temp : Nat)
  | thermalThrottleEnd (temp : Nat)
  | thermalTrip (temp : Nat)
  | remoteAccess (access : RemoteAccess)
  | dmembWrite (high : Bool) (value : BitVec 64)
  | powerLoss (torn : Bool)
  deriving DecidableEq, Repr

end Sys2Proof
end

