-- ==== Sys2Proof/Syntax.lean ====
section
/-!
DEFINITION. The instruction type: one constructor for each of the 253 encoded rows and the 64 events of
spec/opcode_table.json, the rows with operand fields first. The encoded rows carry the fields of their word
(spec 03, R79 to R92); what the agent behind an event chooses stands in the machine's `input` (Kinds).
-/
namespace Sys2Proof

/-- The instructions and events of the AQZ-3100. -/
inductive Instr where
  /-- SRD (R122). -/
  | srd (d : XReg) (num : BitVec 12)
  /-- SWR (R122). -/
  | swr (num : BitVec 12) (a : XReg)
  /-- FENCE (R123). -/
  | fence (scope : Scope) (bits : BitVec 4)
  /-- GBAR (R124). -/
  | gbar (scope : Scope)
  /-- PFX (R93). -/
  | pfx (mask : PfxMask) (inv : Bool) (copy : PfxCopy) (slices : BitVec 3)
  /-- ADD (R125). -/
  | add (d a b : XReg)
  /-- SUB (R125). -/
  | sub (d a b : XReg)
  /-- AND (R125). -/
  | and (d a b : XReg)
  /-- OR (R125). -/
  | or (d a b : XReg)
  /-- XOR (R125). -/
  | xor (d a b : XReg)
  /-- SLL (R125). -/
  | sll (d a b : XReg)
  /-- SRL (R125). -/
  | srl (d a b : XReg)
  /-- SRA (R125). -/
  | sra (d a b : XReg)
  /-- SLT (R125). -/
  | slt (d a b : XReg)
  /-- SLTU (R125). -/
  | sltu (d a b : XReg)
  /-- MIN (R125). -/
  | min (d a b : XReg)
  /-- MAX (R125). -/
  | max (d a b : XReg)
  /-- MINU (R125). -/
  | minu (d a b : XReg)
  /-- MAXU (R125). -/
  | maxu (d a b : XReg)
  /-- MUL (R125). -/
  | mul (d a b : XReg)
  /-- MULH (R125). -/
  | mulh (d a b : XReg)
  /-- MULHU (R125). -/
  | mulhu (d a b : XReg)
  /-- DIV (R125). -/
  | div (d a b : XReg)
  /-- DIVU (R125). -/
  | divu (d a b : XReg)
  /-- REM (R125). -/
  | rem (d a b : XReg)
  /-- REMU (R125). -/
  | remu (d a b : XReg)
  /-- CLZ (R125). -/
  | clz (d a : XReg)
  /-- CTZ (R125). -/
  | ctz (d a : XReg)
  /-- CNT (R125). -/
  | cnt (d a : XReg)
  /-- SEL (R125). -/
  | sel (d a b c : XReg)
  /-- ADDI (R126). -/
  | addi (d a : XReg) (imm : BitVec 16)
  /-- ANDI (R126). -/
  | andi (d a : XReg) (imm : BitVec 16)
  /-- ORI (R126). -/
  | ori (d a : XReg) (imm : BitVec 16)
  /-- XORI (R126). -/
  | xori (d a : XReg) (imm : BitVec 16)
  /-- SLLI (R127). -/
  | slli (d a : XReg) (shamt : BitVec 6)
  /-- SRLI (R127). -/
  | srli (d a : XReg) (shamt : BitVec 6)
  /-- SRAI (R127). -/
  | srai (d a : XReg) (shamt : BitVec 6)
  /-- SLTI (R126). -/
  | slti (d a : XReg) (imm : BitVec 16)
  /-- SLTIU (R126). -/
  | sltiu (d a : XReg) (imm : BitVec 16)
  /-- LUI (R126). -/
  | lui (d : XReg) (imm : BitVec 16)
  /-- ADDPC (R126). -/
  | addpc (d : XReg) (imm : BitVec 16)
  /-- FADD (R128). -/
  | fadd (d a b : XReg) (single : Bool)
  /-- FSUB (R128). -/
  | fsub (d a b : XReg) (single : Bool)
  /-- FMUL (R128). -/
  | fmul (d a b : XReg) (single : Bool)
  /-- FDIV (R128). -/
  | fdiv (d a b : XReg) (single : Bool)
  /-- FSQRT (R128). -/
  | fsqrt (d a : XReg) (single : Bool)
  /-- FMIN (R128). -/
  | fmin (d a b : XReg) (single : Bool)
  /-- FMAX (R128). -/
  | fmax (d a b : XReg) (single : Bool)
  /-- FMA (R128). -/
  | fma (d a b c : XReg) (single : Bool)
  /-- FNMA (R128). -/
  | fnma (d a b c : XReg) (single : Bool)
  /-- FEQ (R128). -/
  | feq (d a b : XReg) (single : Bool)
  /-- FLT (R128). -/
  | flt (d a b : XReg) (single : Bool)
  /-- FLE (R128). -/
  | fle (d a b : XReg) (single : Bool)
  /-- FCVT_D_L (R128). -/
  | fcvtDL (d a : XReg) (single : Bool)
  /-- FCVT_L_D (R128). -/
  | fcvtLD (d a : XReg) (single : Bool)
  /-- FCVT_D_S (R128). -/
  | fcvtDS (d a : XReg)
  /-- FCVT_S_D (R128). -/
  | fcvtSD (d a : XReg)
  /-- FABS (R128). -/
  | fabs (d a : XReg) (single : Bool)
  /-- FNEG (R128). -/
  | fneg (d a : XReg) (single : Bool)
  /-- FKIND (R129). -/
  | fkind (d a : XReg) (single : Bool)
  /-- LB (R130). -/
  | lb (d a : XReg) (off : BitVec 13)
  /-- LBU (R130). -/
  | lbu (d a : XReg) (off : BitVec 13)
  /-- LH (R130). -/
  | lh (d a : XReg) (off : BitVec 13)
  /-- LHU (R130). -/
  | lhu (d a : XReg) (off : BitVec 13)
  /-- LW (R130). -/
  | lw (d a : XReg) (off : BitVec 13)
  /-- LWU (R130). -/
  | lwu (d a : XReg) (off : BitVec 13)
  /-- LD (R130). -/
  | ld (d a : XReg) (off : BitVec 13)
  /-- STB (R130). -/
  | stb (xs a : XReg) (off : BitVec 13)
  /-- STH (R130). -/
  | sth (xs a : XReg) (off : BitVec 13)
  /-- STW (R130). -/
  | stw (xs a : XReg) (off : BitVec 13)
  /-- STD (R130). -/
  | std (xs a : XReg) (off : BitVec 13)
  /-- LDA (R131). -/
  | lda (d a : XReg) (scope : Scope) (wide : Bool)
  /-- STL (R131). -/
  | stl (xs a : XReg) (scope : Scope) (wide : Bool)
  /-- BEQ (R132). -/
  | beq (a b : XReg) (off : BitVec 13)
  /-- BNE (R132). -/
  | bne (a b : XReg) (off : BitVec 13)
  /-- BLT (R132). -/
  | blt (a b : XReg) (off : BitVec 13)
  /-- BGE (R132). -/
  | bge (a b : XReg) (off : BitVec 13)
  /-- BLTU (R132). -/
  | bltu (a b : XReg) (off : BitVec 13)
  /-- BGEU (R132). -/
  | bgeu (a b : XReg) (off : BitVec 13)
  /-- JAL (R133). -/
  | jal (off : BitVec 26)
  /-- JALR (R133). -/
  | jalr (d a : XReg) (imm : BitVec 16)
  /-- AADD (R134). -/
  | aadd (d a b : XReg) (scope : Scope) (order : Order) (wide : Bool)
  /-- AINCB (R134). -/
  | aincb (d a b : XReg) (scope : Scope) (order : Order) (wide : Bool)
  /-- ACAS (R134). -/
  | acas (d a b : XReg) (scope : Scope) (order : Order) (wide : Bool)
  /-- ASWP (R134). -/
  | aswp (d a b : XReg) (scope : Scope) (order : Order) (wide : Bool)
  /-- AMIN (R134). -/
  | amin (d a b : XReg) (scope : Scope) (order : Order) (wide : Bool)
  /-- AMAX (R134). -/
  | amax (d a b : XReg) (scope : Scope) (order : Order) (wide : Bool)
  /-- AAND (R134). -/
  | aand (d a b : XReg) (scope : Scope) (order : Order) (wide : Bool)
  /-- AOR (R134). -/
  | aor (d a b : XReg) (scope : Scope) (order : Order) (wide : Bool)
  /-- LMOVE (R136). -/
  | lmove (d a b : XReg) (scope : Scope) (order : Order)
  /-- SETVL (R141). -/
  | setvl (d a : XReg)
  /-- SETVLX (R142). -/
  | setvlx (d a b : XReg)
  /-- SETSHAPE (R143). -/
  | setshape (d a b : XReg)
  /-- SETVT (R144). -/
  | setvt (d a : XReg)
  /-- VTAG (R145). -/
  | vtag (d : VReg) (code : BitVec 6)
  /-- SETSB (R146). -/
  | setsb (a : XReg)
  /-- SETPSEQ (R146). -/
  | setpseq (a : XReg)
  /-- VADD (R147). -/
  | vadd (d a b : VReg) (m ca cb : Bool)
  /-- VSUB (R147). -/
  | vsub (d a b : VReg) (m ca cb : Bool)
  /-- VMUL (R147). -/
  | vmul (d a b : VReg) (m ca cb : Bool)
  /-- VDIV (R147). -/
  | vdiv (d a b : VReg) (m ca cb : Bool)
  /-- VSQRT (R148). -/
  | vsqrt (d a : VReg) (m ca : Bool)
  /-- VMIN (R147). -/
  | vmin (d a b : VReg) (m ca cb : Bool)
  /-- VMAX (R147). -/
  | vmax (d a b : VReg) (m ca cb : Bool)
  /-- VABS (R148). -/
  | vabs (d a : VReg) (m ca : Bool)
  /-- VNEG (R148). -/
  | vneg (d a : VReg) (m ca : Bool)
  /-- VAND (R150). -/
  | vand (d a b : VReg) (m ca cb : Bool)
  /-- VOR (R150). -/
  | vor (d a b : VReg) (m ca cb : Bool)
  /-- VXOR (R150). -/
  | vxor (d a b : VReg) (m ca cb : Bool)
  /-- VNOT (R150). -/
  | vnot (d a : VReg) (m ca : Bool)
  /-- VSLL (R151). -/
  | vsll (d a b : VReg) (m ca cb : Bool)
  /-- VSRL (R151). -/
  | vsrl (d a b : VReg) (m ca cb : Bool)
  /-- VSRA (R151). -/
  | vsra (d a b : VReg) (m ca cb : Bool)
  /-- VMULH (R147). -/
  | vmulh (d a b : VReg) (m ca cb : Bool)
  /-- VREM (R147). -/
  | vrem (d a b : VReg) (m ca cb : Bool)
  /-- VCLZ (R152). -/
  | vclz (d a : VReg) (m ca : Bool)
  /-- VCNT (R152). -/
  | vcnt (d a : VReg) (m ca : Bool)
  /-- VRCPE (R149). -/
  | vrcpe (d a : VReg) (m ca : Bool)
  /-- VRSQE (R149). -/
  | vrsqe (d a : VReg) (m ca : Bool)
  /-- VMV (R153). -/
  | vmv (d a : VReg) (m ca : Bool)
  /-- VMERGE (R154). -/
  | vmerge (d a b : VReg) (ca cb : Bool)
  /-- VCVT (R155). -/
  | vcvt (d a : VReg) (code : BitVec 6) (m ca : Bool)
  /-- VFMA (R156). -/
  | vfma (d a b : VReg) (m ca cb : Bool)
  /-- VFMS (R156). -/
  | vfms (d a b : VReg) (m ca cb : Bool)
  /-- VFNMA (R156). -/
  | vfnma (d a b : VReg) (m ca cb : Bool)
  /-- VWADD (R158). -/
  | vwadd (d a b : VReg) (m ca cb : Bool)
  /-- VWSUB (R158). -/
  | vwsub (d a b : VReg) (m ca cb : Bool)
  /-- VWMUL (R158). -/
  | vwmul (d a b : VReg) (m ca cb : Bool)
  /-- VWFMA (R158). -/
  | vwfma (d a b : VReg) (m ca cb : Bool)
  /-- VNARROW (R159). -/
  | vnarrow (d a : VReg) (m ca : Bool)
  /-- VILV (R160). -/
  | vilv (d a b : VReg) (m ca cb : Bool)
  /-- VDILV (R160). -/
  | vdilv (d a : VReg) (m ca : Bool)
  /-- VSCALE (R161). -/
  | vscale (d a b : VReg) (m ca cb : Bool)
  /-- VQUANT (R162). -/
  | vquant (d a b : VReg) (m ca : Bool)
  /-- VADD_X (R163). -/
  | vaddX (d a : VReg) (b : XReg) (m ca : Bool)
  /-- VSUB_X (R163). -/
  | vsubX (d a : VReg) (b : XReg) (m ca : Bool)
  /-- VMUL_X (R163). -/
  | vmulX (d a : VReg) (b : XReg) (m ca : Bool)
  /-- VMIN_X (R163). -/
  | vminX (d a : VReg) (b : XReg) (m ca : Bool)
  /-- VMAX_X (R163). -/
  | vmaxX (d a : VReg) (b : XReg) (m ca : Bool)
  /-- VAND_X (R163). -/
  | vandX (d a : VReg) (b : XReg) (m ca : Bool)
  /-- VOR_X (R163). -/
  | vorX (d a : VReg) (b : XReg) (m ca : Bool)
  /-- VXOR_X (R163). -/
  | vxorX (d a : VReg) (b : XReg) (m ca : Bool)
  /-- VSLL_X (R163). -/
  | vsllX (d a : VReg) (b : XReg) (m ca : Bool)
  /-- VSRL_X (R163). -/
  | vsrlX (d a : VReg) (b : XReg) (m ca : Bool)
  /-- VSRA_X (R163). -/
  | vsraX (d a : VReg) (b : XReg) (m ca : Bool)
  /-- VFMA_X (R163). -/
  | vfmaX (d a : VReg) (b : XReg) (m ca : Bool)
  /-- VBCST (R164). -/
  | vbcst (d : VReg) (b : XReg) (m : Bool)
  /-- VIDX (R164). -/
  | vidx (d : VReg) (m : Bool)
  /-- VCMP_EQ (R165). -/
  | vcmpEq (d : MReg) (a : VReg) (b : CmpOperand) (m ca : Bool)
  /-- VCMP_NE (R165). -/
  | vcmpNe (d : MReg) (a : VReg) (b : CmpOperand) (m ca : Bool)
  /-- VCMP_LT (R165). -/
  | vcmpLt (d : MReg) (a : VReg) (b : CmpOperand) (m ca : Bool)
  /-- VCMP_LE (R165). -/
  | vcmpLe (d : MReg) (a : VReg) (b : CmpOperand) (m ca : Bool)
  /-- VCMP_GT (R165). -/
  | vcmpGt (d : MReg) (a : VReg) (b : CmpOperand) (m ca : Bool)
  /-- VCMP_GE (R165). -/
  | vcmpGe (d : MReg) (a : VReg) (b : CmpOperand) (m ca : Bool)
  /-- VCMP_UN (R165). -/
  | vcmpUn (d : MReg) (a : VReg) (b : CmpOperand) (m ca : Bool)
  /-- VCMP_OR (R165). -/
  | vcmpOr (d : MReg) (a : VReg) (b : CmpOperand) (m ca : Bool)
  /-- MAND (R166). -/
  | mand (d a b : MReg) (m : Bool)
  /-- MOR (R166). -/
  | mor (d a b : MReg) (m : Bool)
  /-- MXOR (R166). -/
  | mxor (d a b : MReg) (m : Bool)
  /-- MANDN (R166). -/
  | mandn (d a b : MReg) (m : Bool)
  /-- MNOT (R166). -/
  | mnot (d a : MReg) (m : Bool)
  /-- MCNT (R167). -/
  | mcnt (d : XReg) (a : MReg) (m : Bool)
  /-- MFFS (R167). -/
  | mffs (d : XReg) (a : MReg) (m : Bool)
  /-- MTOX (R168). -/
  | mtox (d : XReg) (a : MReg) (b : XReg) (m : Bool)
  /-- MXTOM (R168). -/
  | mxtom (d : MReg) (a b : XReg) (m : Bool)
  /-- MPREF (R169). -/
  | mpref (d : VReg) (a : MReg) (m : Bool)
  /-- MSBF (R166). -/
  | msbf (d a : MReg) (m : Bool)
  /-- VREDS (R170). -/
  | vreds (d a : VReg) (m ca : Bool)
  /-- VDOTS (R170). -/
  | vdots (d a b : VReg) (m ca cb : Bool)
  /-- VFOLD (R171). -/
  | vfold (d : XReg) (a : VReg) (b : XReg) (ca : Bool)
  /-- VREDMAX (R172). -/
  | vredmax (d : XReg) (a : VReg) (b : XReg) (m ca : Bool)
  /-- VREDMIN (R172). -/
  | vredmin (d : XReg) (a : VReg) (b : XReg) (m ca : Bool)
  /-- VREDAND (R172). -/
  | vredand (d : XReg) (a : VReg) (b : XReg) (m ca : Bool)
  /-- VREDOR (R172). -/
  | vredor (d : XReg) (a : VReg) (b : XReg) (m ca : Bool)
  /-- VLD (R176). -/
  | vld (d : VReg) (base : XReg) (m : Bool)
  /-- VLDS (R176). -/
  | vlds (d : VReg) (base stride : XReg) (m : Bool)
  /-- VLDX (R176). -/
  | vldx (d : VReg) (base : XReg) (idx : VReg) (m ca : Bool)
  /-- VLD_O (R176). -/
  | vldO (d : VReg) (base : XReg) (m : Bool)
  /-- VLDS_O (R176). -/
  | vldsO (d : VReg) (base stride : XReg) (m : Bool)
  /-- VLDX_O (R176). -/
  | vldxO (d : VReg) (base : XReg) (idx : VReg) (m ca : Bool)
  /-- VST (R176). -/
  | vst (vs : VReg) (base : XReg) (m ca : Bool)
  /-- VSTS (R176). -/
  | vsts (vs : VReg) (base stride : XReg) (m ca : Bool)
  /-- VSTX (R176). -/
  | vstx (vs : VReg) (base : XReg) (idx : VReg) (m ca : Bool)
  /-- VST_O (R176). -/
  | vstO (vs : VReg) (base : XReg) (m ca : Bool)
  /-- VSTS_O (R176). -/
  | vstsO (vs : VReg) (base stride : XReg) (m ca : Bool)
  /-- VSTX_O (R176). -/
  | vstxO (vs : VReg) (base : XReg) (idx : VReg) (m ca : Bool)
  /-- VLDT (R179). -/
  | vldt (d a : VReg) (b : XReg) (m ca : Bool)
  /-- VSTT (R179). -/
  | vstt (vs a : VReg) (b : XReg) (m ca : Bool)
  /-- VLDSP (R182). -/
  | vldsp (d : VReg) (base : XReg) (m : Bool)
  /-- VLDSH (R182). -/
  | vldsh (d : VReg) (base : XReg) (m : Bool)
  /-- VPREF (R184). -/
  | vpref (base : XReg)
  /-- VCOMPRESS (R185). -/
  | vcompress (d a : VReg) (m ca : Bool)
  /-- VEXPAND (R185). -/
  | vexpand (d a : VReg) (m ca : Bool)
  /-- VCONF (R185). -/
  | vconf (d a : VReg) (m ca : Bool)
  /-- VRANK (R186). -/
  | vrank (d a b : VReg) (m ca cb : Bool)
  /-- VSELB (R186). -/
  | vselb (d a b : VReg) (m ca cb : Bool)
  /-- VPUSH (R187). -/
  | vpush (d a b : VReg) (m ca cb : Bool)
  /-- VPULL (R185). -/
  | vpull (d a b : VReg) (m ca cb : Bool)
  /-- VSLDN (R185). -/
  | vsldn (d a : VReg) (b : XReg) (m ca : Bool)
  /-- VSLUP (R185). -/
  | vslup (d a : VReg) (b : XReg) (m ca : Bool)
  /-- VRND (R188). -/
  | vrnd (d : VReg) (b : XReg) (m : Bool)
  /-- VRNDF (R188). -/
  | vrndf (d : VReg) (b : XReg) (m : Bool)
  /-- VACC (R189). -/
  | vacc (d : MReg) (a : VReg) (b : XReg) (ca : Bool)
  /-- OPLOAD (R195). -/
  | opload (d a : XReg) (slot : Slot)
  /-- OPQRY (R196). -/
  | opqry (d : XReg) (slot : Slot)
  /-- OPCLR (R196). -/
  | opclr (slot : Slot)
  /-- PASS (R202). -/
  | pass (d c : VReg) (slot first : Slot) (cnt : BitVec 3) (desc : Bool) (ksrc : KSrc)
  /-- PASSK (R203). -/
  | passk (d c k : VReg) (slot : Slot)
  /-- VMERGEK (R208). -/
  | vmergek (d c : VReg) (k : XReg) (m ca : Bool)
  /-- MATT (R211). -/
  | matt (d a b : XReg)
  /-- MZRO (R213). -/
  | mzro (bin : Bin) (typ : ZeroTyp)
  /-- MASY (R221). -/
  | masy (bin : Bin) (k : XReg)
  /-- MRD (R220). -/
  | mrd (d : VReg) (bin : Bin) (r : XReg)
  /-- MWR (R220). -/
  | mwr (bin : Bin) (vs : VReg) (r : XReg)
  /-- MAGET (R225). -/
  | maget (d c : VReg) (bin : Bin) (r : XReg)
  /-- MTHR (R226). -/
  | mthr (d : XReg) (bin : Bin) (r : XReg)
  /-- MOPA (R215). -/
  | mopa (bin : Bin) (a b : VReg) (m ca cb : Bool)
  /-- MOPS (R219). -/
  | mops (bin : Bin) (a b vmeta : VReg) (m ca cb cm : Bool)
  /-- MASV (R223). -/
  | masv (bin : Bin) (a c : VReg) (r : XReg) (m ca cb : Bool)
  /-- MDRN (R224). -/
  | mdrn (bin src : Bin) (base : XReg)
  /-- VFETCH (R230). -/
  | vfetch (a b : XReg)
  /-- LFETCH (R232). -/
  | lfetch (a b : XReg)
  /-- LVPID (R233). -/
  | lvpid (d : XReg)
  /-- VWHILE_EQ (R236). -/
  | vwhileEq (a : VReg) (b : LoopOperand) (off : BitVec 10)
  /-- VWHILE_NE (R236). -/
  | vwhileNe (a : VReg) (b : LoopOperand) (off : BitVec 10)
  /-- VWHILE_LT (R236). -/
  | vwhileLt (a : VReg) (b : LoopOperand) (off : BitVec 10)
  /-- VWHILE_LE (R236). -/
  | vwhileLe (a : VReg) (b : LoopOperand) (off : BitVec 10)
  /-- VWHILE_GT (R236). -/
  | vwhileGt (a : VReg) (b : LoopOperand) (off : BitVec 10)
  /-- VWHILE_GE (R236). -/
  | vwhileGe (a : VReg) (b : LoopOperand) (off : BitVec 10)
  /-- VWHILE_UN (R236). -/
  | vwhileUn (a : VReg) (b : LoopOperand) (off : BitVec 10)
  /-- VWHILE_OR (R236). -/
  | vwhileOr (a : VReg) (b : LoopOperand) (off : BitVec 10)
  /-- CPY (R239). -/
  | cpy (d a b c : XReg)
  /-- CPYB (R240). -/
  | cpyb (d : MReg) (a : VReg)
  /-- COLL (R247). -/
  | coll (d a : XReg)
  /-- EWAIT (R241). -/
  | ewait (a : XReg)
  /-- ETST (R241). -/
  | etst (d a : XReg)
  /-- VXFD_RLE (R245). -/
  | vxfdRle (d a : VReg) (b : XReg) (ca : Bool)
  /-- VXFD_DELTA (R245). -/
  | vxfdDelta (d a : VReg) (b : XReg) (ca : Bool)
  /-- VXFD_PLANE (R245). -/
  | vxfdPlane (d a : VReg) (b : XReg) (ca : Bool)
  /-- VXFD_SECT (R245). -/
  | vxfdSect (d a : VReg) (b : XReg) (ca : Bool)
  /-- VXFE_RLE (R245). -/
  | vxfeRle (d a : VReg) (b : XReg) (ca : Bool)
  /-- VXFE_DELTA (R245). -/
  | vxfeDelta (d a : VReg) (b : XReg) (ca : Bool)
  /-- VXFE_PLANE (R245). -/
  | vxfePlane (d a : VReg) (b : XReg) (ca : Bool)
  /-- VXFE_SECT (R245). -/
  | vxfeSect (d a : VReg) (b : XReg) (ca : Bool)
  /-- NOP (R119). -/
  | nop
  /-- HALT (R120). -/
  | halt
  /-- YIELD (R121). -/
  | yield
  /-- SYSC (R121). -/
  | sysc
  /-- BKPT (R121). -/
  | bkpt
  /-- TRET (R122). -/
  | tret
  /-- MDET (R212). -/
  | mdet
  /-- LSPLIT (R228). -/
  | lsplit
  /-- LJOIN (R233). -/
  | ljoin
  /-- Event STALL_CHANGE_REQUEST (R15). -/
  | stallChangeRequest
  /-- Event STALL_ADOPTION (R16). -/
  | stallAdoption
  /-- Event SETVL_YIELD (R141). -/
  | setvlYield
  /-- Event HART_END (R120). -/
  | hartEnd
  /-- Event BARRIER_COMPLETION (R124). -/
  | barrierCompletion
  /-- Event ENGINE_TRANSFER_END (R263). -/
  | engineTransferEnd
  /-- Event ENGINE_TRANSFER_FAILURE (R242). -/
  | engineTransferFailure
  /-- Event HARD_STOP (R292). -/
  | hardStop
  /-- Event CONTEXT_RESTORE (R370). -/
  | contextRestore
  /-- Event YIELD_REQUEST (R363). -/
  | yieldRequest
  /-- Event YIELD_WINDOW_EXPIRY (R362). -/
  | yieldWindowExpiry
  /-- Event NARROWING_TIMEOUT (R356). -/
  | narrowingTimeout
  /-- Event MATRIX_ARBITRATION (R355). -/
  | matrixArbitration
  /-- Event LANE_BLOCK_READY (R232). -/
  | laneBlockReady
  /-- Event LANE_RUN_JOIN (R230). -/
  | laneRunJoin
  /-- Event MALFORMED_ACCESS (R334). -/
  | malformedAccess
  /-- Event HOST_READ (R336). -/
  | hostRead
  /-- Event HOST_WRITE (R336). -/
  | hostWrite
  /-- Event HOST_ATOMIC (R336). -/
  | hostAtomic
  /-- Event HOST_LMOVE (R336). -/
  | hostLmove
  /-- Event HOST_REGISTER_WRITE (R334). -/
  | hostRegisterWrite
  /-- Event LINK_HOLD (R338). -/
  | linkHold
  /-- Event LINK_HOLD_RELEASE (R338). -/
  | linkHoldRelease
  /-- Event LINK_DOWN (R339). -/
  | linkDown
  /-- Event LINK_UP (R339). -/
  | linkUp
  /-- Event LINK_ACCESS_TIMEOUT (R339). -/
  | linkAccessTimeout
  /-- Event QUEUE_ENABLE (R345). -/
  | queueEnable
  /-- Event QUEUE_RESET (R348). -/
  | queueReset
  /-- Event QUEUE_RESET_DONE (R348). -/
  | queueResetDone
  /-- Event LAUNCH_ACCEPT (R346). -/
  | launchAccept
  /-- Event GANG_PLACEMENT (R354). -/
  | gangPlacement
  /-- Event COMPLETION_POST (R343). -/
  | completionPost
  /-- Event PREEMPTION (R359). -/
  | preemption
  /-- Event AGING_EXPIRY (R358). -/
  | agingExpiry
  /-- Event SYSC_NULL (R366). -/
  | syscNull
  /-- Event SYSC_TIME (R366). -/
  | syscTime
  /-- Event SYSC_BUDGET (R366). -/
  | syscBudget
  /-- Event SYSC_PREFAULT (R366). -/
  | syscPrefault
  /-- Event SYSC_UNKNOWN (R366). -/
  | syscUnknown
  /-- Event DEVICE_PAGE_MAP (R379). -/
  | devicePageMap
  /-- Event FAULT_RECORD_POST (R381). -/
  | faultRecordPost
  /-- Event FRESP_RETRY (R382). -/
  | frespRetry
  /-- Event FRESP_END (R382). -/
  | frespEnd
  /-- Event INVALIDATE (R378). -/
  | invalidate
  /-- Event INVALIDATION_COMPLETE (R378). -/
  | invalidationComplete
  /-- Event DEVICE_RESET (R387). -/
  | deviceReset
  /-- Event RECOVERY_GO (R388). -/
  | recoveryGo
  /-- Event FIRMWARE_FLASH_WRITE (R389). -/
  | firmwareFlashWrite
  /-- Event ATTEST_REQUEST (R391). -/
  | attestRequest
  /-- Event ATTEST_REPORT_COMPLETE (R391). -/
  | attestReportComplete
  /-- Event DOMAIN_ENABLE (R392). -/
  | domainEnable
  /-- Event FABRIC_ACK_TIMEOUT (R395). -/
  | fabricAckTimeout
  /-- Event FLIT_CRC_REPLAY (R397). -/
  | flitCrcReplay
  /-- Event PORT_TRAIN (R397). -/
  | portTrain
  /-- Event COLLECTIVE_TIMEOUT (R254). -/
  | collectiveTimeout
  /-- Event COLLECTIVE_END (R271). -/
  | collectiveEnd
  /-- Event HBM_SCRUB (R404). -/
  | hbmScrub
  /-- Event GOVERNOR_TICK (R406). -/
  | governorTick
  /-- Event THERMAL_THROTTLE (R407). -/
  | thermalThrottle
  /-- Event THERMAL_THROTTLE_END (R407). -/
  | thermalThrottleEnd
  /-- Event THERMAL_TRIP (R407). -/
  | thermalTrip
  /-- Event REMOTE_ACCESS (R394). -/
  | remoteAccess
  /-- Event DMEMB_WRITE (R396). -/
  | dmembWrite
  /-- Event POWER_LOSS (R389). -/
  | powerLoss
  deriving DecidableEq, Repr

end Sys2Proof
end

