-- ==== Sys2Proof/WellFormed.lean ====
section
/-!
DEFINITION. Well-formedness of an instruction beyond the ranges its field types carry: the refusals of
R96 and R409 (spec 03) that rest on a combination of fields. `breach` names the detail that R409 gives
the refusal; an instruction is well formed when it breaks none.
-/
namespace Sys2Proof

/-- `r` is one of the two registers of the pair that starts at `p` (R157). -/
def inPair (r p : VReg) : Bool := r.val == p.val || r.val == p.val + 1

/-- An odd register where a pair is named (R409, detail 6). -/
def oddReg (r : VReg) : Bool := r.val % 2 == 1

/-- System register numbers assigned by R39. -/
def sysAssigned (num : BitVec 12) : Bool := num.toNat ≤ 0x20

/-- The stage list of PASS stays within 0 to 15 (R89). -/
def stageListOk (first : Slot) (cnt : BitVec 3) (desc : Bool) : Bool :=
  if desc then cnt.toNat ≤ first.val else first.val + cnt.toNat ≤ 15

/-- SRD and SWR name an assigned register below 0x800 (R40). -/
def sysBreach (num : BitVec 12) : Option Nat :=
  if 0x800 ≤ num.toNat then some 4 else if sysAssigned num then none else some 0

/-- `some d` when `bad` holds. -/
def breachIf (bad : Bool) (d : Nat) : Option Nat := if bad then some d else none

/-- Widening forms: an even destination pair that no source lies in (R157, R161). -/
def wideBreach (d a b : VReg) : Option Nat := breachIf (oddReg d || inPair a d || inPair b d) 6

/-- The detail of the first refusal of R409 that the instruction's fields break, in the order
0, 2, 3, 4, 6; `none` when the instruction is well formed. Detail 1, and detail 2 but for the xb of a .PLANE form
(R245), are about the bits of a word. -/
def Instr.breach : Instr → Option Nat
  | .srd _ num => sysBreach num
  | .swr num _ => sysBreach num
  | .fence _ bits => breachIf (bits == 0) 0
  | .pfx _ _ copy slices => breachIf (copy.isSome != (slices != 0)) 3
  | .vcvt _ _ code _ _ => breachIf (0x13 ≤ code.toNat && code.toNat ≤ 0x1F) 0
  | .vwadd d a b _ _ _ => wideBreach d a b
  | .vwsub d a b _ _ _ => wideBreach d a b
  | .vwmul d a b _ _ _ => wideBreach d a b
  | .vwfma d a b _ _ _ => wideBreach d a b
  | .vscale d a b _ _ _ => wideBreach d a b
  | .vilv d a b _ _ _ => wideBreach d a b
  | .vnarrow d a _ _ => breachIf (oddReg a || inPair d a) 6
  | .vdilv d a _ _ => breachIf (oddReg a || oddReg d || d == a) 6
  | .vquant d a b _ _ => breachIf (oddReg a || d == b || inPair d a || inPair b a) 6
  | .vreds d a _ _ => breachIf (d == a) 6
  | .vdots d a b _ _ _ => breachIf (d == a || d == b) 6
  | .vcompress d a _ _ => breachIf (d == a) 6
  | .vexpand d a _ _ => breachIf (d == a) 6
  | .vconf d a _ _ => breachIf (d == a) 6
  | .vrank d a b _ _ _ => breachIf (d == a || d == b) 6
  | .vselb d a b _ _ _ => breachIf (d == a || d == b) 6
  | .vpush d a b _ _ _ => breachIf (d == a || d == b) 6
  | .vpull d a b _ _ _ => breachIf (d == a || d == b) 6
  | .vsldn d a _ _ _ => breachIf (d == a) 6
  | .vslup d a _ _ _ => breachIf (d == a) 6
  | .vacc _ a _ _ => breachIf (oddReg a) 6
  | .pass d c _ first n desc _ => (breachIf (!stageListOk first n desc) 0).or (breachIf (d == c) 6)
  | .passk d c k _ => breachIf (d == c || k == d || k == c) 6
  | .vmergek d c _ _ _ => breachIf (d == c) 6
  | .mzro bin typ => breachIf (typ == .f64 && bin.val % 2 == 1) 6
  | .maget d c _ _ => breachIf (d == c) 6
  | .mdrn bin src _ => breachIf (bin == src) 6
  | .vwhileEq _ _ off | .vwhileNe _ _ off | .vwhileLt _ _ off | .vwhileLe _ _ off
  | .vwhileGt _ _ off | .vwhileGe _ _ off | .vwhileUn _ _ off | .vwhileOr _ _ off =>
    breachIf (off == 0) 0
  | .vxfdPlane d a b _ | .vxfePlane d a b _ => (breachIf (b != 0) 2).or (breachIf (d == a) 6)
  | .vxfdRle d a _ _ | .vxfdSect d a _ _ | .vxfeRle d a _ _ | .vxfeDelta d a _ _ | .vxfeSect d a _ _ =>
    breachIf (d == a) 6
  | _ => none

/-- An instruction that a word may encode: it breaks no rule of R409. -/
def Instr.wellFormed (i : Instr) : Bool := i.breach == none

end Sys2Proof
end

