-- ==== Sys2Proof/Decode.lean ====
section
/-!
DEFINITION. The decoder and the encoder of the AQZ-3100's 32-bit instruction words, written from the
formats, the opcode map and the field rules of spec 03 (R78 to R92, R409). Each `row…` function reads one
row of the opcode map: it makes the checks of detail 0 first, then those of detail 1, then detail 2, and
answers with the lowest detail that applies, as R409 orders them; `decodeWord` adds the details of
`Instr.breach`. At the end: the facts about a word that the prefix rules (R94) and R30 ask for.
-/
namespace Sys2Proof

/-- A row's reading of a word: an instruction, or the detail of its refusal (R96). -/
abbrev RowResult := Except Nat Instr

/-- Refuse with detail `d` unless `ok`. -/
def need (ok : Bool) (d : Nat) : Except Nat Unit := if ok then .ok () else .error d

/-- The `n` bits from `lo` are zero. -/
def zeroAt (w lo n : Nat) : Bool := fld w lo n == 0

/-- A 5-bit X register field. -/
def xAt (w lo : Nat) : XReg := ⟨fld w lo 5, Nat.mod_lt _ (by decide)⟩
/-- A 6-bit field that names an X register (R80). -/
def x6At (w lo : Nat) : Except Nat XReg :=
  if h : fld w lo 6 < 32 then .ok ⟨fld w lo 6, h⟩ else .error 1
/-- A vector register field (R80). -/
def vAt (w lo : Nat) : Except Nat VReg :=
  if h : fld w lo 6 < 48 then .ok ⟨fld w lo 6, h⟩ else .error 1
/-- A 6-bit mask register field (R80). -/
def mAt (w lo : Nat) : Except Nat MReg :=
  if h : fld w lo 6 < 12 then .ok ⟨fld w lo 6, h⟩ else .error 1
/-- The 4-bit mask destination of CPYB (R91). -/
def m4At (w lo : Nat) : Except Nat MReg :=
  if h : fld w lo 4 < 12 then .ok ⟨fld w lo 4, h⟩ else .error 1
/-- An operator slot field. -/
def slotAt (w lo : Nat) : Slot := ⟨fld w lo 4, Nat.mod_lt _ (by decide)⟩
/-- A bin field. -/
def binAt (w lo : Nat) : Bin := ⟨fld w lo 2, Nat.mod_lt _ (by decide)⟩
/-- An immediate of `n` bits. -/
def immAt (w lo n : Nat) : BitVec n := BitVec.ofNat n (fld w lo n)

/-- A scope field (R86). -/
def scopeAt (w lo : Nat) : Except Nat Scope :=
  match fld w lo 3 with
  | 0 => .ok .hart | 1 => .ok .core | 2 => .ok .quad | 3 => .ok .device | 4 => .ok .domain
  | _ => .error 0
/-- An order field (R86). -/
def orderAt (w lo : Nat) : Order :=
  match fld w lo 2 with
  | 0 => .relaxed | 1 => .acquire | 2 => .release | _ => .acqRel
/-- The ksrc field of PASS; 3 is reserved (R89). -/
def ksrcAt (w lo : Nat) : Except Nat KSrc :=
  match fld w lo 2 with
  | 0 => .ok .none | 1 => .ok .bit | 2 => .ok .all | _ => .error 0
/-- The typ field of MZRO; 3 to 63 are reserved (R90). -/
def ztypAt (w lo : Nat) : Except Nat ZeroTyp :=
  match fld w lo 6 with
  | 0 => .ok .f32 | 1 => .ok .i32 | 2 => .ok .f64 | _ => .error 0
/-- The second operand of VCMP: sx is bit 5, the operand [13:8] (R79, R80). -/
def cmpAt (w : Nat) : Except Nat CmpOperand :=
  if bitAt w 5 then .ok (.scalar (xAt w 8))
  else if fld w 8 6 == 62 then .ok .athr
  else do let v ← vAt w 8; .ok (.vec v)
/-- The second operand of VWHILE: sx is bit 13, the operand [19:14] (R79, R91). -/
def loopAt (w : Nat) : Except Nat LoopOperand :=
  if bitAt w 13 then .ok (.scalar (xAt w 14))
  else do let v ← vAt w 14; .ok (.vec v)
/-- The copy field of PFX: a vector register, or 63 for none; 48 to 62 break R92. -/
def copyAt (w lo : Nat) : Except Nat PfxCopy :=
  if h : fld w lo 6 < 48 then .ok (some ⟨fld w lo 6, h⟩)
  else if fld w lo 6 == 63 then .ok none else .error 3
/-- The mask field of PFX; 12 to 15 break R92. -/
def pfxMaskAt (w lo : Nat) : Except Nat PfxMask :=
  if h : fld w lo 4 < 12 then .ok ⟨fld w lo 4, h⟩ else .error 3

/-- NOP. -/
def rowNop (w : Nat) : RowResult := do
  need (zeroAt w 4 22) 2
  .ok (.nop)

/-- HALT. -/
def rowHalt (w : Nat) : RowResult := do
  need (zeroAt w 4 22) 2
  .ok (.halt)

/-- YIELD. -/
def rowYield (w : Nat) : RowResult := do
  need (zeroAt w 4 22) 2
  .ok (.yield)

/-- SYSC. -/
def rowSysc (w : Nat) : RowResult := do
  need (zeroAt w 4 22) 2
  .ok (.sysc)

/-- BKPT. -/
def rowBkpt (w : Nat) : RowResult := do
  need (zeroAt w 4 22) 2
  .ok (.bkpt)

/-- TRET. -/
def rowTret (w : Nat) : RowResult := do
  need (zeroAt w 4 22) 2
  .ok (.tret)

/-- SRD. -/
def rowSrd (w : Nat) : RowResult := do
  need (decide (fld w 4 12 ≤ 0x20) || decide (0x800 ≤ fld w 4 12)) 0
  need (zeroAt w 16 5) 2
  .ok (.srd (xAt w 21) (immAt w 4 12))

/-- SWR. -/
def rowSwr (w : Nat) : RowResult := do
  need (decide (fld w 4 12 ≤ 0x20) || decide (0x800 ≤ fld w 4 12)) 0
  need (zeroAt w 21 5) 2
  .ok (.swr (immAt w 4 12) (xAt w 16))

/-- FENCE. -/
def rowFence (w : Nat) : RowResult := do
  let scope ← scopeAt w 8
  need (!zeroAt w 4 4) 0
  need (zeroAt w 11 5 && zeroAt w 16 5 && zeroAt w 21 5) 2
  .ok (.fence scope (immAt w 4 4))

/-- GBAR. -/
def rowGbar (w : Nat) : RowResult := do
  let scope ← scopeAt w 8
  need (zeroAt w 4 4 && zeroAt w 11 5 && zeroAt w 16 5 && zeroAt w 21 5) 2
  .ok (.gbar scope)

/-- PFX. -/
def rowPfx (w : Nat) : RowResult := do
  need (zeroAt w 0 12) 2
  let mask ← pfxMaskAt w 22
  let copy ← copyAt w 15
  .ok (.pfx mask (bitAt w 21) copy (immAt w 12 3))

/-- ADD. -/
def rowAdd (w : Nat) : RowResult := do
  need (zeroAt w 6 5) 2
  .ok (.add (xAt w 21) (xAt w 16) (xAt w 11))

/-- SUB. -/
def rowSub (w : Nat) : RowResult := do
  need (zeroAt w 6 5) 2
  .ok (.sub (xAt w 21) (xAt w 16) (xAt w 11))

/-- AND. -/
def rowAnd (w : Nat) : RowResult := do
  need (zeroAt w 6 5) 2
  .ok (.and (xAt w 21) (xAt w 16) (xAt w 11))

/-- OR. -/
def rowOr (w : Nat) : RowResult := do
  need (zeroAt w 6 5) 2
  .ok (.or (xAt w 21) (xAt w 16) (xAt w 11))

/-- XOR. -/
def rowXor (w : Nat) : RowResult := do
  need (zeroAt w 6 5) 2
  .ok (.xor (xAt w 21) (xAt w 16) (xAt w 11))

/-- SLL. -/
def rowSll (w : Nat) : RowResult := do
  need (zeroAt w 6 5) 2
  .ok (.sll (xAt w 21) (xAt w 16) (xAt w 11))

/-- SRL. -/
def rowSrl (w : Nat) : RowResult := do
  need (zeroAt w 6 5) 2
  .ok (.srl (xAt w 21) (xAt w 16) (xAt w 11))

/-- SRA. -/
def rowSra (w : Nat) : RowResult := do
  need (zeroAt w 6 5) 2
  .ok (.sra (xAt w 21) (xAt w 16) (xAt w 11))

/-- SLT. -/
def rowSlt (w : Nat) : RowResult := do
  need (zeroAt w 6 5) 2
  .ok (.slt (xAt w 21) (xAt w 16) (xAt w 11))

/-- SLTU. -/
def rowSltu (w : Nat) : RowResult := do
  need (zeroAt w 6 5) 2
  .ok (.sltu (xAt w 21) (xAt w 16) (xAt w 11))

/-- MIN. -/
def rowMin (w : Nat) : RowResult := do
  need (zeroAt w 6 5) 2
  .ok (.min (xAt w 21) (xAt w 16) (xAt w 11))

/-- MAX. -/
def rowMax (w : Nat) : RowResult := do
  need (zeroAt w 6 5) 2
  .ok (.max (xAt w 21) (xAt w 16) (xAt w 11))

/-- MINU. -/
def rowMinu (w : Nat) : RowResult := do
  need (zeroAt w 6 5) 2
  .ok (.minu (xAt w 21) (xAt w 16) (xAt w 11))

/-- MAXU. -/
def rowMaxu (w : Nat) : RowResult := do
  need (zeroAt w 6 5) 2
  .ok (.maxu (xAt w 21) (xAt w 16) (xAt w 11))

/-- MUL. -/
def rowMul (w : Nat) : RowResult := do
  need (zeroAt w 6 5) 2
  .ok (.mul (xAt w 21) (xAt w 16) (xAt w 11))

/-- MULH. -/
def rowMulh (w : Nat) : RowResult := do
  need (zeroAt w 6 5) 2
  .ok (.mulh (xAt w 21) (xAt w 16) (xAt w 11))

/-- MULHU. -/
def rowMulhu (w : Nat) : RowResult := do
  need (zeroAt w 6 5) 2
  .ok (.mulhu (xAt w 21) (xAt w 16) (xAt w 11))

/-- DIV. -/
def rowDiv (w : Nat) : RowResult := do
  need (zeroAt w 6 5) 2
  .ok (.div (xAt w 21) (xAt w 16) (xAt w 11))

/-- DIVU. -/
def rowDivu (w : Nat) : RowResult := do
  need (zeroAt w 6 5) 2
  .ok (.divu (xAt w 21) (xAt w 16) (xAt w 11))

/-- REM. -/
def rowRem (w : Nat) : RowResult := do
  need (zeroAt w 6 5) 2
  .ok (.rem (xAt w 21) (xAt w 16) (xAt w 11))

/-- REMU. -/
def rowRemu (w : Nat) : RowResult := do
  need (zeroAt w 6 5) 2
  .ok (.remu (xAt w 21) (xAt w 16) (xAt w 11))

/-- CLZ. -/
def rowClz (w : Nat) : RowResult := do
  need (zeroAt w 6 5 && zeroAt w 11 5) 2
  .ok (.clz (xAt w 21) (xAt w 16))

/-- CTZ. -/
def rowCtz (w : Nat) : RowResult := do
  need (zeroAt w 6 5 && zeroAt w 11 5) 2
  .ok (.ctz (xAt w 21) (xAt w 16))

/-- CNT. -/
def rowCnt (w : Nat) : RowResult := do
  need (zeroAt w 6 5 && zeroAt w 11 5) 2
  .ok (.cnt (xAt w 21) (xAt w 16))

/-- SEL. -/
def rowSel (w : Nat) : RowResult := .ok (.sel (xAt w 21) (xAt w 16) (xAt w 11) (xAt w 6))

/-- ADDI. -/
def rowAddi (w : Nat) : RowResult := .ok (.addi (xAt w 21) (xAt w 16) (immAt w 0 16))

/-- ANDI. -/
def rowAndi (w : Nat) : RowResult := .ok (.andi (xAt w 21) (xAt w 16) (immAt w 0 16))

/-- ORI. -/
def rowOri (w : Nat) : RowResult := .ok (.ori (xAt w 21) (xAt w 16) (immAt w 0 16))

/-- XORI. -/
def rowXori (w : Nat) : RowResult := .ok (.xori (xAt w 21) (xAt w 16) (immAt w 0 16))

/-- SLLI. -/
def rowSlli (w : Nat) : RowResult := do
  need (zeroAt w 6 8) 2
  .ok (.slli (xAt w 21) (xAt w 16) (immAt w 0 6))

/-- SRLI. -/
def rowSrli (w : Nat) : RowResult := do
  need (zeroAt w 6 8) 2
  .ok (.srli (xAt w 21) (xAt w 16) (immAt w 0 6))

/-- SRAI. -/
def rowSrai (w : Nat) : RowResult := do
  need (zeroAt w 6 8) 2
  .ok (.srai (xAt w 21) (xAt w 16) (immAt w 0 6))

/-- SLTI. -/
def rowSlti (w : Nat) : RowResult := .ok (.slti (xAt w 21) (xAt w 16) (immAt w 0 16))

/-- SLTIU. -/
def rowSltiu (w : Nat) : RowResult := .ok (.sltiu (xAt w 21) (xAt w 16) (immAt w 0 16))

/-- LUI. -/
def rowLui (w : Nat) : RowResult := do
  need (zeroAt w 16 5) 2
  .ok (.lui (xAt w 21) (immAt w 0 16))

/-- ADDPC. -/
def rowAddpc (w : Nat) : RowResult := do
  need (zeroAt w 16 5) 2
  .ok (.addpc (xAt w 21) (immAt w 0 16))

/-- FADD. -/
def rowFadd (w : Nat) : RowResult := do
  need (zeroAt w 6 5) 2
  .ok (.fadd (xAt w 21) (xAt w 16) (xAt w 11) (bitAt w 5))

/-- FSUB. -/
def rowFsub (w : Nat) : RowResult := do
  need (zeroAt w 6 5) 2
  .ok (.fsub (xAt w 21) (xAt w 16) (xAt w 11) (bitAt w 5))

/-- FMUL. -/
def rowFmul (w : Nat) : RowResult := do
  need (zeroAt w 6 5) 2
  .ok (.fmul (xAt w 21) (xAt w 16) (xAt w 11) (bitAt w 5))

/-- FDIV. -/
def rowFdiv (w : Nat) : RowResult := do
  need (zeroAt w 6 5) 2
  .ok (.fdiv (xAt w 21) (xAt w 16) (xAt w 11) (bitAt w 5))

/-- FSQRT. -/
def rowFsqrt (w : Nat) : RowResult := do
  need (zeroAt w 6 5 && zeroAt w 11 5) 2
  .ok (.fsqrt (xAt w 21) (xAt w 16) (bitAt w 5))

/-- FMIN. -/
def rowFmin (w : Nat) : RowResult := do
  need (zeroAt w 6 5) 2
  .ok (.fmin (xAt w 21) (xAt w 16) (xAt w 11) (bitAt w 5))

/-- FMAX. -/
def rowFmax (w : Nat) : RowResult := do
  need (zeroAt w 6 5) 2
  .ok (.fmax (xAt w 21) (xAt w 16) (xAt w 11) (bitAt w 5))

/-- FMA. -/
def rowFma (w : Nat) : RowResult := .ok (.fma (xAt w 21) (xAt w 16) (xAt w 11) (xAt w 6) (bitAt w 5))

/-- FNMA. -/
def rowFnma (w : Nat) : RowResult := .ok (.fnma (xAt w 21) (xAt w 16) (xAt w 11) (xAt w 6) (bitAt w 5))

/-- FEQ. -/
def rowFeq (w : Nat) : RowResult := do
  need (zeroAt w 6 5) 2
  .ok (.feq (xAt w 21) (xAt w 16) (xAt w 11) (bitAt w 5))

/-- FLT. -/
def rowFlt (w : Nat) : RowResult := do
  need (zeroAt w 6 5) 2
  .ok (.flt (xAt w 21) (xAt w 16) (xAt w 11) (bitAt w 5))

/-- FLE. -/
def rowFle (w : Nat) : RowResult := do
  need (zeroAt w 6 5) 2
  .ok (.fle (xAt w 21) (xAt w 16) (xAt w 11) (bitAt w 5))

/-- FCVT_D_L. -/
def rowFcvtDL (w : Nat) : RowResult := do
  need (zeroAt w 6 5 && zeroAt w 11 5) 2
  .ok (.fcvtDL (xAt w 21) (xAt w 16) (bitAt w 5))

/-- FCVT_L_D. -/
def rowFcvtLD (w : Nat) : RowResult := do
  need (zeroAt w 6 5 && zeroAt w 11 5) 2
  .ok (.fcvtLD (xAt w 21) (xAt w 16) (bitAt w 5))

/-- FCVT_D_S. -/
def rowFcvtDS (w : Nat) : RowResult := do
  need (zeroAt w 6 5 && zeroAt w 11 5) 2
  .ok (.fcvtDS (xAt w 21) (xAt w 16))

/-- FCVT_S_D. -/
def rowFcvtSD (w : Nat) : RowResult := do
  need (zeroAt w 6 5 && zeroAt w 11 5) 2
  .ok (.fcvtSD (xAt w 21) (xAt w 16))

/-- FABS. -/
def rowFabs (w : Nat) : RowResult := do
  need (zeroAt w 6 5 && zeroAt w 11 5) 2
  .ok (.fabs (xAt w 21) (xAt w 16) (bitAt w 5))

/-- FNEG. -/
def rowFneg (w : Nat) : RowResult := do
  need (zeroAt w 6 5 && zeroAt w 11 5) 2
  .ok (.fneg (xAt w 21) (xAt w 16) (bitAt w 5))

/-- FKIND. -/
def rowFkind (w : Nat) : RowResult := do
  need (zeroAt w 6 5 && zeroAt w 11 5) 2
  .ok (.fkind (xAt w 21) (xAt w 16) (bitAt w 5))

/-- LB. -/
def rowLb (w : Nat) : RowResult := .ok (.lb (xAt w 21) (xAt w 16) (immAt w 0 13))

/-- LBU. -/
def rowLbu (w : Nat) : RowResult := .ok (.lbu (xAt w 21) (xAt w 16) (immAt w 0 13))

/-- LH. -/
def rowLh (w : Nat) : RowResult := .ok (.lh (xAt w 21) (xAt w 16) (immAt w 0 13))

/-- LHU. -/
def rowLhu (w : Nat) : RowResult := .ok (.lhu (xAt w 21) (xAt w 16) (immAt w 0 13))

/-- LW. -/
def rowLw (w : Nat) : RowResult := .ok (.lw (xAt w 21) (xAt w 16) (immAt w 0 13))

/-- LWU. -/
def rowLwu (w : Nat) : RowResult := .ok (.lwu (xAt w 21) (xAt w 16) (immAt w 0 13))

/-- LD. -/
def rowLd (w : Nat) : RowResult := .ok (.ld (xAt w 21) (xAt w 16) (immAt w 0 13))

/-- STB. -/
def rowStb (w : Nat) : RowResult := .ok (.stb (xAt w 21) (xAt w 16) (immAt w 0 13))

/-- STH. -/
def rowSth (w : Nat) : RowResult := .ok (.sth (xAt w 21) (xAt w 16) (immAt w 0 13))

/-- STW. -/
def rowStw (w : Nat) : RowResult := .ok (.stw (xAt w 21) (xAt w 16) (immAt w 0 13))

/-- STD. -/
def rowStd (w : Nat) : RowResult := .ok (.std (xAt w 21) (xAt w 16) (immAt w 0 13))

/-- LDA. -/
def rowLda (w : Nat) : RowResult := do
  let scope ← scopeAt w 12
  need (zeroAt w 0 11) 2
  .ok (.lda (xAt w 21) (xAt w 16) scope (bitAt w 11))

/-- STL. -/
def rowStl (w : Nat) : RowResult := do
  let scope ← scopeAt w 12
  need (zeroAt w 0 11) 2
  .ok (.stl (xAt w 21) (xAt w 16) scope (bitAt w 11))

/-- BEQ. -/
def rowBeq (w : Nat) : RowResult := .ok (.beq (xAt w 21) (xAt w 16) (immAt w 0 13))

/-- BNE. -/
def rowBne (w : Nat) : RowResult := .ok (.bne (xAt w 21) (xAt w 16) (immAt w 0 13))

/-- BLT. -/
def rowBlt (w : Nat) : RowResult := .ok (.blt (xAt w 21) (xAt w 16) (immAt w 0 13))

/-- BGE. -/
def rowBge (w : Nat) : RowResult := .ok (.bge (xAt w 21) (xAt w 16) (immAt w 0 13))

/-- BLTU. -/
def rowBltu (w : Nat) : RowResult := .ok (.bltu (xAt w 21) (xAt w 16) (immAt w 0 13))

/-- BGEU. -/
def rowBgeu (w : Nat) : RowResult := .ok (.bgeu (xAt w 21) (xAt w 16) (immAt w 0 13))

/-- JAL. -/
def rowJal (w : Nat) : RowResult := .ok (.jal (immAt w 0 26))

/-- JALR. -/
def rowJalr (w : Nat) : RowResult := .ok (.jalr (xAt w 21) (xAt w 16) (immAt w 0 16))

/-- AADD. -/
def rowAadd (w : Nat) : RowResult := do
  let scope ← scopeAt w 8
  need (zeroAt w 0 2) 2
  .ok (.aadd (xAt w 21) (xAt w 16) (xAt w 11) scope (orderAt w 6) (bitAt w 2))

/-- AINCB. -/
def rowAincb (w : Nat) : RowResult := do
  let scope ← scopeAt w 8
  need (zeroAt w 0 2) 2
  .ok (.aincb (xAt w 21) (xAt w 16) (xAt w 11) scope (orderAt w 6) (bitAt w 2))

/-- ACAS. -/
def rowAcas (w : Nat) : RowResult := do
  let scope ← scopeAt w 8
  need (zeroAt w 0 2) 2
  .ok (.acas (xAt w 21) (xAt w 16) (xAt w 11) scope (orderAt w 6) (bitAt w 2))

/-- ASWP. -/
def rowAswp (w : Nat) : RowResult := do
  let scope ← scopeAt w 8
  need (zeroAt w 0 2) 2
  .ok (.aswp (xAt w 21) (xAt w 16) (xAt w 11) scope (orderAt w 6) (bitAt w 2))

/-- AMIN. -/
def rowAmin (w : Nat) : RowResult := do
  let scope ← scopeAt w 8
  need (zeroAt w 0 2) 2
  .ok (.amin (xAt w 21) (xAt w 16) (xAt w 11) scope (orderAt w 6) (bitAt w 2))

/-- AMAX. -/
def rowAmax (w : Nat) : RowResult := do
  let scope ← scopeAt w 8
  need (zeroAt w 0 2) 2
  .ok (.amax (xAt w 21) (xAt w 16) (xAt w 11) scope (orderAt w 6) (bitAt w 2))

/-- AAND. -/
def rowAand (w : Nat) : RowResult := do
  let scope ← scopeAt w 8
  need (zeroAt w 0 2) 2
  .ok (.aand (xAt w 21) (xAt w 16) (xAt w 11) scope (orderAt w 6) (bitAt w 2))

/-- AOR. -/
def rowAor (w : Nat) : RowResult := do
  let scope ← scopeAt w 8
  need (zeroAt w 0 2) 2
  .ok (.aor (xAt w 21) (xAt w 16) (xAt w 11) scope (orderAt w 6) (bitAt w 2))

/-- LMOVE. -/
def rowLmove (w : Nat) : RowResult := do
  let scope ← scopeAt w 8
  need (zeroAt w 0 6) 2
  .ok (.lmove (xAt w 21) (xAt w 16) (xAt w 11) scope (orderAt w 6))

/-- SETVL. -/
def rowSetvl (w : Nat) : RowResult := do
  need (zeroAt w 11 5 && zeroAt w 6 5) 2
  .ok (.setvl (xAt w 21) (xAt w 16))

/-- SETVLX. -/
def rowSetvlx (w : Nat) : RowResult := do
  need (zeroAt w 6 5) 2
  .ok (.setvlx (xAt w 21) (xAt w 16) (xAt w 11))

/-- SETSHAPE. -/
def rowSetshape (w : Nat) : RowResult := do
  need (zeroAt w 6 5) 2
  .ok (.setshape (xAt w 21) (xAt w 16) (xAt w 11))

/-- SETVT. -/
def rowSetvt (w : Nat) : RowResult := do
  need (zeroAt w 11 5 && zeroAt w 6 5) 2
  .ok (.setvt (xAt w 21) (xAt w 16))

/-- VTAG. -/
def rowVtag (w : Nat) : RowResult := do
  let d ← vAt w 20
  need (zeroAt w 6 8) 2
  .ok (.vtag d (immAt w 14 6))

/-- SETSB. -/
def rowSetsb (w : Nat) : RowResult := do
  need (zeroAt w 21 5 && zeroAt w 11 5 && zeroAt w 6 5) 2
  .ok (.setsb (xAt w 16))

/-- SETPSEQ. -/
def rowSetpseq (w : Nat) : RowResult := do
  need (zeroAt w 21 5 && zeroAt w 11 5 && zeroAt w 6 5) 2
  .ok (.setpseq (xAt w 16))

/-- VADD. -/
def rowVadd (w : Nat) : RowResult := do
  let d ← vAt w 20
  let a ← vAt w 14
  let b ← vAt w 8
  .ok (.vadd d a b (bitAt w 7) (bitAt w 6) (bitAt w 5))

/-- VSUB. -/
def rowVsub (w : Nat) : RowResult := do
  let d ← vAt w 20
  let a ← vAt w 14
  let b ← vAt w 8
  .ok (.vsub d a b (bitAt w 7) (bitAt w 6) (bitAt w 5))

/-- VMUL. -/
def rowVmul (w : Nat) : RowResult := do
  let d ← vAt w 20
  let a ← vAt w 14
  let b ← vAt w 8
  .ok (.vmul d a b (bitAt w 7) (bitAt w 6) (bitAt w 5))

/-- VDIV. -/
def rowVdiv (w : Nat) : RowResult := do
  let d ← vAt w 20
  let a ← vAt w 14
  let b ← vAt w 8
  .ok (.vdiv d a b (bitAt w 7) (bitAt w 6) (bitAt w 5))

/-- VSQRT. -/
def rowVsqrt (w : Nat) : RowResult := do
  let d ← vAt w 20
  let a ← vAt w 14
  need (zeroAt w 8 6 && zeroAt w 5 1) 2
  .ok (.vsqrt d a (bitAt w 7) (bitAt w 6))

/-- VMIN. -/
def rowVmin (w : Nat) : RowResult := do
  let d ← vAt w 20
  let a ← vAt w 14
  let b ← vAt w 8
  .ok (.vmin d a b (bitAt w 7) (bitAt w 6) (bitAt w 5))

/-- VMAX. -/
def rowVmax (w : Nat) : RowResult := do
  let d ← vAt w 20
  let a ← vAt w 14
  let b ← vAt w 8
  .ok (.vmax d a b (bitAt w 7) (bitAt w 6) (bitAt w 5))

/-- VABS. -/
def rowVabs (w : Nat) : RowResult := do
  let d ← vAt w 20
  let a ← vAt w 14
  need (zeroAt w 8 6 && zeroAt w 5 1) 2
  .ok (.vabs d a (bitAt w 7) (bitAt w 6))

/-- VNEG. -/
def rowVneg (w : Nat) : RowResult := do
  let d ← vAt w 20
  let a ← vAt w 14
  need (zeroAt w 8 6 && zeroAt w 5 1) 2
  .ok (.vneg d a (bitAt w 7) (bitAt w 6))

/-- VAND. -/
def rowVand (w : Nat) : RowResult := do
  let d ← vAt w 20
  let a ← vAt w 14
  let b ← vAt w 8
  .ok (.vand d a b (bitAt w 7) (bitAt w 6) (bitAt w 5))

/-- VOR. -/
def rowVor (w : Nat) : RowResult := do
  let d ← vAt w 20
  let a ← vAt w 14
  let b ← vAt w 8
  .ok (.vor d a b (bitAt w 7) (bitAt w 6) (bitAt w 5))

/-- VXOR. -/
def rowVxor (w : Nat) : RowResult := do
  let d ← vAt w 20
  let a ← vAt w 14
  let b ← vAt w 8
  .ok (.vxor d a b (bitAt w 7) (bitAt w 6) (bitAt w 5))

/-- VNOT. -/
def rowVnot (w : Nat) : RowResult := do
  let d ← vAt w 20
  let a ← vAt w 14
  need (zeroAt w 8 6 && zeroAt w 5 1) 2
  .ok (.vnot d a (bitAt w 7) (bitAt w 6))

/-- VSLL. -/
def rowVsll (w : Nat) : RowResult := do
  let d ← vAt w 20
  let a ← vAt w 14
  let b ← vAt w 8
  .ok (.vsll d a b (bitAt w 7) (bitAt w 6) (bitAt w 5))

/-- VSRL. -/
def rowVsrl (w : Nat) : RowResult := do
  let d ← vAt w 20
  let a ← vAt w 14
  let b ← vAt w 8
  .ok (.vsrl d a b (bitAt w 7) (bitAt w 6) (bitAt w 5))

/-- VSRA. -/
def rowVsra (w : Nat) : RowResult := do
  let d ← vAt w 20
  let a ← vAt w 14
  let b ← vAt w 8
  .ok (.vsra d a b (bitAt w 7) (bitAt w 6) (bitAt w 5))

/-- VMULH. -/
def rowVmulh (w : Nat) : RowResult := do
  let d ← vAt w 20
  let a ← vAt w 14
  let b ← vAt w 8
  .ok (.vmulh d a b (bitAt w 7) (bitAt w 6) (bitAt w 5))

/-- VREM. -/
def rowVrem (w : Nat) : RowResult := do
  let d ← vAt w 20
  let a ← vAt w 14
  let b ← vAt w 8
  .ok (.vrem d a b (bitAt w 7) (bitAt w 6) (bitAt w 5))

/-- VCLZ. -/
def rowVclz (w : Nat) : RowResult := do
  let d ← vAt w 20
  let a ← vAt w 14
  need (zeroAt w 8 6 && zeroAt w 5 1) 2
  .ok (.vclz d a (bitAt w 7) (bitAt w 6))

/-- VCNT. -/
def rowVcnt (w : Nat) : RowResult := do
  let d ← vAt w 20
  let a ← vAt w 14
  need (zeroAt w 8 6 && zeroAt w 5 1) 2
  .ok (.vcnt d a (bitAt w 7) (bitAt w 6))

/-- VRCPE. -/
def rowVrcpe (w : Nat) : RowResult := do
  let d ← vAt w 20
  let a ← vAt w 14
  need (zeroAt w 8 6 && zeroAt w 5 1) 2
  .ok (.vrcpe d a (bitAt w 7) (bitAt w 6))

/-- VRSQE. -/
def rowVrsqe (w : Nat) : RowResult := do
  let d ← vAt w 20
  let a ← vAt w 14
  need (zeroAt w 8 6 && zeroAt w 5 1) 2
  .ok (.vrsqe d a (bitAt w 7) (bitAt w 6))

/-- VMV. -/
def rowVmv (w : Nat) : RowResult := do
  let d ← vAt w 20
  let a ← vAt w 14
  need (zeroAt w 8 6 && zeroAt w 5 1) 2
  .ok (.vmv d a (bitAt w 7) (bitAt w 6))

/-- VMERGE. -/
def rowVmerge (w : Nat) : RowResult := do
  let d ← vAt w 20
  let a ← vAt w 14
  let b ← vAt w 8
  need (bitAt w 7) 2
  .ok (.vmerge d a b (bitAt w 6) (bitAt w 5))

/-- VCVT. -/
def rowVcvt (w : Nat) : RowResult := do
  need (!(decide (0x13 ≤ fld w 8 6) && decide (fld w 8 6 ≤ 0x1F))) 0
  let d ← vAt w 20
  let a ← vAt w 14
  need (zeroAt w 5 1) 2
  .ok (.vcvt d a (immAt w 8 6) (bitAt w 7) (bitAt w 6))

/-- VFMA. -/
def rowVfma (w : Nat) : RowResult := do
  let d ← vAt w 20
  let a ← vAt w 14
  let b ← vAt w 8
  .ok (.vfma d a b (bitAt w 7) (bitAt w 6) (bitAt w 5))

/-- VFMS. -/
def rowVfms (w : Nat) : RowResult := do
  let d ← vAt w 20
  let a ← vAt w 14
  let b ← vAt w 8
  .ok (.vfms d a b (bitAt w 7) (bitAt w 6) (bitAt w 5))

/-- VFNMA. -/
def rowVfnma (w : Nat) : RowResult := do
  let d ← vAt w 20
  let a ← vAt w 14
  let b ← vAt w 8
  .ok (.vfnma d a b (bitAt w 7) (bitAt w 6) (bitAt w 5))

/-- VWADD. -/
def rowVwadd (w : Nat) : RowResult := do
  let d ← vAt w 20
  let a ← vAt w 14
  let b ← vAt w 8
  .ok (.vwadd d a b (bitAt w 7) (bitAt w 6) (bitAt w 5))

/-- VWSUB. -/
def rowVwsub (w : Nat) : RowResult := do
  let d ← vAt w 20
  let a ← vAt w 14
  let b ← vAt w 8
  .ok (.vwsub d a b (bitAt w 7) (bitAt w 6) (bitAt w 5))

/-- VWMUL. -/
def rowVwmul (w : Nat) : RowResult := do
  let d ← vAt w 20
  let a ← vAt w 14
  let b ← vAt w 8
  .ok (.vwmul d a b (bitAt w 7) (bitAt w 6) (bitAt w 5))

/-- VWFMA. -/
def rowVwfma (w : Nat) : RowResult := do
  let d ← vAt w 20
  let a ← vAt w 14
  let b ← vAt w 8
  .ok (.vwfma d a b (bitAt w 7) (bitAt w 6) (bitAt w 5))

/-- VNARROW. -/
def rowVnarrow (w : Nat) : RowResult := do
  let d ← vAt w 20
  let a ← vAt w 14
  need (zeroAt w 8 6 && zeroAt w 5 1) 2
  .ok (.vnarrow d a (bitAt w 7) (bitAt w 6))

/-- VILV. -/
def rowVilv (w : Nat) : RowResult := do
  let d ← vAt w 20
  let a ← vAt w 14
  let b ← vAt w 8
  .ok (.vilv d a b (bitAt w 7) (bitAt w 6) (bitAt w 5))

/-- VDILV. -/
def rowVdilv (w : Nat) : RowResult := do
  let d ← vAt w 20
  let a ← vAt w 14
  need (zeroAt w 8 6 && zeroAt w 5 1) 2
  .ok (.vdilv d a (bitAt w 7) (bitAt w 6))

/-- VSCALE. -/
def rowVscale (w : Nat) : RowResult := do
  let d ← vAt w 20
  let a ← vAt w 14
  let b ← vAt w 8
  .ok (.vscale d a b (bitAt w 7) (bitAt w 6) (bitAt w 5))

/-- VQUANT. -/
def rowVquant (w : Nat) : RowResult := do
  let d ← vAt w 20
  let a ← vAt w 14
  let b ← vAt w 8
  need (zeroAt w 5 1) 2
  .ok (.vquant d a b (bitAt w 7) (bitAt w 6))

/-- VADD_X. -/
def rowVaddX (w : Nat) : RowResult := do
  let d ← vAt w 20
  let a ← vAt w 14
  need (zeroAt w 8 1 && zeroAt w 5 1) 2
  .ok (.vaddX d a (xAt w 9) (bitAt w 7) (bitAt w 6))

/-- VSUB_X. -/
def rowVsubX (w : Nat) : RowResult := do
  let d ← vAt w 20
  let a ← vAt w 14
  need (zeroAt w 8 1 && zeroAt w 5 1) 2
  .ok (.vsubX d a (xAt w 9) (bitAt w 7) (bitAt w 6))

/-- VMUL_X. -/
def rowVmulX (w : Nat) : RowResult := do
  let d ← vAt w 20
  let a ← vAt w 14
  need (zeroAt w 8 1 && zeroAt w 5 1) 2
  .ok (.vmulX d a (xAt w 9) (bitAt w 7) (bitAt w 6))

/-- VMIN_X. -/
def rowVminX (w : Nat) : RowResult := do
  let d ← vAt w 20
  let a ← vAt w 14
  need (zeroAt w 8 1 && zeroAt w 5 1) 2
  .ok (.vminX d a (xAt w 9) (bitAt w 7) (bitAt w 6))

/-- VMAX_X. -/
def rowVmaxX (w : Nat) : RowResult := do
  let d ← vAt w 20
  let a ← vAt w 14
  need (zeroAt w 8 1 && zeroAt w 5 1) 2
  .ok (.vmaxX d a (xAt w 9) (bitAt w 7) (bitAt w 6))

/-- VAND_X. -/
def rowVandX (w : Nat) : RowResult := do
  let d ← vAt w 20
  let a ← vAt w 14
  need (zeroAt w 8 1 && zeroAt w 5 1) 2
  .ok (.vandX d a (xAt w 9) (bitAt w 7) (bitAt w 6))

/-- VOR_X. -/
def rowVorX (w : Nat) : RowResult := do
  let d ← vAt w 20
  let a ← vAt w 14
  need (zeroAt w 8 1 && zeroAt w 5 1) 2
  .ok (.vorX d a (xAt w 9) (bitAt w 7) (bitAt w 6))

/-- VXOR_X. -/
def rowVxorX (w : Nat) : RowResult := do
  let d ← vAt w 20
  let a ← vAt w 14
  need (zeroAt w 8 1 && zeroAt w 5 1) 2
  .ok (.vxorX d a (xAt w 9) (bitAt w 7) (bitAt w 6))

/-- VSLL_X. -/
def rowVsllX (w : Nat) : RowResult := do
  let d ← vAt w 20
  let a ← vAt w 14
  need (zeroAt w 8 1 && zeroAt w 5 1) 2
  .ok (.vsllX d a (xAt w 9) (bitAt w 7) (bitAt w 6))

/-- VSRL_X. -/
def rowVsrlX (w : Nat) : RowResult := do
  let d ← vAt w 20
  let a ← vAt w 14
  need (zeroAt w 8 1 && zeroAt w 5 1) 2
  .ok (.vsrlX d a (xAt w 9) (bitAt w 7) (bitAt w 6))

/-- VSRA_X. -/
def rowVsraX (w : Nat) : RowResult := do
  let d ← vAt w 20
  let a ← vAt w 14
  need (zeroAt w 8 1 && zeroAt w 5 1) 2
  .ok (.vsraX d a (xAt w 9) (bitAt w 7) (bitAt w 6))

/-- VFMA_X. -/
def rowVfmaX (w : Nat) : RowResult := do
  let d ← vAt w 20
  let a ← vAt w 14
  need (zeroAt w 8 1 && zeroAt w 5 1) 2
  .ok (.vfmaX d a (xAt w 9) (bitAt w 7) (bitAt w 6))

/-- VBCST. -/
def rowVbcst (w : Nat) : RowResult := do
  let d ← vAt w 20
  need (zeroAt w 14 6 && zeroAt w 8 1 && zeroAt w 6 1 && zeroAt w 5 1) 2
  .ok (.vbcst d (xAt w 9) (bitAt w 7))

/-- VIDX. -/
def rowVidx (w : Nat) : RowResult := do
  let d ← vAt w 20
  need (zeroAt w 14 6 && zeroAt w 9 5 && zeroAt w 8 1 && zeroAt w 6 1 && zeroAt w 5 1) 2
  .ok (.vidx d (bitAt w 7))

/-- VCMP_EQ. -/
def rowVcmpEq (w : Nat) : RowResult := do
  let d ← mAt w 20
  let a ← vAt w 14
  let b ← cmpAt w
  need (zeroAt w 0 2 && (!bitAt w 5 || !bitAt w 13)) 2
  .ok (.vcmpEq d a b (bitAt w 7) (bitAt w 6))

/-- VCMP_NE. -/
def rowVcmpNe (w : Nat) : RowResult := do
  let d ← mAt w 20
  let a ← vAt w 14
  let b ← cmpAt w
  need (zeroAt w 0 2 && (!bitAt w 5 || !bitAt w 13)) 2
  .ok (.vcmpNe d a b (bitAt w 7) (bitAt w 6))

/-- VCMP_LT. -/
def rowVcmpLt (w : Nat) : RowResult := do
  let d ← mAt w 20
  let a ← vAt w 14
  let b ← cmpAt w
  need (zeroAt w 0 2 && (!bitAt w 5 || !bitAt w 13)) 2
  .ok (.vcmpLt d a b (bitAt w 7) (bitAt w 6))

/-- VCMP_LE. -/
def rowVcmpLe (w : Nat) : RowResult := do
  let d ← mAt w 20
  let a ← vAt w 14
  let b ← cmpAt w
  need (zeroAt w 0 2 && (!bitAt w 5 || !bitAt w 13)) 2
  .ok (.vcmpLe d a b (bitAt w 7) (bitAt w 6))

/-- VCMP_GT. -/
def rowVcmpGt (w : Nat) : RowResult := do
  let d ← mAt w 20
  let a ← vAt w 14
  let b ← cmpAt w
  need (zeroAt w 0 2 && (!bitAt w 5 || !bitAt w 13)) 2
  .ok (.vcmpGt d a b (bitAt w 7) (bitAt w 6))

/-- VCMP_GE. -/
def rowVcmpGe (w : Nat) : RowResult := do
  let d ← mAt w 20
  let a ← vAt w 14
  let b ← cmpAt w
  need (zeroAt w 0 2 && (!bitAt w 5 || !bitAt w 13)) 2
  .ok (.vcmpGe d a b (bitAt w 7) (bitAt w 6))

/-- VCMP_UN. -/
def rowVcmpUn (w : Nat) : RowResult := do
  let d ← mAt w 20
  let a ← vAt w 14
  let b ← cmpAt w
  need (zeroAt w 0 2 && (!bitAt w 5 || !bitAt w 13)) 2
  .ok (.vcmpUn d a b (bitAt w 7) (bitAt w 6))

/-- VCMP_OR. -/
def rowVcmpOr (w : Nat) : RowResult := do
  let d ← mAt w 20
  let a ← vAt w 14
  let b ← cmpAt w
  need (zeroAt w 0 2 && (!bitAt w 5 || !bitAt w 13)) 2
  .ok (.vcmpOr d a b (bitAt w 7) (bitAt w 6))

/-- MAND. -/
def rowMand (w : Nat) : RowResult := do
  let d ← mAt w 20
  let a ← mAt w 14
  let b ← mAt w 8
  need (zeroAt w 5 1 && zeroAt w 6 1) 2
  .ok (.mand d a b (bitAt w 7))

/-- MOR. -/
def rowMor (w : Nat) : RowResult := do
  let d ← mAt w 20
  let a ← mAt w 14
  let b ← mAt w 8
  need (zeroAt w 5 1 && zeroAt w 6 1) 2
  .ok (.mor d a b (bitAt w 7))

/-- MXOR. -/
def rowMxor (w : Nat) : RowResult := do
  let d ← mAt w 20
  let a ← mAt w 14
  let b ← mAt w 8
  need (zeroAt w 5 1 && zeroAt w 6 1) 2
  .ok (.mxor d a b (bitAt w 7))

/-- MANDN. -/
def rowMandn (w : Nat) : RowResult := do
  let d ← mAt w 20
  let a ← mAt w 14
  let b ← mAt w 8
  need (zeroAt w 5 1 && zeroAt w 6 1) 2
  .ok (.mandn d a b (bitAt w 7))

/-- MNOT. -/
def rowMnot (w : Nat) : RowResult := do
  let d ← mAt w 20
  let a ← mAt w 14
  need (zeroAt w 8 6 && zeroAt w 5 1 && zeroAt w 6 1) 2
  .ok (.mnot d a (bitAt w 7))

/-- MCNT. -/
def rowMcnt (w : Nat) : RowResult := do
  let d ← x6At w 20
  let a ← mAt w 14
  need (zeroAt w 8 6 && zeroAt w 5 1 && zeroAt w 6 1) 2
  .ok (.mcnt d a (bitAt w 7))

/-- MFFS. -/
def rowMffs (w : Nat) : RowResult := do
  let d ← x6At w 20
  let a ← mAt w 14
  need (zeroAt w 8 6 && zeroAt w 5 1 && zeroAt w 6 1) 2
  .ok (.mffs d a (bitAt w 7))

/-- MTOX. -/
def rowMtox (w : Nat) : RowResult := do
  let d ← x6At w 20
  let a ← mAt w 14
  let b ← x6At w 8
  need (zeroAt w 5 1 && zeroAt w 6 1) 2
  .ok (.mtox d a b (bitAt w 7))

/-- MXTOM. -/
def rowMxtom (w : Nat) : RowResult := do
  let d ← mAt w 20
  let a ← x6At w 14
  let b ← x6At w 8
  need (zeroAt w 5 1 && zeroAt w 6 1) 2
  .ok (.mxtom d a b (bitAt w 7))

/-- MPREF. -/
def rowMpref (w : Nat) : RowResult := do
  let d ← vAt w 20
  let a ← mAt w 14
  need (zeroAt w 8 6 && zeroAt w 5 1 && zeroAt w 6 1) 2
  .ok (.mpref d a (bitAt w 7))

/-- MSBF. -/
def rowMsbf (w : Nat) : RowResult := do
  let d ← mAt w 20
  let a ← mAt w 14
  need (zeroAt w 8 6 && zeroAt w 5 1 && zeroAt w 6 1) 2
  .ok (.msbf d a (bitAt w 7))

/-- VREDS. -/
def rowVreds (w : Nat) : RowResult := do
  let d ← vAt w 20
  let a ← vAt w 14
  need (zeroAt w 8 6 && zeroAt w 5 1) 2
  .ok (.vreds d a (bitAt w 7) (bitAt w 6))

/-- VDOTS. -/
def rowVdots (w : Nat) : RowResult := do
  let d ← vAt w 20
  let a ← vAt w 14
  let b ← vAt w 8
  .ok (.vdots d a b (bitAt w 7) (bitAt w 6) (bitAt w 5))

/-- VFOLD. -/
def rowVfold (w : Nat) : RowResult := do
  let d ← x6At w 20
  let a ← vAt w 14
  let b ← x6At w 8
  need (zeroAt w 7 1 && zeroAt w 5 1) 2
  .ok (.vfold d a b (bitAt w 6))

/-- VREDMAX. -/
def rowVredmax (w : Nat) : RowResult := do
  let d ← x6At w 20
  let a ← vAt w 14
  let b ← x6At w 8
  need (zeroAt w 5 1) 2
  .ok (.vredmax d a b (bitAt w 7) (bitAt w 6))

/-- VREDMIN. -/
def rowVredmin (w : Nat) : RowResult := do
  let d ← x6At w 20
  let a ← vAt w 14
  let b ← x6At w 8
  need (zeroAt w 5 1) 2
  .ok (.vredmin d a b (bitAt w 7) (bitAt w 6))

/-- VREDAND. -/
def rowVredand (w : Nat) : RowResult := do
  let d ← x6At w 20
  let a ← vAt w 14
  let b ← x6At w 8
  need (zeroAt w 5 1) 2
  .ok (.vredand d a b (bitAt w 7) (bitAt w 6))

/-- VREDOR. -/
def rowVredor (w : Nat) : RowResult := do
  let d ← x6At w 20
  let a ← vAt w 14
  let b ← x6At w 8
  need (zeroAt w 5 1) 2
  .ok (.vredor d a b (bitAt w 7) (bitAt w 6))

/-- VLD. -/
def rowVld (w : Nat) : RowResult := do
  need (zeroAt w 0 4) 0
  let d ← vAt w 20
  need (zeroAt w 6 6 && zeroAt w 4 1) 2
  .ok (.vld d (xAt w 15) (bitAt w 5))

/-- VLDS. -/
def rowVlds (w : Nat) : RowResult := do
  need (zeroAt w 0 4) 0
  let d ← vAt w 20
  need (zeroAt w 11 1 && zeroAt w 4 1) 2
  .ok (.vlds d (xAt w 15) (xAt w 6) (bitAt w 5))

/-- VLDX. -/
def rowVldx (w : Nat) : RowResult := do
  need (zeroAt w 0 4) 0
  let d ← vAt w 20
  let idx ← vAt w 6
  .ok (.vldx d (xAt w 15) idx (bitAt w 5) (bitAt w 4))

/-- VLD_O. -/
def rowVldO (w : Nat) : RowResult := do
  need (zeroAt w 0 4) 0
  let d ← vAt w 20
  need (zeroAt w 6 6 && zeroAt w 4 1) 2
  .ok (.vldO d (xAt w 15) (bitAt w 5))

/-- VLDS_O. -/
def rowVldsO (w : Nat) : RowResult := do
  need (zeroAt w 0 4) 0
  let d ← vAt w 20
  need (zeroAt w 11 1 && zeroAt w 4 1) 2
  .ok (.vldsO d (xAt w 15) (xAt w 6) (bitAt w 5))

/-- VLDX_O. -/
def rowVldxO (w : Nat) : RowResult := do
  need (zeroAt w 0 4) 0
  let d ← vAt w 20
  let idx ← vAt w 6
  .ok (.vldxO d (xAt w 15) idx (bitAt w 5) (bitAt w 4))

/-- VST. -/
def rowVst (w : Nat) : RowResult := do
  need (zeroAt w 0 4) 0
  let vs ← vAt w 20
  need (zeroAt w 6 6) 2
  .ok (.vst vs (xAt w 15) (bitAt w 5) (bitAt w 4))

/-- VSTS. -/
def rowVsts (w : Nat) : RowResult := do
  need (zeroAt w 0 4) 0
  let vs ← vAt w 20
  need (zeroAt w 11 1) 2
  .ok (.vsts vs (xAt w 15) (xAt w 6) (bitAt w 5) (bitAt w 4))

/-- VSTX. -/
def rowVstx (w : Nat) : RowResult := do
  need (zeroAt w 0 4) 0
  let vs ← vAt w 20
  let idx ← vAt w 6
  .ok (.vstx vs (xAt w 15) idx (bitAt w 5) (bitAt w 4))

/-- VST_O. -/
def rowVstO (w : Nat) : RowResult := do
  need (zeroAt w 0 4) 0
  let vs ← vAt w 20
  need (zeroAt w 6 6) 2
  .ok (.vstO vs (xAt w 15) (bitAt w 5) (bitAt w 4))

/-- VSTS_O. -/
def rowVstsO (w : Nat) : RowResult := do
  need (zeroAt w 0 4) 0
  let vs ← vAt w 20
  need (zeroAt w 11 1) 2
  .ok (.vstsO vs (xAt w 15) (xAt w 6) (bitAt w 5) (bitAt w 4))

/-- VSTX_O. -/
def rowVstxO (w : Nat) : RowResult := do
  need (zeroAt w 0 4) 0
  let vs ← vAt w 20
  let idx ← vAt w 6
  .ok (.vstxO vs (xAt w 15) idx (bitAt w 5) (bitAt w 4))

/-- VLDT. -/
def rowVldt (w : Nat) : RowResult := do
  let d ← vAt w 20
  let a ← vAt w 14
  need (zeroAt w 8 1 && zeroAt w 5 1) 2
  .ok (.vldt d a (xAt w 9) (bitAt w 7) (bitAt w 6))

/-- VSTT. -/
def rowVstt (w : Nat) : RowResult := do
  let vs ← vAt w 20
  let a ← vAt w 14
  need (zeroAt w 8 1 && zeroAt w 5 1) 2
  .ok (.vstt vs a (xAt w 9) (bitAt w 7) (bitAt w 6))

/-- VLDSP. -/
def rowVldsp (w : Nat) : RowResult := do
  let d ← vAt w 20
  need (zeroAt w 6 6 && zeroAt w 4 1) 2
  .ok (.vldsp d (xAt w 15) (bitAt w 5))

/-- VLDSH. -/
def rowVldsh (w : Nat) : RowResult := do
  let d ← vAt w 20
  need (zeroAt w 6 6 && zeroAt w 4 1) 2
  .ok (.vldsh d (xAt w 15) (bitAt w 5))

/-- VPREF. -/
def rowVpref (w : Nat) : RowResult := do
  need (zeroAt w 20 6 && zeroAt w 6 6 && zeroAt w 5 1 && zeroAt w 4 1) 2
  .ok (.vpref (xAt w 15))

/-- VCOMPRESS. -/
def rowVcompress (w : Nat) : RowResult := do
  let d ← vAt w 20
  let a ← vAt w 14
  need (zeroAt w 8 6 && zeroAt w 5 1) 2
  .ok (.vcompress d a (bitAt w 7) (bitAt w 6))

/-- VEXPAND. -/
def rowVexpand (w : Nat) : RowResult := do
  let d ← vAt w 20
  let a ← vAt w 14
  need (zeroAt w 8 6 && zeroAt w 5 1) 2
  .ok (.vexpand d a (bitAt w 7) (bitAt w 6))

/-- VCONF. -/
def rowVconf (w : Nat) : RowResult := do
  let d ← vAt w 20
  let a ← vAt w 14
  need (zeroAt w 8 6 && zeroAt w 5 1) 2
  .ok (.vconf d a (bitAt w 7) (bitAt w 6))

/-- VRANK. -/
def rowVrank (w : Nat) : RowResult := do
  let d ← vAt w 20
  let a ← vAt w 14
  let b ← vAt w 8
  .ok (.vrank d a b (bitAt w 7) (bitAt w 6) (bitAt w 5))

/-- VSELB. -/
def rowVselb (w : Nat) : RowResult := do
  let d ← vAt w 20
  let a ← vAt w 14
  let b ← vAt w 8
  .ok (.vselb d a b (bitAt w 7) (bitAt w 6) (bitAt w 5))

/-- VPUSH. -/
def rowVpush (w : Nat) : RowResult := do
  let d ← vAt w 20
  let a ← vAt w 14
  let b ← vAt w 8
  .ok (.vpush d a b (bitAt w 7) (bitAt w 6) (bitAt w 5))

/-- VPULL. -/
def rowVpull (w : Nat) : RowResult := do
  let d ← vAt w 20
  let a ← vAt w 14
  let b ← vAt w 8
  .ok (.vpull d a b (bitAt w 7) (bitAt w 6) (bitAt w 5))

/-- VSLDN. -/
def rowVsldn (w : Nat) : RowResult := do
  let d ← vAt w 20
  let a ← vAt w 14
  let b ← x6At w 8
  need (zeroAt w 5 1) 2
  .ok (.vsldn d a b (bitAt w 7) (bitAt w 6))

/-- VSLUP. -/
def rowVslup (w : Nat) : RowResult := do
  let d ← vAt w 20
  let a ← vAt w 14
  let b ← x6At w 8
  need (zeroAt w 5 1) 2
  .ok (.vslup d a b (bitAt w 7) (bitAt w 6))

/-- VRND. -/
def rowVrnd (w : Nat) : RowResult := do
  let d ← vAt w 20
  need (zeroAt w 14 6 && zeroAt w 8 1 && zeroAt w 6 1 && zeroAt w 5 1) 2
  .ok (.vrnd d (xAt w 9) (bitAt w 7))

/-- VRNDF. -/
def rowVrndf (w : Nat) : RowResult := do
  let d ← vAt w 20
  need (zeroAt w 14 6 && zeroAt w 8 1 && zeroAt w 6 1 && zeroAt w 5 1) 2
  .ok (.vrndf d (xAt w 9) (bitAt w 7))

/-- VACC. -/
def rowVacc (w : Nat) : RowResult := do
  let d ← mAt w 20
  let a ← vAt w 14
  need (zeroAt w 7 1 && zeroAt w 8 1 && zeroAt w 5 1) 2
  .ok (.vacc d a (xAt w 9) (bitAt w 6))

/-- OPLOAD. -/
def rowOpload (w : Nat) : RowResult := do
  need (zeroAt w 6 6) 2
  .ok (.opload (xAt w 21) (xAt w 16) (slotAt w 12))

/-- OPQRY. -/
def rowOpqry (w : Nat) : RowResult := do
  need (zeroAt w 6 6 && zeroAt w 16 5) 2
  .ok (.opqry (xAt w 21) (slotAt w 12))

/-- OPCLR. -/
def rowOpclr (w : Nat) : RowResult := do
  need (zeroAt w 6 6 && zeroAt w 16 5 && zeroAt w 21 5) 2
  .ok (.opclr (slotAt w 12))

/-- PASS. -/
def rowPass (w : Nat) : RowResult := do
  let ksrc ← ksrcAt w 0
  need (stageListOk (slotAt w 6) (immAt w 3 3) (bitAt w 2)) 0
  let d ← vAt w 20
  let c ← vAt w 14
  .ok (.pass d c (slotAt w 10) (slotAt w 6) (immAt w 3 3) (bitAt w 2) ksrc)

/-- PASSK. -/
def rowPassk (w : Nat) : RowResult := do
  let d ← vAt w 20
  let c ← vAt w 14
  let k ← vAt w 8
  need (zeroAt w 0 4) 2
  .ok (.passk d c k (slotAt w 4))

/-- VMERGEK. -/
def rowVmergek (w : Nat) : RowResult := do
  let d ← vAt w 20
  let c ← vAt w 14
  need (zeroAt w 8 1 && zeroAt w 5 1) 2
  .ok (.vmergek d c (xAt w 9) (bitAt w 7) (bitAt w 6))

/-- MATT. -/
def rowMatt (w : Nat) : RowResult := do
  let d ← x6At w 20
  let b ← x6At w 14
  need (zeroAt w 12 2 && zeroAt w 6 1) 2
  .ok (.matt d (xAt w 7) b)

/-- MDET. -/
def rowMdet (w : Nat) : RowResult := do
  need (zeroAt w 6 1 && zeroAt w 7 5 && zeroAt w 12 2 && zeroAt w 14 6 && zeroAt w 20 6) 2
  .ok (.mdet)

/-- MZRO. -/
def rowMzro (w : Nat) : RowResult := do
  let typ ← ztypAt w 14
  need (zeroAt w 20 6 && zeroAt w 6 1 && zeroAt w 7 5) 2
  .ok (.mzro (binAt w 12) typ)

/-- MASY. -/
def rowMasy (w : Nat) : RowResult := do
  need (zeroAt w 20 6 && zeroAt w 14 6 && zeroAt w 6 1) 2
  .ok (.masy (binAt w 12) (xAt w 7))

/-- MRD. -/
def rowMrd (w : Nat) : RowResult := do
  let d ← vAt w 20
  need (zeroAt w 14 6 && zeroAt w 6 1) 2
  .ok (.mrd d (binAt w 12) (xAt w 7))

/-- MWR. -/
def rowMwr (w : Nat) : RowResult := do
  let vs ← vAt w 20
  need (zeroAt w 14 6 && zeroAt w 6 1) 2
  .ok (.mwr (binAt w 12) vs (xAt w 7))

/-- MAGET. -/
def rowMaget (w : Nat) : RowResult := do
  let d ← vAt w 20
  let c ← vAt w 14
  need (zeroAt w 6 1) 2
  .ok (.maget d c (binAt w 12) (xAt w 7))

/-- MTHR. -/
def rowMthr (w : Nat) : RowResult := do
  let d ← x6At w 20
  need (zeroAt w 14 6 && zeroAt w 6 1) 2
  .ok (.mthr d (binAt w 12) (xAt w 7))

/-- MOPA. -/
def rowMopa (w : Nat) : RowResult := do
  let a ← vAt w 14
  let b ← vAt w 8
  need (zeroAt w 20 1 && zeroAt w 2 6 && zeroAt w 0 2) 2
  .ok (.mopa (binAt w 24) a b (bitAt w 23) (bitAt w 22) (bitAt w 21))

/-- MOPS. -/
def rowMops (w : Nat) : RowResult := do
  let a ← vAt w 14
  let b ← vAt w 8
  let vmeta ← vAt w 2
  need (zeroAt w 0 2) 2
  .ok (.mops (binAt w 24) a b vmeta (bitAt w 23) (bitAt w 22) (bitAt w 21) (bitAt w 20))

/-- MASV. -/
def rowMasv (w : Nat) : RowResult := do
  let a ← vAt w 14
  let c ← vAt w 8
  need (zeroAt w 1 2 && zeroAt w 0 1) 2
  .ok (.masv (binAt w 24) a c (xAt w 3) (bitAt w 23) (bitAt w 22) (bitAt w 21))

/-- MDRN. -/
def rowMdrn (w : Nat) : RowResult := do
  need (zeroAt w 23 1 && zeroAt w 22 1 && zeroAt w 21 1 && zeroAt w 14 6 && zeroAt w 8 6 && zeroAt w 0 1) 2
  .ok (.mdrn (binAt w 24) (binAt w 1) (xAt w 3))

/-- LSPLIT. -/
def rowLsplit (w : Nat) : RowResult := do
  need (zeroAt w 21 5 && zeroAt w 16 5 && zeroAt w 11 5 && zeroAt w 6 5) 2
  .ok (.lsplit)

/-- VFETCH. -/
def rowVfetch (w : Nat) : RowResult := do
  need (zeroAt w 21 5 && zeroAt w 6 5) 2
  .ok (.vfetch (xAt w 16) (xAt w 11))

/-- LFETCH. -/
def rowLfetch (w : Nat) : RowResult := do
  need (zeroAt w 21 5 && zeroAt w 6 5) 2
  .ok (.lfetch (xAt w 16) (xAt w 11))

/-- LJOIN. -/
def rowLjoin (w : Nat) : RowResult := do
  need (zeroAt w 21 5 && zeroAt w 16 5 && zeroAt w 11 5 && zeroAt w 6 5) 2
  .ok (.ljoin)

/-- LVPID. -/
def rowLvpid (w : Nat) : RowResult := do
  need (zeroAt w 16 5 && zeroAt w 11 5 && zeroAt w 6 5) 2
  .ok (.lvpid (xAt w 21))

/-- VWHILE_EQ. -/
def rowVwhileEq (w : Nat) : RowResult := do
  need (!zeroAt w 0 10) 0
  let a ← vAt w 20
  let b ← loopAt w
  need ((!bitAt w 13 || !bitAt w 19)) 2
  .ok (.vwhileEq a b (immAt w 0 10))

/-- VWHILE_NE. -/
def rowVwhileNe (w : Nat) : RowResult := do
  need (!zeroAt w 0 10) 0
  let a ← vAt w 20
  let b ← loopAt w
  need ((!bitAt w 13 || !bitAt w 19)) 2
  .ok (.vwhileNe a b (immAt w 0 10))

/-- VWHILE_LT. -/
def rowVwhileLt (w : Nat) : RowResult := do
  need (!zeroAt w 0 10) 0
  let a ← vAt w 20
  let b ← loopAt w
  need ((!bitAt w 13 || !bitAt w 19)) 2
  .ok (.vwhileLt a b (immAt w 0 10))

/-- VWHILE_LE. -/
def rowVwhileLe (w : Nat) : RowResult := do
  need (!zeroAt w 0 10) 0
  let a ← vAt w 20
  let b ← loopAt w
  need ((!bitAt w 13 || !bitAt w 19)) 2
  .ok (.vwhileLe a b (immAt w 0 10))

/-- VWHILE_GT. -/
def rowVwhileGt (w : Nat) : RowResult := do
  need (!zeroAt w 0 10) 0
  let a ← vAt w 20
  let b ← loopAt w
  need ((!bitAt w 13 || !bitAt w 19)) 2
  .ok (.vwhileGt a b (immAt w 0 10))

/-- VWHILE_GE. -/
def rowVwhileGe (w : Nat) : RowResult := do
  need (!zeroAt w 0 10) 0
  let a ← vAt w 20
  let b ← loopAt w
  need ((!bitAt w 13 || !bitAt w 19)) 2
  .ok (.vwhileGe a b (immAt w 0 10))

/-- VWHILE_UN. -/
def rowVwhileUn (w : Nat) : RowResult := do
  need (!zeroAt w 0 10) 0
  let a ← vAt w 20
  let b ← loopAt w
  need ((!bitAt w 13 || !bitAt w 19)) 2
  .ok (.vwhileUn a b (immAt w 0 10))

/-- VWHILE_OR. -/
def rowVwhileOr (w : Nat) : RowResult := do
  need (!zeroAt w 0 10) 0
  let a ← vAt w 20
  let b ← loopAt w
  need ((!bitAt w 13 || !bitAt w 19)) 2
  .ok (.vwhileOr a b (immAt w 0 10))

/-- CPY. -/
def rowCpy (w : Nat) : RowResult := .ok (.cpy (xAt w 21) (xAt w 16) (xAt w 11) (xAt w 6))

/-- CPYB. -/
def rowCpyb (w : Nat) : RowResult := do
  let d ← m4At w 22
  let a ← vAt w 16
  need (zeroAt w 6 10) 2
  .ok (.cpyb d a)

/-- COLL. -/
def rowColl (w : Nat) : RowResult := do
  need (zeroAt w 11 5 && zeroAt w 6 5) 2
  .ok (.coll (xAt w 21) (xAt w 16))

/-- EWAIT. -/
def rowEwait (w : Nat) : RowResult := do
  need (zeroAt w 21 5 && zeroAt w 11 5 && zeroAt w 6 5) 2
  .ok (.ewait (xAt w 16))

/-- ETST. -/
def rowEtst (w : Nat) : RowResult := do
  need (zeroAt w 11 5 && zeroAt w 6 5) 2
  .ok (.etst (xAt w 21) (xAt w 16))

/-- VXFD_RLE. -/
def rowVxfdRle (w : Nat) : RowResult := do
  let d ← vAt w 20
  let a ← vAt w 14
  need (zeroAt w 7 1 && zeroAt w 8 1 && zeroAt w 5 1) 2
  .ok (.vxfdRle d a (xAt w 9) (bitAt w 6))

/-- VXFD_DELTA. -/
def rowVxfdDelta (w : Nat) : RowResult := do
  let d ← vAt w 20
  let a ← vAt w 14
  need (zeroAt w 7 1 && zeroAt w 8 1 && zeroAt w 5 1) 2
  .ok (.vxfdDelta d a (xAt w 9) (bitAt w 6))

/-- VXFD_PLANE. -/
def rowVxfdPlane (w : Nat) : RowResult := do
  let d ← vAt w 20
  let a ← vAt w 14
  need (zeroAt w 7 1 && zeroAt w 8 1 && zeroAt w 5 1) 2
  .ok (.vxfdPlane d a (xAt w 9) (bitAt w 6))

/-- VXFD_SECT. -/
def rowVxfdSect (w : Nat) : RowResult := do
  let d ← vAt w 20
  let a ← vAt w 14
  need (zeroAt w 7 1 && zeroAt w 8 1 && zeroAt w 5 1) 2
  .ok (.vxfdSect d a (xAt w 9) (bitAt w 6))

/-- VXFE_RLE. -/
def rowVxfeRle (w : Nat) : RowResult := do
  let d ← vAt w 20
  let a ← vAt w 14
  need (zeroAt w 7 1 && zeroAt w 8 1 && zeroAt w 5 1) 2
  .ok (.vxfeRle d a (xAt w 9) (bitAt w 6))

/-- VXFE_DELTA. -/
def rowVxfeDelta (w : Nat) : RowResult := do
  let d ← vAt w 20
  let a ← vAt w 14
  need (zeroAt w 7 1 && zeroAt w 8 1 && zeroAt w 5 1) 2
  .ok (.vxfeDelta d a (xAt w 9) (bitAt w 6))

/-- VXFE_PLANE. -/
def rowVxfePlane (w : Nat) : RowResult := do
  let d ← vAt w 20
  let a ← vAt w 14
  need (zeroAt w 7 1 && zeroAt w 8 1 && zeroAt w 5 1) 2
  .ok (.vxfePlane d a (xAt w 9) (bitAt w 6))

/-- VXFE_SECT. -/
def rowVxfeSect (w : Nat) : RowResult := do
  let d ← vAt w 20
  let a ← vAt w 14
  need (zeroAt w 7 1 && zeroAt w 8 1 && zeroAt w 5 1) 2
  .ok (.vxfeSect d a (xAt w 9) (bitAt w 6))

/-- Major 0x00 (R84). -/
def major00 (w : Nat) : RowResult :=
  match fld w 0 4 with
  | 0 => rowNop w
  | 1 => rowHalt w
  | 2 => rowYield w
  | 3 => rowSysc w
  | 4 => rowBkpt w
  | 5 => rowTret w
  | 6 => rowSrd w
  | 7 => rowSwr w
  | 8 => rowFence w
  | 9 => rowGbar w
  | _ => .error 0

/-- Major 0x02 (R84). -/
def major02 (w : Nat) : RowResult :=
  match fld w 0 6 with
  | 0 => rowAdd w
  | 1 => rowSub w
  | 2 => rowAnd w
  | 3 => rowOr w
  | 4 => rowXor w
  | 5 => rowSll w
  | 6 => rowSrl w
  | 7 => rowSra w
  | 8 => rowSlt w
  | 9 => rowSltu w
  | 10 => rowMin w
  | 11 => rowMax w
  | 12 => rowMinu w
  | 13 => rowMaxu w
  | 16 => rowMul w
  | 17 => rowMulh w
  | 18 => rowMulhu w
  | 20 => rowDiv w
  | 21 => rowDivu w
  | 22 => rowRem w
  | 23 => rowRemu w
  | 24 => rowClz w
  | 25 => rowCtz w
  | 26 => rowCnt w
  | 27 => rowSel w
  | _ => .error 0

/-- Major 0x07 (R84). -/
def major07 (w : Nat) : RowResult :=
  match fld w 14 2 with
  | 0 => rowSlli w
  | 1 => rowSrli w
  | 2 => rowSrai w
  | _ => .error 0

/-- Major 0x0C, FOP: fn[5] selects F32; FCVT.D.S and FCVT.S.D have no F32 form (R87). -/
def major0C (w : Nat) : RowResult :=
  match fld w 0 5 with
  | 0 => rowFadd w
  | 1 => rowFsub w
  | 2 => rowFmul w
  | 3 => rowFdiv w
  | 4 => rowFsqrt w
  | 5 => rowFmin w
  | 6 => rowFmax w
  | 7 => rowFma w
  | 8 => rowFnma w
  | 9 => rowFeq w
  | 10 => rowFlt w
  | 11 => rowFle w
  | 12 => rowFcvtDL w
  | 13 => rowFcvtLD w
  | 14 => if bitAt w 5 then .error 0 else rowFcvtDS w
  | 15 => if bitAt w 5 then .error 0 else rowFcvtSD w
  | 16 => rowFabs w
  | 17 => rowFneg w
  | 18 => rowFkind w
  | _ => .error 0

/-- Major 0x0D (R84). -/
def major0D (w : Nat) : RowResult :=
  match fld w 13 3 with
  | 0 => rowLb w
  | 1 => rowLbu w
  | 2 => rowLh w
  | 3 => rowLhu w
  | 4 => rowLw w
  | 5 => rowLwu w
  | 6 => rowLd w
  | _ => .error 0

/-- Major 0x0E (R84). -/
def major0E (w : Nat) : RowResult :=
  match fld w 13 3 with
  | 0 => rowStb w
  | 1 => rowSth w
  | 2 => rowStw w
  | 3 => rowStd w
  | _ => .error 0

/-- Major 0x0F (R84). -/
def major0F (w : Nat) : RowResult :=
  match fld w 15 1 with
  | 0 => rowLda w
  | _ => rowStl w

/-- Major 0x10 (R84). -/
def major10 (w : Nat) : RowResult :=
  match fld w 13 3 with
  | 0 => rowBeq w
  | 1 => rowBne w
  | 2 => rowBlt w
  | 3 => rowBge w
  | 4 => rowBltu w
  | 5 => rowBgeu w
  | _ => .error 0

/-- Major 0x13 (R84). -/
def major13 (w : Nat) : RowResult :=
  match fld w 3 3 with
  | 0 => rowAadd w
  | 1 => rowAincb w
  | 2 => rowAcas w
  | 3 => rowAswp w
  | 4 => rowAmin w
  | 5 => rowAmax w
  | 6 => rowAand w
  | _ => rowAor w

/-- Major 0x15 (R84). -/
def major15 (w : Nat) : RowResult :=
  match fld w 0 6 with
  | 0 => rowSetvl w
  | 1 => rowSetvlx w
  | 2 => rowSetshape w
  | 3 => rowSetvt w
  | 4 => rowVtag w
  | 5 => rowSetsb w
  | 6 => rowSetpseq w
  | _ => .error 0

/-- Major 0x16 (R84). -/
def major16 (w : Nat) : RowResult :=
  match fld w 0 5 with
  | 0 => rowVadd w
  | 1 => rowVsub w
  | 2 => rowVmul w
  | 3 => rowVdiv w
  | 4 => rowVsqrt w
  | 5 => rowVmin w
  | 6 => rowVmax w
  | 7 => rowVabs w
  | 8 => rowVneg w
  | 9 => rowVand w
  | 10 => rowVor w
  | 11 => rowVxor w
  | 12 => rowVnot w
  | 13 => rowVsll w
  | 14 => rowVsrl w
  | 15 => rowVsra w
  | 16 => rowVmulh w
  | 17 => rowVrem w
  | 18 => rowVclz w
  | 19 => rowVcnt w
  | 20 => rowVrcpe w
  | 21 => rowVrsqe w
  | 22 => rowVmv w
  | 23 => rowVmerge w
  | 24 => rowVcvt w
  | _ => .error 0

/-- Major 0x17 (R84). -/
def major17 (w : Nat) : RowResult :=
  match fld w 0 5 with
  | 0 => rowVfma w
  | 1 => rowVfms w
  | 2 => rowVfnma w
  | 3 => rowVwadd w
  | 4 => rowVwsub w
  | 5 => rowVwmul w
  | 6 => rowVwfma w
  | 7 => rowVnarrow w
  | 8 => rowVilv w
  | 9 => rowVdilv w
  | 10 => rowVscale w
  | 11 => rowVquant w
  | _ => .error 0

/-- Major 0x18 (R84). -/
def major18 (w : Nat) : RowResult :=
  match fld w 0 5 with
  | 0 => rowVaddX w
  | 1 => rowVsubX w
  | 2 => rowVmulX w
  | 3 => rowVminX w
  | 4 => rowVmaxX w
  | 5 => rowVandX w
  | 6 => rowVorX w
  | 7 => rowVxorX w
  | 8 => rowVsllX w
  | 9 => rowVsrlX w
  | 10 => rowVsraX w
  | 11 => rowVfmaX w
  | 12 => rowVbcst w
  | 13 => rowVidx w
  | _ => .error 0

/-- Major 0x19 (R84). -/
def major19 (w : Nat) : RowResult :=
  match fld w 2 3 with
  | 0 => rowVcmpEq w
  | 1 => rowVcmpNe w
  | 2 => rowVcmpLt w
  | 3 => rowVcmpLe w
  | 4 => rowVcmpGt w
  | 5 => rowVcmpGe w
  | 6 => rowVcmpUn w
  | _ => rowVcmpOr w

/-- Major 0x1A (R84). -/
def major1A (w : Nat) : RowResult :=
  match fld w 0 5 with
  | 0 => rowMand w
  | 1 => rowMor w
  | 2 => rowMxor w
  | 3 => rowMandn w
  | 4 => rowMnot w
  | 5 => rowMcnt w
  | 6 => rowMffs w
  | 7 => rowMtox w
  | 8 => rowMxtom w
  | 9 => rowMpref w
  | 10 => rowMsbf w
  | _ => .error 0

/-- Major 0x1B (R84). -/
def major1B (w : Nat) : RowResult :=
  match fld w 0 5 with
  | 0 => rowVreds w
  | 1 => rowVdots w
  | 2 => rowVfold w
  | 3 => rowVredmax w
  | 4 => rowVredmin w
  | 5 => rowVredand w
  | 6 => rowVredor w
  | _ => .error 0

/-- Major 0x1C (R84). -/
def major1C (w : Nat) : RowResult :=
  match fld w 12 3 with
  | 0 => rowVld w
  | 1 => rowVlds w
  | 2 => rowVldx w
  | 3 => rowVldO w
  | 4 => rowVldsO w
  | 5 => rowVldxO w
  | _ => .error 0

/-- Major 0x1D (R84). -/
def major1D (w : Nat) : RowResult :=
  match fld w 12 3 with
  | 0 => rowVst w
  | 1 => rowVsts w
  | 2 => rowVstx w
  | 3 => rowVstO w
  | 4 => rowVstsO w
  | 5 => rowVstxO w
  | _ => .error 0

/-- Major 0x1E (R84). -/
def major1E (w : Nat) : RowResult :=
  match fld w 0 5 with
  | 0 => rowVldt w
  | 1 => rowVstt w
  | _ => .error 0

/-- Major 0x1F, VSPX: mode 0 alone is assigned. -/
def major1F (w : Nat) : RowResult :=
  if !zeroAt w 12 3 then .error 0 else
  match fld w 0 4 with
  | 0 => rowVldsp w
  | 1 => rowVldsh w
  | 2 => rowVpref w
  | _ => .error 0

/-- Major 0x20 (R84). -/
def major20 (w : Nat) : RowResult :=
  match fld w 0 5 with
  | 0 => rowVcompress w
  | 1 => rowVexpand w
  | 2 => rowVconf w
  | 3 => rowVrank w
  | 4 => rowVselb w
  | 5 => rowVpush w
  | 6 => rowVpull w
  | 7 => rowVsldn w
  | 8 => rowVslup w
  | _ => .error 0

/-- Major 0x21 (R84). -/
def major21 (w : Nat) : RowResult :=
  match fld w 0 5 with
  | 0 => rowVrnd w
  | 1 => rowVrndf w
  | 2 => rowVacc w
  | _ => .error 0

/-- Major 0x22 (R84). -/
def major22 (w : Nat) : RowResult :=
  match fld w 0 6 with
  | 0 => rowOpload w
  | 1 => rowOpqry w
  | 2 => rowOpclr w
  | _ => .error 0

/-- Major 0x25 (R84). -/
def major25 (w : Nat) : RowResult :=
  match fld w 0 5 with
  | 0 => rowVmergek w
  | _ => .error 0

/-- Major 0x26 (R84). -/
def major26 (w : Nat) : RowResult :=
  match fld w 0 6 with
  | 0 => rowMatt w
  | 1 => rowMdet w
  | 2 => rowMzro w
  | 3 => rowMasy w
  | 4 => rowMrd w
  | 5 => rowMwr w
  | 6 => rowMaget w
  | 7 => rowMthr w
  | _ => .error 0

/-- Major 0x29 (R84). -/
def major29 (w : Nat) : RowResult :=
  match fld w 20 1 with
  | 0 => rowMasv w
  | _ => rowMdrn w

/-- Major 0x2A (R84). -/
def major2A (w : Nat) : RowResult :=
  match fld w 0 6 with
  | 0 => rowLsplit w
  | 1 => rowVfetch w
  | 2 => rowLfetch w
  | 3 => rowLjoin w
  | 4 => rowLvpid w
  | _ => .error 0

/-- Major 0x2B (R84). -/
def major2B (w : Nat) : RowResult :=
  match fld w 10 3 with
  | 0 => rowVwhileEq w
  | 1 => rowVwhileNe w
  | 2 => rowVwhileLt w
  | 3 => rowVwhileLe w
  | 4 => rowVwhileGt w
  | 5 => rowVwhileGe w
  | 6 => rowVwhileUn w
  | _ => rowVwhileOr w

/-- Major 0x2C (R84). -/
def major2C (w : Nat) : RowResult :=
  match fld w 0 6 with
  | 0 => rowCpy w
  | 1 => rowCpyb w
  | 2 => rowColl w
  | 3 => rowEwait w
  | 4 => rowEtst w
  | _ => .error 0

/-- Major 0x2D (R84). -/
def major2D (w : Nat) : RowResult :=
  match fld w 0 5 with
  | 0 => rowVxfdRle w
  | 1 => rowVxfdDelta w
  | 2 => rowVxfdPlane w
  | 3 => rowVxfdSect w
  | 4 => rowVxfeRle w
  | 5 => rowVxfeDelta w
  | 6 => rowVxfePlane w
  | 7 => rowVxfeSect w
  | _ => .error 0

/-- The fields of a word read by the opcode map (R84): details 0, 1, 2, and 3 for a PFX's own fields. -/
def decodeFields (w : Nat) : RowResult :=
  match fld w 26 6 with
  | 0x00 => major00 w
  | 0x01 => rowPfx w
  | 0x02 => major02 w
  | 0x03 => rowAddi w
  | 0x04 => rowAndi w
  | 0x05 => rowOri w
  | 0x06 => rowXori w
  | 0x07 => major07 w
  | 0x08 => rowSlti w
  | 0x09 => rowSltiu w
  | 0x0A => rowLui w
  | 0x0B => rowAddpc w
  | 0x0C => major0C w
  | 0x0D => major0D w
  | 0x0E => major0E w
  | 0x0F => major0F w
  | 0x10 => major10 w
  | 0x11 => rowJal w
  | 0x12 => rowJalr w
  | 0x13 => major13 w
  | 0x14 => rowLmove w
  | 0x15 => major15 w
  | 0x16 => major16 w
  | 0x17 => major17 w
  | 0x18 => major18 w
  | 0x19 => major19 w
  | 0x1A => major1A w
  | 0x1B => major1B w
  | 0x1C => major1C w
  | 0x1D => major1D w
  | 0x1E => major1E w
  | 0x1F => major1F w
  | 0x20 => major20 w
  | 0x21 => major21 w
  | 0x22 => major22 w
  | 0x23 => rowPass w
  | 0x24 => rowPassk w
  | 0x25 => major25 w
  | 0x26 => major26 w
  | 0x27 => rowMopa w
  | 0x28 => rowMops w
  | 0x29 => major29 w
  | 0x2A => major2A w
  | 0x2B => major2B w
  | 0x2C => major2C w
  | 0x2D => major2D w
  | _ => .error 0

/-- What a word is: an instruction, or ILLEGAL with a detail. Where the refusal is about well-formedness
alone, the instruction whose fields were read is kept for the rules of R94. -/
inductive Decoded where
  | instr (i : Instr)
  | illegal (detail : Nat) (fields : Option Instr)
  deriving DecidableEq, Repr

/-- Decode a 32-bit word (R96, R409). DEDUCED (log entry 29). -/
def decodeWord (w : Nat) : Decoded :=
  match decodeFields w with
  | .error d => .illegal d none
  | .ok i =>
    match i.breach with
    | none => .instr i
    | some d => .illegal d (some i)

/-- The word held by four bytes, the first at the lowest address (R3). -/
def wordOfBytes (b0 b1 b2 b3 : Byte) : Nat :=
  b0.toNat + 2 ^ 8 * b1.toNat + 2 ^ 16 * b2.toNat + 2 ^ 24 * b3.toNat

/-- Decode the instruction at the head of a list of bytes; `none` when fewer than four are given. -/
def decodeBytes : List Byte → Option (Decoded × List Byte)
  | b0 :: b1 :: b2 :: b3 :: rest => some (decodeWord (wordOfBytes b0 b1 b2 b3), rest)
  | _ => none

/-- The four bytes of a word, lowest address first (R3). -/
def bytesOfWord (w : Nat) : List Byte :=
  [BitVec.ofNat 8 w, BitVec.ofNat 8 (w / 2 ^ 8), BitVec.ofNat 8 (w / 2 ^ 16), BitVec.ofNat 8 (w / 2 ^ 24)]

/-- The instruction the decoder reads from a table word: `nbits` bits of `w`, every bit above zero. -/
def decodeTableWord (nbits w : Nat) : Option Instr :=
  match decodeBytes (bytesOfWord (w % 2 ^ nbits % 2 ^ 32)) with
  | some (.instr i, _) => some i
  | _ => none

/-! ### The encoder -/

/-- Field value of a scope. -/
def Scope.code : Scope → Nat
  | .hart => 0 | .core => 1 | .quad => 2 | .device => 3 | .domain => 4
/-- Field value of an order. -/
def Order.code : Order → Nat
  | .relaxed => 0 | .acquire => 1 | .release => 2 | .acqRel => 3
/-- Field value of a constant source. -/
def KSrc.code : KSrc → Nat
  | .none => 0 | .bit => 1 | .all => 2
/-- Field value of a MZRO type. -/
def ZeroTyp.code : ZeroTyp → Nat
  | .f32 => 0 | .i32 => 1 | .f64 => 2
/-- The bits of VCMP's second operand, sx included. -/
def CmpOperand.code : CmpOperand → Nat
  | .vec v => v.val * 2 ^ 8 | .athr => 62 * 2 ^ 8 | .scalar x => x.val * 2 ^ 8 + 2 ^ 5
/-- The bits of VWHILE's second operand, sx included. -/
def LoopOperand.code : LoopOperand → Nat
  | .vec v => v.val * 2 ^ 14 | .scalar x => x.val * 2 ^ 14 + 2 ^ 13
/-- The copy field of PFX. -/
def copyCode : PfxCopy → Nat
  | some v => v.val | none => 63

/-- A word: its fixed bits and each field's value at its lowest bit. -/
def place (fixed : Nat) : List (Nat × Nat) → Nat
  | [] => fixed
  | (v, lo) :: rest => v * 2 ^ lo + place fixed rest

/-- The word of an instruction; `none` for an event, which has no encoding. -/
def encode : Instr → Option Nat
  | .srd d num => some (place 0x00000006 [(d.val, 21), (num.toNat, 4)])
  | .swr num a => some (place 0x00000007 [(num.toNat, 4), (a.val, 16)])
  | .fence scope bits => some (place 0x00000008 [(scope.code, 8), (bits.toNat, 4)])
  | .gbar scope => some (place 0x00000009 [(scope.code, 8)])
  | .pfx mask inv copy slices => some (place 0x04000000 [(mask.val, 22), (inv.toNat, 21), (copyCode copy, 15), (slices.toNat, 12)])
  | .add d a b => some (place 0x08000000 [(d.val, 21), (a.val, 16), (b.val, 11)])
  | .sub d a b => some (place 0x08000001 [(d.val, 21), (a.val, 16), (b.val, 11)])
  | .and d a b => some (place 0x08000002 [(d.val, 21), (a.val, 16), (b.val, 11)])
  | .or d a b => some (place 0x08000003 [(d.val, 21), (a.val, 16), (b.val, 11)])
  | .xor d a b => some (place 0x08000004 [(d.val, 21), (a.val, 16), (b.val, 11)])
  | .sll d a b => some (place 0x08000005 [(d.val, 21), (a.val, 16), (b.val, 11)])
  | .srl d a b => some (place 0x08000006 [(d.val, 21), (a.val, 16), (b.val, 11)])
  | .sra d a b => some (place 0x08000007 [(d.val, 21), (a.val, 16), (b.val, 11)])
  | .slt d a b => some (place 0x08000008 [(d.val, 21), (a.val, 16), (b.val, 11)])
  | .sltu d a b => some (place 0x08000009 [(d.val, 21), (a.val, 16), (b.val, 11)])
  | .min d a b => some (place 0x0800000A [(d.val, 21), (a.val, 16), (b.val, 11)])
  | .max d a b => some (place 0x0800000B [(d.val, 21), (a.val, 16), (b.val, 11)])
  | .minu d a b => some (place 0x0800000C [(d.val, 21), (a.val, 16), (b.val, 11)])
  | .maxu d a b => some (place 0x0800000D [(d.val, 21), (a.val, 16), (b.val, 11)])
  | .mul d a b => some (place 0x08000010 [(d.val, 21), (a.val, 16), (b.val, 11)])
  | .mulh d a b => some (place 0x08000011 [(d.val, 21), (a.val, 16), (b.val, 11)])
  | .mulhu d a b => some (place 0x08000012 [(d.val, 21), (a.val, 16), (b.val, 11)])
  | .div d a b => some (place 0x08000014 [(d.val, 21), (a.val, 16), (b.val, 11)])
  | .divu d a b => some (place 0x08000015 [(d.val, 21), (a.val, 16), (b.val, 11)])
  | .rem d a b => some (place 0x08000016 [(d.val, 21), (a.val, 16), (b.val, 11)])
  | .remu d a b => some (place 0x08000017 [(d.val, 21), (a.val, 16), (b.val, 11)])
  | .clz d a => some (place 0x08000018 [(d.val, 21), (a.val, 16)])
  | .ctz d a => some (place 0x08000019 [(d.val, 21), (a.val, 16)])
  | .cnt d a => some (place 0x0800001A [(d.val, 21), (a.val, 16)])
  | .sel d a b c => some (place 0x0800001B [(d.val, 21), (a.val, 16), (b.val, 11), (c.val, 6)])
  | .addi d a imm => some (place 0x0C000000 [(d.val, 21), (a.val, 16), (imm.toNat, 0)])
  | .andi d a imm => some (place 0x10000000 [(d.val, 21), (a.val, 16), (imm.toNat, 0)])
  | .ori d a imm => some (place 0x14000000 [(d.val, 21), (a.val, 16), (imm.toNat, 0)])
  | .xori d a imm => some (place 0x18000000 [(d.val, 21), (a.val, 16), (imm.toNat, 0)])
  | .slli d a shamt => some (place 0x1C000000 [(d.val, 21), (a.val, 16), (shamt.toNat, 0)])
  | .srli d a shamt => some (place 0x1C004000 [(d.val, 21), (a.val, 16), (shamt.toNat, 0)])
  | .srai d a shamt => some (place 0x1C008000 [(d.val, 21), (a.val, 16), (shamt.toNat, 0)])
  | .slti d a imm => some (place 0x20000000 [(d.val, 21), (a.val, 16), (imm.toNat, 0)])
  | .sltiu d a imm => some (place 0x24000000 [(d.val, 21), (a.val, 16), (imm.toNat, 0)])
  | .lui d imm => some (place 0x28000000 [(d.val, 21), (imm.toNat, 0)])
  | .addpc d imm => some (place 0x2C000000 [(d.val, 21), (imm.toNat, 0)])
  | .fadd d a b single => some (place 0x30000000 [(d.val, 21), (a.val, 16), (b.val, 11), (single.toNat, 5)])
  | .fsub d a b single => some (place 0x30000001 [(d.val, 21), (a.val, 16), (b.val, 11), (single.toNat, 5)])
  | .fmul d a b single => some (place 0x30000002 [(d.val, 21), (a.val, 16), (b.val, 11), (single.toNat, 5)])
  | .fdiv d a b single => some (place 0x30000003 [(d.val, 21), (a.val, 16), (b.val, 11), (single.toNat, 5)])
  | .fsqrt d a single => some (place 0x30000004 [(d.val, 21), (a.val, 16), (single.toNat, 5)])
  | .fmin d a b single => some (place 0x30000005 [(d.val, 21), (a.val, 16), (b.val, 11), (single.toNat, 5)])
  | .fmax d a b single => some (place 0x30000006 [(d.val, 21), (a.val, 16), (b.val, 11), (single.toNat, 5)])
  | .fma d a b c single => some (place 0x30000007 [(d.val, 21), (a.val, 16), (b.val, 11), (c.val, 6), (single.toNat, 5)])
  | .fnma d a b c single => some (place 0x30000008 [(d.val, 21), (a.val, 16), (b.val, 11), (c.val, 6), (single.toNat, 5)])
  | .feq d a b single => some (place 0x30000009 [(d.val, 21), (a.val, 16), (b.val, 11), (single.toNat, 5)])
  | .flt d a b single => some (place 0x3000000A [(d.val, 21), (a.val, 16), (b.val, 11), (single.toNat, 5)])
  | .fle d a b single => some (place 0x3000000B [(d.val, 21), (a.val, 16), (b.val, 11), (single.toNat, 5)])
  | .fcvtDL d a single => some (place 0x3000000C [(d.val, 21), (a.val, 16), (single.toNat, 5)])
  | .fcvtLD d a single => some (place 0x3000000D [(d.val, 21), (a.val, 16), (single.toNat, 5)])
  | .fcvtDS d a => some (place 0x3000000E [(d.val, 21), (a.val, 16)])
  | .fcvtSD d a => some (place 0x3000000F [(d.val, 21), (a.val, 16)])
  | .fabs d a single => some (place 0x30000010 [(d.val, 21), (a.val, 16), (single.toNat, 5)])
  | .fneg d a single => some (place 0x30000011 [(d.val, 21), (a.val, 16), (single.toNat, 5)])
  | .fkind d a single => some (place 0x30000012 [(d.val, 21), (a.val, 16), (single.toNat, 5)])
  | .lb d a off => some (place 0x34000000 [(d.val, 21), (a.val, 16), (off.toNat, 0)])
  | .lbu d a off => some (place 0x34002000 [(d.val, 21), (a.val, 16), (off.toNat, 0)])
  | .lh d a off => some (place 0x34004000 [(d.val, 21), (a.val, 16), (off.toNat, 0)])
  | .lhu d a off => some (place 0x34006000 [(d.val, 21), (a.val, 16), (off.toNat, 0)])
  | .lw d a off => some (place 0x34008000 [(d.val, 21), (a.val, 16), (off.toNat, 0)])
  | .lwu d a off => some (place 0x3400A000 [(d.val, 21), (a.val, 16), (off.toNat, 0)])
  | .ld d a off => some (place 0x3400C000 [(d.val, 21), (a.val, 16), (off.toNat, 0)])
  | .stb xs a off => some (place 0x38000000 [(xs.val, 21), (a.val, 16), (off.toNat, 0)])
  | .sth xs a off => some (place 0x38002000 [(xs.val, 21), (a.val, 16), (off.toNat, 0)])
  | .stw xs a off => some (place 0x38004000 [(xs.val, 21), (a.val, 16), (off.toNat, 0)])
  | .std xs a off => some (place 0x38006000 [(xs.val, 21), (a.val, 16), (off.toNat, 0)])
  | .lda d a scope wide => some (place 0x3C000000 [(d.val, 21), (a.val, 16), (scope.code, 12), (wide.toNat, 11)])
  | .stl xs a scope wide => some (place 0x3C008000 [(xs.val, 21), (a.val, 16), (scope.code, 12), (wide.toNat, 11)])
  | .beq a b off => some (place 0x40000000 [(a.val, 21), (b.val, 16), (off.toNat, 0)])
  | .bne a b off => some (place 0x40002000 [(a.val, 21), (b.val, 16), (off.toNat, 0)])
  | .blt a b off => some (place 0x40004000 [(a.val, 21), (b.val, 16), (off.toNat, 0)])
  | .bge a b off => some (place 0x40006000 [(a.val, 21), (b.val, 16), (off.toNat, 0)])
  | .bltu a b off => some (place 0x40008000 [(a.val, 21), (b.val, 16), (off.toNat, 0)])
  | .bgeu a b off => some (place 0x4000A000 [(a.val, 21), (b.val, 16), (off.toNat, 0)])
  | .jal off => some (place 0x44000000 [(off.toNat, 0)])
  | .jalr d a imm => some (place 0x48000000 [(d.val, 21), (a.val, 16), (imm.toNat, 0)])
  | .aadd d a b scope order wide => some (place 0x4C000000 [(d.val, 21), (a.val, 16), (b.val, 11), (scope.code, 8), (order.code, 6), (wide.toNat, 2)])
  | .aincb d a b scope order wide => some (place 0x4C000008 [(d.val, 21), (a.val, 16), (b.val, 11), (scope.code, 8), (order.code, 6), (wide.toNat, 2)])
  | .acas d a b scope order wide => some (place 0x4C000010 [(d.val, 21), (a.val, 16), (b.val, 11), (scope.code, 8), (order.code, 6), (wide.toNat, 2)])
  | .aswp d a b scope order wide => some (place 0x4C000018 [(d.val, 21), (a.val, 16), (b.val, 11), (scope.code, 8), (order.code, 6), (wide.toNat, 2)])
  | .amin d a b scope order wide => some (place 0x4C000020 [(d.val, 21), (a.val, 16), (b.val, 11), (scope.code, 8), (order.code, 6), (wide.toNat, 2)])
  | .amax d a b scope order wide => some (place 0x4C000028 [(d.val, 21), (a.val, 16), (b.val, 11), (scope.code, 8), (order.code, 6), (wide.toNat, 2)])
  | .aand d a b scope order wide => some (place 0x4C000030 [(d.val, 21), (a.val, 16), (b.val, 11), (scope.code, 8), (order.code, 6), (wide.toNat, 2)])
  | .aor d a b scope order wide => some (place 0x4C000038 [(d.val, 21), (a.val, 16), (b.val, 11), (scope.code, 8), (order.code, 6), (wide.toNat, 2)])
  | .lmove d a b scope order => some (place 0x50000000 [(d.val, 21), (a.val, 16), (b.val, 11), (scope.code, 8), (order.code, 6)])
  | .setvl d a => some (place 0x54000000 [(d.val, 21), (a.val, 16)])
  | .setvlx d a b => some (place 0x54000001 [(d.val, 21), (a.val, 16), (b.val, 11)])
  | .setshape d a b => some (place 0x54000002 [(d.val, 21), (a.val, 16), (b.val, 11)])
  | .setvt d a => some (place 0x54000003 [(d.val, 21), (a.val, 16)])
  | .vtag d code => some (place 0x54000004 [(d.val, 20), (code.toNat, 14)])
  | .setsb a => some (place 0x54000005 [(a.val, 16)])
  | .setpseq a => some (place 0x54000006 [(a.val, 16)])
  | .vadd d a b m ca cb => some (place 0x58000000 [(d.val, 20), (a.val, 14), (b.val, 8), (m.toNat, 7), (ca.toNat, 6), (cb.toNat, 5)])
  | .vsub d a b m ca cb => some (place 0x58000001 [(d.val, 20), (a.val, 14), (b.val, 8), (m.toNat, 7), (ca.toNat, 6), (cb.toNat, 5)])
  | .vmul d a b m ca cb => some (place 0x58000002 [(d.val, 20), (a.val, 14), (b.val, 8), (m.toNat, 7), (ca.toNat, 6), (cb.toNat, 5)])
  | .vdiv d a b m ca cb => some (place 0x58000003 [(d.val, 20), (a.val, 14), (b.val, 8), (m.toNat, 7), (ca.toNat, 6), (cb.toNat, 5)])
  | .vsqrt d a m ca => some (place 0x58000004 [(d.val, 20), (a.val, 14), (m.toNat, 7), (ca.toNat, 6)])
  | .vmin d a b m ca cb => some (place 0x58000005 [(d.val, 20), (a.val, 14), (b.val, 8), (m.toNat, 7), (ca.toNat, 6), (cb.toNat, 5)])
  | .vmax d a b m ca cb => some (place 0x58000006 [(d.val, 20), (a.val, 14), (b.val, 8), (m.toNat, 7), (ca.toNat, 6), (cb.toNat, 5)])
  | .vabs d a m ca => some (place 0x58000007 [(d.val, 20), (a.val, 14), (m.toNat, 7), (ca.toNat, 6)])
  | .vneg d a m ca => some (place 0x58000008 [(d.val, 20), (a.val, 14), (m.toNat, 7), (ca.toNat, 6)])
  | .vand d a b m ca cb => some (place 0x58000009 [(d.val, 20), (a.val, 14), (b.val, 8), (m.toNat, 7), (ca.toNat, 6), (cb.toNat, 5)])
  | .vor d a b m ca cb => some (place 0x5800000A [(d.val, 20), (a.val, 14), (b.val, 8), (m.toNat, 7), (ca.toNat, 6), (cb.toNat, 5)])
  | .vxor d a b m ca cb => some (place 0x5800000B [(d.val, 20), (a.val, 14), (b.val, 8), (m.toNat, 7), (ca.toNat, 6), (cb.toNat, 5)])
  | .vnot d a m ca => some (place 0x5800000C [(d.val, 20), (a.val, 14), (m.toNat, 7), (ca.toNat, 6)])
  | .vsll d a b m ca cb => some (place 0x5800000D [(d.val, 20), (a.val, 14), (b.val, 8), (m.toNat, 7), (ca.toNat, 6), (cb.toNat, 5)])
  | .vsrl d a b m ca cb => some (place 0x5800000E [(d.val, 20), (a.val, 14), (b.val, 8), (m.toNat, 7), (ca.toNat, 6), (cb.toNat, 5)])
  | .vsra d a b m ca cb => some (place 0x5800000F [(d.val, 20), (a.val, 14), (b.val, 8), (m.toNat, 7), (ca.toNat, 6), (cb.toNat, 5)])
  | .vmulh d a b m ca cb => some (place 0x58000010 [(d.val, 20), (a.val, 14), (b.val, 8), (m.toNat, 7), (ca.toNat, 6), (cb.toNat, 5)])
  | .vrem d a b m ca cb => some (place 0x58000011 [(d.val, 20), (a.val, 14), (b.val, 8), (m.toNat, 7), (ca.toNat, 6), (cb.toNat, 5)])
  | .vclz d a m ca => some (place 0x58000012 [(d.val, 20), (a.val, 14), (m.toNat, 7), (ca.toNat, 6)])
  | .vcnt d a m ca => some (place 0x58000013 [(d.val, 20), (a.val, 14), (m.toNat, 7), (ca.toNat, 6)])
  | .vrcpe d a m ca => some (place 0x58000014 [(d.val, 20), (a.val, 14), (m.toNat, 7), (ca.toNat, 6)])
  | .vrsqe d a m ca => some (place 0x58000015 [(d.val, 20), (a.val, 14), (m.toNat, 7), (ca.toNat, 6)])
  | .vmv d a m ca => some (place 0x58000016 [(d.val, 20), (a.val, 14), (m.toNat, 7), (ca.toNat, 6)])
  | .vmerge d a b ca cb => some (place 0x58000097 [(d.val, 20), (a.val, 14), (b.val, 8), (ca.toNat, 6), (cb.toNat, 5)])
  | .vcvt d a code m ca => some (place 0x58000018 [(d.val, 20), (a.val, 14), (code.toNat, 8), (m.toNat, 7), (ca.toNat, 6)])
  | .vfma d a b m ca cb => some (place 0x5C000000 [(d.val, 20), (a.val, 14), (b.val, 8), (m.toNat, 7), (ca.toNat, 6), (cb.toNat, 5)])
  | .vfms d a b m ca cb => some (place 0x5C000001 [(d.val, 20), (a.val, 14), (b.val, 8), (m.toNat, 7), (ca.toNat, 6), (cb.toNat, 5)])
  | .vfnma d a b m ca cb => some (place 0x5C000002 [(d.val, 20), (a.val, 14), (b.val, 8), (m.toNat, 7), (ca.toNat, 6), (cb.toNat, 5)])
  | .vwadd d a b m ca cb => some (place 0x5C000003 [(d.val, 20), (a.val, 14), (b.val, 8), (m.toNat, 7), (ca.toNat, 6), (cb.toNat, 5)])
  | .vwsub d a b m ca cb => some (place 0x5C000004 [(d.val, 20), (a.val, 14), (b.val, 8), (m.toNat, 7), (ca.toNat, 6), (cb.toNat, 5)])
  | .vwmul d a b m ca cb => some (place 0x5C000005 [(d.val, 20), (a.val, 14), (b.val, 8), (m.toNat, 7), (ca.toNat, 6), (cb.toNat, 5)])
  | .vwfma d a b m ca cb => some (place 0x5C000006 [(d.val, 20), (a.val, 14), (b.val, 8), (m.toNat, 7), (ca.toNat, 6), (cb.toNat, 5)])
  | .vnarrow d a m ca => some (place 0x5C000007 [(d.val, 20), (a.val, 14), (m.toNat, 7), (ca.toNat, 6)])
  | .vilv d a b m ca cb => some (place 0x5C000008 [(d.val, 20), (a.val, 14), (b.val, 8), (m.toNat, 7), (ca.toNat, 6), (cb.toNat, 5)])
  | .vdilv d a m ca => some (place 0x5C000009 [(d.val, 20), (a.val, 14), (m.toNat, 7), (ca.toNat, 6)])
  | .vscale d a b m ca cb => some (place 0x5C00000A [(d.val, 20), (a.val, 14), (b.val, 8), (m.toNat, 7), (ca.toNat, 6), (cb.toNat, 5)])
  | .vquant d a b m ca => some (place 0x5C00000B [(d.val, 20), (a.val, 14), (b.val, 8), (m.toNat, 7), (ca.toNat, 6)])
  | .vaddX d a b m ca => some (place 0x60000000 [(d.val, 20), (a.val, 14), (b.val, 9), (m.toNat, 7), (ca.toNat, 6)])
  | .vsubX d a b m ca => some (place 0x60000001 [(d.val, 20), (a.val, 14), (b.val, 9), (m.toNat, 7), (ca.toNat, 6)])
  | .vmulX d a b m ca => some (place 0x60000002 [(d.val, 20), (a.val, 14), (b.val, 9), (m.toNat, 7), (ca.toNat, 6)])
  | .vminX d a b m ca => some (place 0x60000003 [(d.val, 20), (a.val, 14), (b.val, 9), (m.toNat, 7), (ca.toNat, 6)])
  | .vmaxX d a b m ca => some (place 0x60000004 [(d.val, 20), (a.val, 14), (b.val, 9), (m.toNat, 7), (ca.toNat, 6)])
  | .vandX d a b m ca => some (place 0x60000005 [(d.val, 20), (a.val, 14), (b.val, 9), (m.toNat, 7), (ca.toNat, 6)])
  | .vorX d a b m ca => some (place 0x60000006 [(d.val, 20), (a.val, 14), (b.val, 9), (m.toNat, 7), (ca.toNat, 6)])
  | .vxorX d a b m ca => some (place 0x60000007 [(d.val, 20), (a.val, 14), (b.val, 9), (m.toNat, 7), (ca.toNat, 6)])
  | .vsllX d a b m ca => some (place 0x60000008 [(d.val, 20), (a.val, 14), (b.val, 9), (m.toNat, 7), (ca.toNat, 6)])
  | .vsrlX d a b m ca => some (place 0x60000009 [(d.val, 20), (a.val, 14), (b.val, 9), (m.toNat, 7), (ca.toNat, 6)])
  | .vsraX d a b m ca => some (place 0x6000000A [(d.val, 20), (a.val, 14), (b.val, 9), (m.toNat, 7), (ca.toNat, 6)])
  | .vfmaX d a b m ca => some (place 0x6000000B [(d.val, 20), (a.val, 14), (b.val, 9), (m.toNat, 7), (ca.toNat, 6)])
  | .vbcst d b m => some (place 0x6000000C [(d.val, 20), (b.val, 9), (m.toNat, 7)])
  | .vidx d m => some (place 0x6000000D [(d.val, 20), (m.toNat, 7)])
  | .vcmpEq d a b m ca => some (place 0x64000000 [(d.val, 20), (a.val, 14), (b.code, 0), (m.toNat, 7), (ca.toNat, 6)])
  | .vcmpNe d a b m ca => some (place 0x64000004 [(d.val, 20), (a.val, 14), (b.code, 0), (m.toNat, 7), (ca.toNat, 6)])
  | .vcmpLt d a b m ca => some (place 0x64000008 [(d.val, 20), (a.val, 14), (b.code, 0), (m.toNat, 7), (ca.toNat, 6)])
  | .vcmpLe d a b m ca => some (place 0x6400000C [(d.val, 20), (a.val, 14), (b.code, 0), (m.toNat, 7), (ca.toNat, 6)])
  | .vcmpGt d a b m ca => some (place 0x64000010 [(d.val, 20), (a.val, 14), (b.code, 0), (m.toNat, 7), (ca.toNat, 6)])
  | .vcmpGe d a b m ca => some (place 0x64000014 [(d.val, 20), (a.val, 14), (b.code, 0), (m.toNat, 7), (ca.toNat, 6)])
  | .vcmpUn d a b m ca => some (place 0x64000018 [(d.val, 20), (a.val, 14), (b.code, 0), (m.toNat, 7), (ca.toNat, 6)])
  | .vcmpOr d a b m ca => some (place 0x6400001C [(d.val, 20), (a.val, 14), (b.code, 0), (m.toNat, 7), (ca.toNat, 6)])
  | .mand d a b m => some (place 0x68000000 [(d.val, 20), (a.val, 14), (b.val, 8), (m.toNat, 7)])
  | .mor d a b m => some (place 0x68000001 [(d.val, 20), (a.val, 14), (b.val, 8), (m.toNat, 7)])
  | .mxor d a b m => some (place 0x68000002 [(d.val, 20), (a.val, 14), (b.val, 8), (m.toNat, 7)])
  | .mandn d a b m => some (place 0x68000003 [(d.val, 20), (a.val, 14), (b.val, 8), (m.toNat, 7)])
  | .mnot d a m => some (place 0x68000004 [(d.val, 20), (a.val, 14), (m.toNat, 7)])
  | .mcnt d a m => some (place 0x68000005 [(d.val, 20), (a.val, 14), (m.toNat, 7)])
  | .mffs d a m => some (place 0x68000006 [(d.val, 20), (a.val, 14), (m.toNat, 7)])
  | .mtox d a b m => some (place 0x68000007 [(d.val, 20), (a.val, 14), (b.val, 8), (m.toNat, 7)])
  | .mxtom d a b m => some (place 0x68000008 [(d.val, 20), (a.val, 14), (b.val, 8), (m.toNat, 7)])
  | .mpref d a m => some (place 0x68000009 [(d.val, 20), (a.val, 14), (m.toNat, 7)])
  | .msbf d a m => some (place 0x6800000A [(d.val, 20), (a.val, 14), (m.toNat, 7)])
  | .vreds d a m ca => some (place 0x6C000000 [(d.val, 20), (a.val, 14), (m.toNat, 7), (ca.toNat, 6)])
  | .vdots d a b m ca cb => some (place 0x6C000001 [(d.val, 20), (a.val, 14), (b.val, 8), (m.toNat, 7), (ca.toNat, 6), (cb.toNat, 5)])
  | .vfold d a b ca => some (place 0x6C000002 [(d.val, 20), (a.val, 14), (b.val, 8), (ca.toNat, 6)])
  | .vredmax d a b m ca => some (place 0x6C000003 [(d.val, 20), (a.val, 14), (b.val, 8), (m.toNat, 7), (ca.toNat, 6)])
  | .vredmin d a b m ca => some (place 0x6C000004 [(d.val, 20), (a.val, 14), (b.val, 8), (m.toNat, 7), (ca.toNat, 6)])
  | .vredand d a b m ca => some (place 0x6C000005 [(d.val, 20), (a.val, 14), (b.val, 8), (m.toNat, 7), (ca.toNat, 6)])
  | .vredor d a b m ca => some (place 0x6C000006 [(d.val, 20), (a.val, 14), (b.val, 8), (m.toNat, 7), (ca.toNat, 6)])
  | .vld d base m => some (place 0x70000000 [(d.val, 20), (base.val, 15), (m.toNat, 5)])
  | .vlds d base stride m => some (place 0x70001000 [(d.val, 20), (base.val, 15), (stride.val, 6), (m.toNat, 5)])
  | .vldx d base idx m ca => some (place 0x70002000 [(d.val, 20), (base.val, 15), (idx.val, 6), (m.toNat, 5), (ca.toNat, 4)])
  | .vldO d base m => some (place 0x70003000 [(d.val, 20), (base.val, 15), (m.toNat, 5)])
  | .vldsO d base stride m => some (place 0x70004000 [(d.val, 20), (base.val, 15), (stride.val, 6), (m.toNat, 5)])
  | .vldxO d base idx m ca => some (place 0x70005000 [(d.val, 20), (base.val, 15), (idx.val, 6), (m.toNat, 5), (ca.toNat, 4)])
  | .vst vs base m ca => some (place 0x74000000 [(vs.val, 20), (base.val, 15), (m.toNat, 5), (ca.toNat, 4)])
  | .vsts vs base stride m ca => some (place 0x74001000 [(vs.val, 20), (base.val, 15), (stride.val, 6), (m.toNat, 5), (ca.toNat, 4)])
  | .vstx vs base idx m ca => some (place 0x74002000 [(vs.val, 20), (base.val, 15), (idx.val, 6), (m.toNat, 5), (ca.toNat, 4)])
  | .vstO vs base m ca => some (place 0x74003000 [(vs.val, 20), (base.val, 15), (m.toNat, 5), (ca.toNat, 4)])
  | .vstsO vs base stride m ca => some (place 0x74004000 [(vs.val, 20), (base.val, 15), (stride.val, 6), (m.toNat, 5), (ca.toNat, 4)])
  | .vstxO vs base idx m ca => some (place 0x74005000 [(vs.val, 20), (base.val, 15), (idx.val, 6), (m.toNat, 5), (ca.toNat, 4)])
  | .vldt d a b m ca => some (place 0x78000000 [(d.val, 20), (a.val, 14), (b.val, 9), (m.toNat, 7), (ca.toNat, 6)])
  | .vstt vs a b m ca => some (place 0x78000001 [(vs.val, 20), (a.val, 14), (b.val, 9), (m.toNat, 7), (ca.toNat, 6)])
  | .vldsp d base m => some (place 0x7C000000 [(d.val, 20), (base.val, 15), (m.toNat, 5)])
  | .vldsh d base m => some (place 0x7C000001 [(d.val, 20), (base.val, 15), (m.toNat, 5)])
  | .vpref base => some (place 0x7C000002 [(base.val, 15)])
  | .vcompress d a m ca => some (place 0x80000000 [(d.val, 20), (a.val, 14), (m.toNat, 7), (ca.toNat, 6)])
  | .vexpand d a m ca => some (place 0x80000001 [(d.val, 20), (a.val, 14), (m.toNat, 7), (ca.toNat, 6)])
  | .vconf d a m ca => some (place 0x80000002 [(d.val, 20), (a.val, 14), (m.toNat, 7), (ca.toNat, 6)])
  | .vrank d a b m ca cb => some (place 0x80000003 [(d.val, 20), (a.val, 14), (b.val, 8), (m.toNat, 7), (ca.toNat, 6), (cb.toNat, 5)])
  | .vselb d a b m ca cb => some (place 0x80000004 [(d.val, 20), (a.val, 14), (b.val, 8), (m.toNat, 7), (ca.toNat, 6), (cb.toNat, 5)])
  | .vpush d a b m ca cb => some (place 0x80000005 [(d.val, 20), (a.val, 14), (b.val, 8), (m.toNat, 7), (ca.toNat, 6), (cb.toNat, 5)])
  | .vpull d a b m ca cb => some (place 0x80000006 [(d.val, 20), (a.val, 14), (b.val, 8), (m.toNat, 7), (ca.toNat, 6), (cb.toNat, 5)])
  | .vsldn d a b m ca => some (place 0x80000007 [(d.val, 20), (a.val, 14), (b.val, 8), (m.toNat, 7), (ca.toNat, 6)])
  | .vslup d a b m ca => some (place 0x80000008 [(d.val, 20), (a.val, 14), (b.val, 8), (m.toNat, 7), (ca.toNat, 6)])
  | .vrnd d b m => some (place 0x84000000 [(d.val, 20), (b.val, 9), (m.toNat, 7)])
  | .vrndf d b m => some (place 0x84000001 [(d.val, 20), (b.val, 9), (m.toNat, 7)])
  | .vacc d a b ca => some (place 0x84000002 [(d.val, 20), (a.val, 14), (b.val, 9), (ca.toNat, 6)])
  | .opload d a slot => some (place 0x88000000 [(d.val, 21), (a.val, 16), (slot.val, 12)])
  | .opqry d slot => some (place 0x88000001 [(d.val, 21), (slot.val, 12)])
  | .opclr slot => some (place 0x88000002 [(slot.val, 12)])
  | .pass d c slot first cnt desc ksrc => some (place 0x8C000000 [(d.val, 20), (c.val, 14), (slot.val, 10), (first.val, 6), (cnt.toNat, 3), (desc.toNat, 2), (ksrc.code, 0)])
  | .passk d c k slot => some (place 0x90000000 [(d.val, 20), (c.val, 14), (k.val, 8), (slot.val, 4)])
  | .vmergek d c k m ca => some (place 0x94000000 [(d.val, 20), (c.val, 14), (k.val, 9), (m.toNat, 7), (ca.toNat, 6)])
  | .matt d a b => some (place 0x98000000 [(d.val, 20), (a.val, 7), (b.val, 14)])
  | .mzro bin typ => some (place 0x98000002 [(bin.val, 12), (typ.code, 14)])
  | .masy bin k => some (place 0x98000003 [(bin.val, 12), (k.val, 7)])
  | .mrd d bin r => some (place 0x98000004 [(d.val, 20), (bin.val, 12), (r.val, 7)])
  | .mwr bin vs r => some (place 0x98000005 [(bin.val, 12), (vs.val, 20), (r.val, 7)])
  | .maget d c bin r => some (place 0x98000006 [(d.val, 20), (c.val, 14), (bin.val, 12), (r.val, 7)])
  | .mthr d bin r => some (place 0x98000007 [(d.val, 20), (bin.val, 12), (r.val, 7)])
  | .mopa bin a b m ca cb => some (place 0x9C000000 [(bin.val, 24), (a.val, 14), (b.val, 8), (m.toNat, 23), (ca.toNat, 22), (cb.toNat, 21)])
  | .mops bin a b vmeta m ca cb cm => some (place 0xA0000000 [(bin.val, 24), (a.val, 14), (b.val, 8), (vmeta.val, 2), (m.toNat, 23), (ca.toNat, 22), (cb.toNat, 21), (cm.toNat, 20)])
  | .masv bin a c r m ca cb => some (place 0xA4000000 [(bin.val, 24), (a.val, 14), (c.val, 8), (r.val, 3), (m.toNat, 23), (ca.toNat, 22), (cb.toNat, 21)])
  | .mdrn bin src base => some (place 0xA4100000 [(bin.val, 24), (src.val, 1), (base.val, 3)])
  | .vfetch a b => some (place 0xA8000001 [(a.val, 16), (b.val, 11)])
  | .lfetch a b => some (place 0xA8000002 [(a.val, 16), (b.val, 11)])
  | .lvpid d => some (place 0xA8000004 [(d.val, 21)])
  | .vwhileEq a b off => some (place 0xAC000000 [(a.val, 20), (b.code, 0), (off.toNat, 0)])
  | .vwhileNe a b off => some (place 0xAC000400 [(a.val, 20), (b.code, 0), (off.toNat, 0)])
  | .vwhileLt a b off => some (place 0xAC000800 [(a.val, 20), (b.code, 0), (off.toNat, 0)])
  | .vwhileLe a b off => some (place 0xAC000C00 [(a.val, 20), (b.code, 0), (off.toNat, 0)])
  | .vwhileGt a b off => some (place 0xAC001000 [(a.val, 20), (b.code, 0), (off.toNat, 0)])
  | .vwhileGe a b off => some (place 0xAC001400 [(a.val, 20), (b.code, 0), (off.toNat, 0)])
  | .vwhileUn a b off => some (place 0xAC001800 [(a.val, 20), (b.code, 0), (off.toNat, 0)])
  | .vwhileOr a b off => some (place 0xAC001C00 [(a.val, 20), (b.code, 0), (off.toNat, 0)])
  | .cpy d a b c => some (place 0xB0000000 [(d.val, 21), (a.val, 16), (b.val, 11), (c.val, 6)])
  | .cpyb d a => some (place 0xB0000001 [(d.val, 22), (a.val, 16)])
  | .coll d a => some (place 0xB0000002 [(d.val, 21), (a.val, 16)])
  | .ewait a => some (place 0xB0000003 [(a.val, 16)])
  | .etst d a => some (place 0xB0000004 [(d.val, 21), (a.val, 16)])
  | .vxfdRle d a b ca => some (place 0xB4000000 [(d.val, 20), (a.val, 14), (b.val, 9), (ca.toNat, 6)])
  | .vxfdDelta d a b ca => some (place 0xB4000001 [(d.val, 20), (a.val, 14), (b.val, 9), (ca.toNat, 6)])
  | .vxfdPlane d a b ca => some (place 0xB4000002 [(d.val, 20), (a.val, 14), (b.val, 9), (ca.toNat, 6)])
  | .vxfdSect d a b ca => some (place 0xB4000003 [(d.val, 20), (a.val, 14), (b.val, 9), (ca.toNat, 6)])
  | .vxfeRle d a b ca => some (place 0xB4000004 [(d.val, 20), (a.val, 14), (b.val, 9), (ca.toNat, 6)])
  | .vxfeDelta d a b ca => some (place 0xB4000005 [(d.val, 20), (a.val, 14), (b.val, 9), (ca.toNat, 6)])
  | .vxfePlane d a b ca => some (place 0xB4000006 [(d.val, 20), (a.val, 14), (b.val, 9), (ca.toNat, 6)])
  | .vxfeSect d a b ca => some (place 0xB4000007 [(d.val, 20), (a.val, 14), (b.val, 9), (ca.toNat, 6)])
  | .nop => some (place 0x00000000 [])
  | .halt => some (place 0x00000001 [])
  | .yield => some (place 0x00000002 [])
  | .sysc => some (place 0x00000003 [])
  | .bkpt => some (place 0x00000004 [])
  | .tret => some (place 0x00000005 [])
  | .mdet => some (place 0x98000001 [])
  | .lsplit => some (place 0xA8000000 [])
  | .ljoin => some (place 0xA8000003 [])
  | .stallChangeRequest => none
  | .stallAdoption => none
  | .setvlYield => none
  | .hartEnd => none
  | .barrierCompletion => none
  | .engineTransferEnd => none
  | .engineTransferFailure => none
  | .hardStop => none
  | .contextRestore => none
  | .yieldRequest => none
  | .yieldWindowExpiry => none
  | .narrowingTimeout => none
  | .matrixArbitration => none
  | .laneBlockReady => none
  | .laneRunJoin => none
  | .malformedAccess => none
  | .hostRead => none
  | .hostWrite => none
  | .hostAtomic => none
  | .hostLmove => none
  | .hostRegisterWrite => none
  | .linkHold => none
  | .linkHoldRelease => none
  | .linkDown => none
  | .linkUp => none
  | .linkAccessTimeout => none
  | .queueEnable => none
  | .queueReset => none
  | .queueResetDone => none
  | .launchAccept => none
  | .gangPlacement => none
  | .completionPost => none
  | .preemption => none
  | .agingExpiry => none
  | .syscNull => none
  | .syscTime => none
  | .syscBudget => none
  | .syscPrefault => none
  | .syscUnknown => none
  | .devicePageMap => none
  | .faultRecordPost => none
  | .frespRetry => none
  | .frespEnd => none
  | .invalidate => none
  | .invalidationComplete => none
  | .deviceReset => none
  | .recoveryGo => none
  | .firmwareFlashWrite => none
  | .attestRequest => none
  | .attestReportComplete => none
  | .domainEnable => none
  | .fabricAckTimeout => none
  | .flitCrcReplay => none
  | .portTrain => none
  | .collectiveTimeout => none
  | .collectiveEnd => none
  | .hbmScrub => none
  | .governorTick => none
  | .thermalThrottle => none
  | .thermalThrottleEnd => none
  | .thermalTrip => none
  | .remoteAccess => none
  | .dmembWrite => none
  | .powerLoss => none

/-! ### Facts about a word -/

/-- The m bit is there and is 1 (R94): VMERGE always has it set. -/
def Instr.predicated : Instr → Bool
  | .vadd _ _ _ m _ _ => m
  | .vsub _ _ _ m _ _ => m
  | .vmul _ _ _ m _ _ => m
  | .vdiv _ _ _ m _ _ => m
  | .vsqrt _ _ m _ => m
  | .vmin _ _ _ m _ _ => m
  | .vmax _ _ _ m _ _ => m
  | .vabs _ _ m _ => m
  | .vneg _ _ m _ => m
  | .vand _ _ _ m _ _ => m
  | .vor _ _ _ m _ _ => m
  | .vxor _ _ _ m _ _ => m
  | .vnot _ _ m _ => m
  | .vsll _ _ _ m _ _ => m
  | .vsrl _ _ _ m _ _ => m
  | .vsra _ _ _ m _ _ => m
  | .vmulh _ _ _ m _ _ => m
  | .vrem _ _ _ m _ _ => m
  | .vclz _ _ m _ => m
  | .vcnt _ _ m _ => m
  | .vrcpe _ _ m _ => m
  | .vrsqe _ _ m _ => m
  | .vmv _ _ m _ => m
  | .vcvt _ _ _ m _ => m
  | .vfma _ _ _ m _ _ => m
  | .vfms _ _ _ m _ _ => m
  | .vfnma _ _ _ m _ _ => m
  | .vwadd _ _ _ m _ _ => m
  | .vwsub _ _ _ m _ _ => m
  | .vwmul _ _ _ m _ _ => m
  | .vwfma _ _ _ m _ _ => m
  | .vnarrow _ _ m _ => m
  | .vilv _ _ _ m _ _ => m
  | .vdilv _ _ m _ => m
  | .vscale _ _ _ m _ _ => m
  | .vquant _ _ _ m _ => m
  | .vaddX _ _ _ m _ => m
  | .vsubX _ _ _ m _ => m
  | .vmulX _ _ _ m _ => m
  | .vminX _ _ _ m _ => m
  | .vmaxX _ _ _ m _ => m
  | .vandX _ _ _ m _ => m
  | .vorX _ _ _ m _ => m
  | .vxorX _ _ _ m _ => m
  | .vsllX _ _ _ m _ => m
  | .vsrlX _ _ _ m _ => m
  | .vsraX _ _ _ m _ => m
  | .vfmaX _ _ _ m _ => m
  | .vbcst _ _ m => m
  | .vidx _ m => m
  | .vcmpEq _ _ _ m _ => m
  | .vcmpNe _ _ _ m _ => m
  | .vcmpLt _ _ _ m _ => m
  | .vcmpLe _ _ _ m _ => m
  | .vcmpGt _ _ _ m _ => m
  | .vcmpGe _ _ _ m _ => m
  | .vcmpUn _ _ _ m _ => m
  | .vcmpOr _ _ _ m _ => m
  | .mand _ _ _ m => m
  | .mor _ _ _ m => m
  | .mxor _ _ _ m => m
  | .mandn _ _ _ m => m
  | .mnot _ _ m => m
  | .mcnt _ _ m => m
  | .mffs _ _ m => m
  | .mtox _ _ _ m => m
  | .mxtom _ _ _ m => m
  | .mpref _ _ m => m
  | .msbf _ _ m => m
  | .vreds _ _ m _ => m
  | .vdots _ _ _ m _ _ => m
  | .vredmax _ _ _ m _ => m
  | .vredmin _ _ _ m _ => m
  | .vredand _ _ _ m _ => m
  | .vredor _ _ _ m _ => m
  | .vld _ _ m => m
  | .vlds _ _ _ m => m
  | .vldx _ _ _ m _ => m
  | .vldO _ _ m => m
  | .vldsO _ _ _ m => m
  | .vldxO _ _ _ m _ => m
  | .vst _ _ m _ => m
  | .vsts _ _ _ m _ => m
  | .vstx _ _ _ m _ => m
  | .vstO _ _ m _ => m
  | .vstsO _ _ _ m _ => m
  | .vstxO _ _ _ m _ => m
  | .vldt _ _ _ m _ => m
  | .vstt _ _ _ m _ => m
  | .vldsp _ _ m => m
  | .vldsh _ _ m => m
  | .vcompress _ _ m _ => m
  | .vexpand _ _ m _ => m
  | .vconf _ _ m _ => m
  | .vrank _ _ _ m _ _ => m
  | .vselb _ _ _ m _ _ => m
  | .vpush _ _ _ m _ _ => m
  | .vpull _ _ _ m _ _ => m
  | .vsldn _ _ _ m _ => m
  | .vslup _ _ _ m _ => m
  | .vrnd _ _ m => m
  | .vrndf _ _ m => m
  | .vmergek _ _ _ m _ => m
  | .mopa _ _ _ m _ _ => m
  | .mops _ _ _ _ m _ _ _ => m
  | .masv _ _ _ _ m _ _ => m
  | .vmerge _ _ _ _ _ => true
  | _ => false

/-- The register and its partner of a pair. -/
def pairOf (r : VReg) : List Nat := [r.val, r.val + 1]

/-- The vector registers of VCMP's second operand. -/
def CmpOperand.vregs : CmpOperand → List Nat
  | .vec v => [v.val] | _ => []
/-- The vector registers of VWHILE's second operand. -/
def LoopOperand.vregs : LoopOperand → List Nat
  | .vec v => [v.val] | _ => []

/-- The vector registers an instruction names as sources or destinations, pairs whole (R94): whatever instruction names
one counts as a vector instruction. DEDUCED (log entry 59). -/
def Instr.vregs : Instr → List Nat
  | .vtag d _ => [d.val]
  | .vadd d a b _ _ _ => [d.val] ++ [a.val] ++ [b.val]
  | .vsub d a b _ _ _ => [d.val] ++ [a.val] ++ [b.val]
  | .vmul d a b _ _ _ => [d.val] ++ [a.val] ++ [b.val]
  | .vdiv d a b _ _ _ => [d.val] ++ [a.val] ++ [b.val]
  | .vsqrt d a _ _ => [d.val] ++ [a.val]
  | .vmin d a b _ _ _ => [d.val] ++ [a.val] ++ [b.val]
  | .vmax d a b _ _ _ => [d.val] ++ [a.val] ++ [b.val]
  | .vabs d a _ _ => [d.val] ++ [a.val]
  | .vneg d a _ _ => [d.val] ++ [a.val]
  | .vand d a b _ _ _ => [d.val] ++ [a.val] ++ [b.val]
  | .vor d a b _ _ _ => [d.val] ++ [a.val] ++ [b.val]
  | .vxor d a b _ _ _ => [d.val] ++ [a.val] ++ [b.val]
  | .vnot d a _ _ => [d.val] ++ [a.val]
  | .vsll d a b _ _ _ => [d.val] ++ [a.val] ++ [b.val]
  | .vsrl d a b _ _ _ => [d.val] ++ [a.val] ++ [b.val]
  | .vsra d a b _ _ _ => [d.val] ++ [a.val] ++ [b.val]
  | .vmulh d a b _ _ _ => [d.val] ++ [a.val] ++ [b.val]
  | .vrem d a b _ _ _ => [d.val] ++ [a.val] ++ [b.val]
  | .vclz d a _ _ => [d.val] ++ [a.val]
  | .vcnt d a _ _ => [d.val] ++ [a.val]
  | .vrcpe d a _ _ => [d.val] ++ [a.val]
  | .vrsqe d a _ _ => [d.val] ++ [a.val]
  | .vmv d a _ _ => [d.val] ++ [a.val]
  | .vmerge d a b _ _ => [d.val] ++ [a.val] ++ [b.val]
  | .vcvt d a _ _ _ => [d.val] ++ [a.val]
  | .vfma d a b _ _ _ => [d.val] ++ [a.val] ++ [b.val]
  | .vfms d a b _ _ _ => [d.val] ++ [a.val] ++ [b.val]
  | .vfnma d a b _ _ _ => [d.val] ++ [a.val] ++ [b.val]
  | .vwadd d a b _ _ _ => pairOf d ++ [a.val] ++ [b.val]
  | .vwsub d a b _ _ _ => pairOf d ++ [a.val] ++ [b.val]
  | .vwmul d a b _ _ _ => pairOf d ++ [a.val] ++ [b.val]
  | .vwfma d a b _ _ _ => pairOf d ++ [a.val] ++ [b.val]
  | .vnarrow d a _ _ => [d.val] ++ pairOf a
  | .vilv d a b _ _ _ => pairOf d ++ [a.val] ++ [b.val]
  | .vdilv d a _ _ => pairOf d ++ pairOf a
  | .vscale d a b _ _ _ => pairOf d ++ [a.val] ++ [b.val]
  | .vquant d a b _ _ => [d.val] ++ pairOf a ++ [b.val]
  | .vaddX d a _ _ _ => [d.val] ++ [a.val]
  | .vsubX d a _ _ _ => [d.val] ++ [a.val]
  | .vmulX d a _ _ _ => [d.val] ++ [a.val]
  | .vminX d a _ _ _ => [d.val] ++ [a.val]
  | .vmaxX d a _ _ _ => [d.val] ++ [a.val]
  | .vandX d a _ _ _ => [d.val] ++ [a.val]
  | .vorX d a _ _ _ => [d.val] ++ [a.val]
  | .vxorX d a _ _ _ => [d.val] ++ [a.val]
  | .vsllX d a _ _ _ => [d.val] ++ [a.val]
  | .vsrlX d a _ _ _ => [d.val] ++ [a.val]
  | .vsraX d a _ _ _ => [d.val] ++ [a.val]
  | .vfmaX d a _ _ _ => [d.val] ++ [a.val]
  | .vbcst d _ _ => [d.val]
  | .vidx d _ => [d.val]
  | .vcmpEq _ a b _ _ => [a.val] ++ b.vregs
  | .vcmpNe _ a b _ _ => [a.val] ++ b.vregs
  | .vcmpLt _ a b _ _ => [a.val] ++ b.vregs
  | .vcmpLe _ a b _ _ => [a.val] ++ b.vregs
  | .vcmpGt _ a b _ _ => [a.val] ++ b.vregs
  | .vcmpGe _ a b _ _ => [a.val] ++ b.vregs
  | .vcmpUn _ a b _ _ => [a.val] ++ b.vregs
  | .vcmpOr _ a b _ _ => [a.val] ++ b.vregs
  | .mpref d _ _ => [d.val]
  | .vreds d a _ _ => [d.val] ++ [a.val]
  | .vdots d a b _ _ _ => [d.val] ++ [a.val] ++ [b.val]
  | .vfold _ a _ _ => [a.val]
  | .vredmax _ a _ _ _ => [a.val]
  | .vredmin _ a _ _ _ => [a.val]
  | .vredand _ a _ _ _ => [a.val]
  | .vredor _ a _ _ _ => [a.val]
  | .vld d _ _ => [d.val]
  | .vlds d _ _ _ => [d.val]
  | .vldx d _ idx _ _ => [d.val] ++ [idx.val]
  | .vldO d _ _ => [d.val]
  | .vldsO d _ _ _ => [d.val]
  | .vldxO d _ idx _ _ => [d.val] ++ [idx.val]
  | .vst vs _ _ _ => [vs.val]
  | .vsts vs _ _ _ _ => [vs.val]
  | .vstx vs _ idx _ _ => [vs.val] ++ [idx.val]
  | .vstO vs _ _ _ => [vs.val]
  | .vstsO vs _ _ _ _ => [vs.val]
  | .vstxO vs _ idx _ _ => [vs.val] ++ [idx.val]
  | .vldt d a _ _ _ => [d.val] ++ [a.val]
  | .vstt vs a _ _ _ => [vs.val] ++ [a.val]
  | .vldsp d _ _ => [d.val]
  | .vldsh d _ _ => [d.val]
  | .vcompress d a _ _ => [d.val] ++ [a.val]
  | .vexpand d a _ _ => [d.val] ++ [a.val]
  | .vconf d a _ _ => [d.val] ++ [a.val]
  | .vrank d a b _ _ _ => [d.val] ++ [a.val] ++ [b.val]
  | .vselb d a b _ _ _ => [d.val] ++ [a.val] ++ [b.val]
  | .vpush d a b _ _ _ => [d.val] ++ [a.val] ++ [b.val]
  | .vpull d a b _ _ _ => [d.val] ++ [a.val] ++ [b.val]
  | .vsldn d a _ _ _ => [d.val] ++ [a.val]
  | .vslup d a _ _ _ => [d.val] ++ [a.val]
  | .vrnd d _ _ => [d.val]
  | .vrndf d _ _ => [d.val]
  | .vacc _ a _ _ => pairOf a
  | .pass d c _ _ _ _ _ => [d.val] ++ [c.val]
  | .passk d c k _ => [d.val] ++ [c.val] ++ [k.val]
  | .vmergek d c _ _ _ => [d.val] ++ [c.val]
  | .mrd d _ _ => [d.val]
  | .mwr _ vs _ => [vs.val]
  | .maget d c _ _ => [d.val] ++ [c.val]
  | .mopa _ a b _ _ _ => [a.val] ++ [b.val]
  | .mops _ a b vmeta _ _ _ _ => [a.val] ++ [b.val] ++ [vmeta.val]
  | .masv _ a c _ _ _ _ => [a.val] ++ [c.val]
  | .vwhileEq a b _ => [a.val] ++ b.vregs
  | .vwhileNe a b _ => [a.val] ++ b.vregs
  | .vwhileLt a b _ => [a.val] ++ b.vregs
  | .vwhileLe a b _ => [a.val] ++ b.vregs
  | .vwhileGt a b _ => [a.val] ++ b.vregs
  | .vwhileGe a b _ => [a.val] ++ b.vregs
  | .vwhileUn a b _ => [a.val] ++ b.vregs
  | .vwhileOr a b _ => [a.val] ++ b.vregs
  | .cpyb _ a => [a.val]
  | .vxfdRle d a _ _ => [d.val] ++ [a.val]
  | .vxfdDelta d a _ _ => [d.val] ++ [a.val]
  | .vxfdPlane d a _ _ => [d.val] ++ [a.val]
  | .vxfdSect d a _ _ => [d.val] ++ [a.val]
  | .vxfeRle d a _ _ => [d.val] ++ [a.val]
  | .vxfeDelta d a _ _ => [d.val] ++ [a.val]
  | .vxfePlane d a _ _ => [d.val] ++ [a.val]
  | .vxfeSect d a _ _ => [d.val] ++ [a.val]
  | _ => []

/-- The instruction depends on VTYPE (R30): it traps ILLCFG at issue while VTYPE.ILL = 1. -/
def Instr.usesVtype : Instr → Bool
  | .swr num _ => num == 2 || num == 3 || num == 5
  | .setvl _ _ => true
  | .setvlx _ _ _ => true
  | .setshape _ _ _ => true
  | .vadd _ _ _ _ _ _ => true
  | .vsub _ _ _ _ _ _ => true
  | .vmul _ _ _ _ _ _ => true
  | .vdiv _ _ _ _ _ _ => true
  | .vsqrt _ _ _ _ => true
  | .vmin _ _ _ _ _ _ => true
  | .vmax _ _ _ _ _ _ => true
  | .vabs _ _ _ _ => true
  | .vneg _ _ _ _ => true
  | .vand _ _ _ _ _ _ => true
  | .vor _ _ _ _ _ _ => true
  | .vxor _ _ _ _ _ _ => true
  | .vnot _ _ _ _ => true
  | .vsll _ _ _ _ _ _ => true
  | .vsrl _ _ _ _ _ _ => true
  | .vsra _ _ _ _ _ _ => true
  | .vmulh _ _ _ _ _ _ => true
  | .vrem _ _ _ _ _ _ => true
  | .vclz _ _ _ _ => true
  | .vcnt _ _ _ _ => true
  | .vrcpe _ _ _ _ => true
  | .vrsqe _ _ _ _ => true
  | .vmv _ _ _ _ => true
  | .vmerge _ _ _ _ _ => true
  | .vcvt _ _ _ _ _ => true
  | .vfma _ _ _ _ _ _ => true
  | .vfms _ _ _ _ _ _ => true
  | .vfnma _ _ _ _ _ _ => true
  | .vwadd _ _ _ _ _ _ => true
  | .vwsub _ _ _ _ _ _ => true
  | .vwmul _ _ _ _ _ _ => true
  | .vwfma _ _ _ _ _ _ => true
  | .vnarrow _ _ _ _ => true
  | .vilv _ _ _ _ _ _ => true
  | .vdilv _ _ _ _ => true
  | .vscale _ _ _ _ _ _ => true
  | .vquant _ _ _ _ _ => true
  | .vaddX _ _ _ _ _ => true
  | .vsubX _ _ _ _ _ => true
  | .vmulX _ _ _ _ _ => true
  | .vminX _ _ _ _ _ => true
  | .vmaxX _ _ _ _ _ => true
  | .vandX _ _ _ _ _ => true
  | .vorX _ _ _ _ _ => true
  | .vxorX _ _ _ _ _ => true
  | .vsllX _ _ _ _ _ => true
  | .vsrlX _ _ _ _ _ => true
  | .vsraX _ _ _ _ _ => true
  | .vfmaX _ _ _ _ _ => true
  | .vbcst _ _ _ => true
  | .vidx _ _ => true
  | .vcmpEq _ _ _ _ _ => true
  | .vcmpNe _ _ _ _ _ => true
  | .vcmpLt _ _ _ _ _ => true
  | .vcmpLe _ _ _ _ _ => true
  | .vcmpGt _ _ _ _ _ => true
  | .vcmpGe _ _ _ _ _ => true
  | .vcmpUn _ _ _ _ _ => true
  | .vcmpOr _ _ _ _ _ => true
  | .mand _ _ _ _ => true
  | .mor _ _ _ _ => true
  | .mxor _ _ _ _ => true
  | .mandn _ _ _ _ => true
  | .mnot _ _ _ => true
  | .mcnt _ _ _ => true
  | .mffs _ _ _ => true
  | .mtox _ _ _ _ => true
  | .mxtom _ _ _ _ => true
  | .mpref _ _ _ => true
  | .msbf _ _ _ => true
  | .vreds _ _ _ _ => true
  | .vdots _ _ _ _ _ _ => true
  | .vfold _ _ _ _ => true
  | .vredmax _ _ _ _ _ => true
  | .vredmin _ _ _ _ _ => true
  | .vredand _ _ _ _ _ => true
  | .vredor _ _ _ _ _ => true
  | .vld _ _ _ => true
  | .vlds _ _ _ _ => true
  | .vldx _ _ _ _ _ => true
  | .vldO _ _ _ => true
  | .vldsO _ _ _ _ => true
  | .vldxO _ _ _ _ _ => true
  | .vst _ _ _ _ => true
  | .vsts _ _ _ _ _ => true
  | .vstx _ _ _ _ _ => true
  | .vstO _ _ _ _ => true
  | .vstsO _ _ _ _ _ => true
  | .vstxO _ _ _ _ _ => true
  | .vldt _ _ _ _ _ => true
  | .vstt _ _ _ _ _ => true
  | .vldsp _ _ _ => true
  | .vldsh _ _ _ => true
  | .vpref _ => true
  | .vcompress _ _ _ _ => true
  | .vexpand _ _ _ _ => true
  | .vconf _ _ _ _ => true
  | .vrank _ _ _ _ _ _ => true
  | .vselb _ _ _ _ _ _ => true
  | .vpush _ _ _ _ _ _ => true
  | .vpull _ _ _ _ _ _ => true
  | .vsldn _ _ _ _ _ => true
  | .vslup _ _ _ _ _ => true
  | .vrnd _ _ _ => true
  | .vrndf _ _ _ => true
  | .vacc _ _ _ _ => true
  | .pass _ _ _ _ _ _ _ => true
  | .passk _ _ _ _ => true
  | .vmergek _ _ _ _ _ => true
  | .mrd _ _ _ => true
  | .mwr _ _ _ => true
  | .mopa _ _ _ _ _ _ => true
  | .mops _ _ _ _ _ _ _ _ => true
  | .masv _ _ _ _ _ _ _ => true
  | .mdrn _ _ _ => true
  | .lsplit => true
  | .vfetch _ _ => true
  | .vwhileEq _ _ _ => true
  | .vwhileNe _ _ _ => true
  | .vwhileLt _ _ _ => true
  | .vwhileLe _ _ _ => true
  | .vwhileGt _ _ _ => true
  | .vwhileGe _ _ _ => true
  | .vwhileUn _ _ _ => true
  | .vwhileOr _ _ _ => true
  | .cpyb _ _ => true
  | .vxfdRle _ _ _ _ => true
  | .vxfdDelta _ _ _ _ => true
  | .vxfdPlane _ _ _ _ => true
  | .vxfdSect _ _ _ _ => true
  | .vxfeRle _ _ _ _ => true
  | .vxfeDelta _ _ _ _ => true
  | .vxfePlane _ _ _ _ => true
  | .vxfeSect _ _ _ _ => true
  | _ => false

/-- A word that never stands after a PFX (R94): another PFX, SETVL, SETVLX or YIELD. -/
def Instr.refusesPrefix : Instr → Bool
  | .pfx _ _ _ _ | .setvl _ _ | .setvlx _ _ _ | .yield => true
  | _ => false

/-- VFETCH, the only instruction that may follow LSPLIT directly (R228). -/
def Instr.isVfetch : Instr → Bool
  | .vfetch _ _ => true
  | _ => false

/-- The successor can take the prefix (R94). -/
def Instr.takesPrefix (i : Instr) (mask : Nat) (inv : Bool) (copy : Option Nat) : Bool :=
  (mask == 0 && !inv || i.predicated) &&
  (match copy with | none => true | some v => i.vregs.contains v) &&
  !i.refusesPrefix

end Sys2Proof
end

