-- ==== Sys2Proof/Machine/Bits.lean ====
section
/-!
DEFINITION. Bit-field, sign and byte-order helpers (spec 00, R3, R8).
-/
namespace Sys2Proof.Machine

/-- sext(x, n) of R8: an n-bit field extended to 64 bits by its sign. -/
def sext (n x : Nat) : Word :=
  if bitAt x (n - 1) then BitVec.ofNat 64 (x % 2 ^ n + (2 ^ 64 - 2 ^ n)) else BitVec.ofNat 64 (x % 2 ^ n)

/-- s(x) of R114: an n-bit pattern read as a signed integer. -/
def toSigned (n x : Nat) : Int :=
  if x % 2 ^ n < 2 ^ (n - 1) then (x % 2 ^ n : Nat) else ((x % 2 ^ n : Nat) : Int) - (2 ^ n : Nat)

/-- The n-bit pattern of an integer modulo 2^n. -/
def ofInt (n : Nat) (v : Int) : Nat := (v % (2 ^ n : Nat)).toNat

/-- The value of a list of bytes, the first at the lowest address (R3). -/
def leValue : List Byte → Nat
  | [] => 0
  | b :: bs => b.toNat + 256 * leValue bs

/-- The n bytes of a value, lowest address first (R3). -/
def leBytes : Nat → Nat → List Byte
  | 0, _ => []
  | n + 1, v => BitVec.ofNat 8 v :: leBytes n (v / 256)

/-- The number of bits of `v` up to its highest one. -/
def bitLength (v : Nat) : Nat := if v == 0 then 0 else Nat.log2 v + 1

/-- The one bits of the low n bits of `v`. -/
def popCount : Nat → Nat → Nat
  | 0, _ => 0
  | n + 1, v => v % 2 + popCount n (v / 2)

/-- The trailing zero bits of `v` within n bits. -/
def trailingZeros : Nat → Nat → Nat
  | 0, _ => 0
  | n + 1, v => if v % 2 == 1 then 0 else 1 + trailingZeros n (v / 2)

/-- The leading zero bits of an n-bit pattern. -/
def leadingZeros (n v : Nat) : Nat := n - bitLength (v % 2 ^ n)

/-- Replace the n bits of `w` from bit `lo` by those of `v`. -/
def putBits (w lo n v : Nat) : Nat :=
  w - fld w lo n * 2 ^ lo + v % 2 ^ n * 2 ^ lo

/-- Replace the n bits of a 64-bit word from bit `lo` by those of `v`. -/
def putField (w : Word) (lo n v : Nat) : Word := BitVec.ofNat 64 (putBits w.toNat lo n v)

/-- Round down to a multiple of `m`. -/
def downTo (m v : Nat) : Nat := v / m * m

/-- Round up to a multiple of `m`. -/
def upTo (m v : Nat) : Nat := (v + m - 1) / m * m

/-- A Boolean as 0 or 1. -/
def bool01 (b : Bool) : Nat := if b then 1 else 0

/-- Apply `f` to the elements of a list in order, left to right. -/
def forEach {α β : Type} : List α → β → (β → α → β) → β
  | [], b, _ => b
  | a :: as, b, f => forEach as (f b a) f

/-- Insert into a list sorted by `before`, after every equal element. -/
def insertBy {α : Type} (before : α → α → Bool) (a : α) : List α → List α
  | [] => [a]
  | b :: bs => if before a b then a :: b :: bs else b :: insertBy before a bs

/-- Sort a list by `before`, equal elements in their old order. -/
def sortBy {α : Type} (before : α → α → Bool) : List α → List α
  | [] => []
  | a :: as => insertBy (fun x y => !before y x) a (sortBy before as)

/-- The elements of a list with their positions. -/
def withIndex {α : Type} (k : Nat) : List α → List (Nat × α)
  | [] => []
  | a :: as => (k, a) :: withIndex (k + 1) as

/-- The numbers from `lo` to `hi` − 1. -/
def fromTo (lo hi : Nat) : List Nat := (List.range (hi - lo)).map (lo + ·)

/-- Split a list into pieces of n elements. -/
def chunks {α : Type} (n : Nat) : Nat → List α → List (List α)
  | 0, _ => []
  | k + 1, as => as.take n :: chunks n k (as.drop n)

end Sys2Proof.Machine
end

