-- ==== Sys2Proof/Machine/Numeric.lean ====
section
/-!
DEFINITION. Number formats, exact values and rounding (spec 02, R45 to R67). Operands are turned into
exact values, the operation is computed exactly, and one function per class of format rounds the result.
-/
namespace Sys2Proof.Machine

/-! ### Flags (R42, R50) -/

/-- The five flags in the order of FPCSR[4:0]: NV 16, DZ 8, OF 4, UF 2, NX 1. -/
abbrev Flags := BitVec 5

/-- No flag. -/
def noFlags : Flags := 0
/-- Invalid. -/
def flagNV : Flags := 16
/-- Divide by zero. -/
def flagDZ : Flags := 8
/-- Overflow. -/
def flagOF : Flags := 4
/-- Underflow. -/
def flagUF : Flags := 2
/-- Inexact. -/
def flagNX : Flags := 1

/-- A flag under a condition. -/
def flagIf (b : Bool) (f : Flags) : Flags := if b then f else 0

/-! ### Exact values -/

/-- An exact value: NaN, infinity, a signed zero, or (−1)^neg × m × 2^e with m > 0. With `sticky`
the magnitude lies strictly between m × 2^e and (m + 1) × 2^e. -/
inductive Val where
  | nan (signalling : Bool)
  | inf (neg : Bool)
  | zero (neg : Bool)
  | fin (neg : Bool) (m : Nat) (e : Int) (sticky : Bool)
  deriving DecidableEq, Repr

/-- The value of an integer; zero is +0. -/
def Val.ofInt (v : Int) : Val :=
  if v == 0 then .zero false else .fin (decide (v < 0)) v.natAbs 0 false

/-- m × 2^e with a sign, m possibly 0. -/
def Val.make (neg : Bool) (m : Nat) (e : Int) : Val := if m == 0 then .zero neg else .fin neg m e false

/-- A NaN. -/
def Val.isNan : Val → Bool
  | .nan _ => true | _ => false
/-- A signalling NaN. -/
def Val.isSnan : Val → Bool
  | .nan s => s | _ => false
/-- The sign. -/
def Val.neg? : Val → Bool
  | .nan _ => false | .inf n => n | .zero n => n | .fin n _ _ _ => n

/-- Negation. -/
def Val.negate : Val → Val
  | .nan s => .nan s | .inf n => .inf !n | .zero n => .zero !n | .fin n m e s => .fin (!n) m e s
/-- Magnitude. -/
def Val.abs : Val → Val
  | .nan s => .nan s | .inf _ => .inf false | .zero _ => .zero false | .fin _ m e s => .fin false m e s

/-- 2^k × v. -/
def Val.scale (k : Int) : Val → Val
  | .fin n m e s => .fin n m (e + k) s
  | v => v

/-! ### Formats (R45, R48, R51) -/

/-- A floating format: its width, its precision with the hidden bit, the exponent of its least unit in
the last place, its largest finite magnitude as a code, whether it has infinities, its canonical NaN
(`none` where it has no NaN), and whether R54 governs it. -/
structure Fmt where
  width : Nat
  p : Nat
  qmin : Int
  maxCode : Nat
  hasInf : Bool
  nan : Option Nat
  narrow : Bool
  deriving DecidableEq, Repr

/-- binary64. -/
def fmtF64 : Fmt := ⟨64, 53, -1074, 0x7FEFFFFFFFFFFFFF, true, some 0x7FF8000000000000, false⟩
/-- binary32. -/
def fmtF32 : Fmt := ⟨32, 24, -149, 0x7F7FFFFF, true, some 0x7FC00000, false⟩
/-- binary16. -/
def fmtF16 : Fmt := ⟨16, 11, -24, 0x7BFF, true, some 0x7E00, false⟩
/-- bfloat16. -/
def fmtBF16 : Fmt := ⟨16, 8, -133, 0x7F7F, true, some 0x7FC0, false⟩
/-- OCP E4M3. -/
def fmtE4M3 : Fmt := ⟨8, 4, -9, 0x7E, false, some 0x7F, true⟩
/-- OCP E5M2. -/
def fmtE5M2 : Fmt := ⟨8, 3, -16, 0x7B, true, some 0x7E, true⟩
/-- OCP E2M3. -/
def fmtE2M3 : Fmt := ⟨6, 4, -3, 0x1F, false, none, true⟩
/-- OCP E3M2. -/
def fmtE3M2 : Fmt := ⟨6, 3, -4, 0x1F, false, none, true⟩
/-- OCP E2M1. -/
def fmtE2M1 : Fmt := ⟨4, 2, -1, 0x7, false, none, true⟩

/-- What a format code means (R45). -/
inductive Kind where
  | raw
  | int (signed : Bool) (width : Nat)
  | flt (f : Fmt)
  | e8m0
  | sliced (signed : Bool) (width : Nat)
  | reserved
  deriving DecidableEq, Repr

/-- The meaning of a format code (R45). -/
def kindOf : Nat → Kind
  | 0x00 => .raw
  | 0x01 => .int true 8 | 0x02 => .int true 16 | 0x03 => .int true 32 | 0x04 => .int true 64
  | 0x05 => .int false 8 | 0x06 => .int false 16 | 0x07 => .int false 32 | 0x08 => .int false 64
  | 0x09 => .flt fmtF16 | 0x0A => .flt fmtBF16 | 0x0B => .flt fmtF32 | 0x0C => .flt fmtF64
  | 0x0D => .flt fmtE4M3 | 0x0E => .flt fmtE5M2 | 0x0F => .flt fmtE2M3 | 0x10 => .flt fmtE3M2
  | 0x11 => .flt fmtE2M1 | 0x12 => .e8m0
  | c => if 0x20 ≤ c && c ≤ 0x2F then .sliced true (c - 0x1F)
         else if 0x30 ≤ c && c ≤ 0x3F then .sliced false (c - 0x2F) else .reserved

/-- The width of a kind's element; raw has the slot's width (R45). -/
def Kind.width (ew : Nat) : Kind → Nat
  | .raw => ew | .int _ w => w | .flt f => f.width | .e8m0 => 8 | .sliced _ w => w | .reserved => ew

/-- An I, N or sliced kind: exact integer values (R55, R56, R67). -/
def Kind.isInt : Kind → Bool
  | .int _ _ => true | .sliced _ _ => true | _ => false
/-- An I or N kind. -/
def Kind.isIN : Kind → Bool
  | .int _ _ => true | _ => false
/-- A sliced kind. -/
def Kind.isSliced : Kind → Bool
  | .sliced _ _ => true | _ => false
/-- F16, BF16, F32, F64 or narrow floating. -/
def Kind.isFlt : Kind → Bool
  | .flt _ => true | _ => false
/-- Narrow floating. -/
def Kind.isNarrow : Kind → Bool
  | .flt f => f.narrow | _ => false
/-- Integer values are signed. -/
def Kind.signed : Kind → Bool
  | .int s _ => s | .sliced s _ => s | _ => false

/-- F16, BF16, the narrow floating and the sliced kinds are block tags (R45). -/
def Kind.isBlock : Kind → Bool
  | .flt f => f.width ≤ 16 | .sliced _ _ => true | _ => false

/-- The value of a code in a floating format (R48, R51). -/
def Fmt.value (f : Fmt) (code : Nat) : Val :=
  let neg := bitAt code (f.width - 1)
  let mag := code % 2 ^ (f.width - 1)
  if f.maxCode < mag then
    if f.hasInf && mag == f.maxCode + 1 then .inf neg
    else .nan (f.hasInf && !bitAt mag (f.p - 2))
  else
    let ex := mag / 2 ^ (f.p - 1)
    let fr := mag % 2 ^ (f.p - 1)
    if ex == 0 then .make neg fr f.qmin
    else .make neg (fr + 2 ^ (f.p - 1)) (f.qmin + (ex - 1 : Nat))

/-- The value of an integer pattern (R55, R56). -/
def intValue (signed : Bool) (w bits : Nat) : Int :=
  if signed then toSigned w bits else (bits % 2 ^ w : Nat)

/-- The value of a slot's bits under a kind (R67); raw has none and reads as NaN. -/
def Kind.value (k : Kind) (bits : Nat) : Val :=
  match k with
  | .int s w => .ofInt (intValue s w bits)
  | .sliced s w => .ofInt (intValue s w bits)
  | .flt f => f.value (bits % 2 ^ f.width)
  | .e8m0 => if bits % 256 == 255 then .nan false else .fin false 1 ((bits % 256 : Nat) - 127 : Int) false
  | _ => .nan false

/-- The integer a kind's bits stand for. -/
def Kind.intVal (k : Kind) (bits : Nat) : Int :=
  match k with
  | .int s w => intValue s w bits
  | .sliced s w => intValue s w bits
  | _ => 0

/-! ### Rounding (R61 to R64) -/

/-- How a result is rounded: RM, SAT, and the draw of the element for RM = 5 (R64). -/
structure Rounding where
  rm : Nat
  sat : Bool
  draw : Nat
  deriving DecidableEq, Repr

/-- Whether the magnitude rounds up: `k` is the lower neighbour in units, and the rest is
r ÷ 2^sh of a unit, with something below when `sticky`. RM = 5 is stochastic here whatever the instruction, also into an
integer from floating operands outside the conversions, which R61 does not name. DEDUCED (log entry 56). -/
def roundsUp (rd : Rounding) (neg : Bool) (k r sh : Nat) (sticky : Bool) : Bool :=
  let inexact := r != 0 || sticky
  let half := 2 ^ sh
  match rd.rm with
  | 0 => decide (half < 2 * r) || (2 * r == half && (sticky || k % 2 == 1))
  | 1 => false
  | 2 => neg && inexact
  | 3 => !neg && inexact
  | 4 => decide (half ≤ 2 * r)
  | _ => inexact && decide (rd.draw < r * 2 ^ 32 / 2 ^ sh)

/-- Round m × 2^e to a multiple of 2^q: the multiple, and whether it is inexact. -/
def roundAt (rd : Rounding) (neg : Bool) (m : Nat) (e : Int) (sticky : Bool) (q : Int) : Nat × Bool :=
  if q ≤ e then
    let k := m * 2 ^ (e - q).toNat
    (if roundsUp rd neg k 0 1 sticky then k + 1 else k, sticky)
  else
    let sh := (q - e).toNat
    let k := m / 2 ^ sh
    let r := m % 2 ^ sh
    (if roundsUp rd neg k r sh sticky then k + 1 else k, r != 0 || sticky)

/-- floor(log2(m × 2^e)). -/
def exponentOf (m : Nat) (e : Int) : Int := (Nat.log2 m : Int) + e

/-- The overflow result in a format (R54, R61): ±∞, ±largest finite, or the NaN code of E4M3. -/
def overflowCode (rd : Rounding) (f : Fmt) (neg : Bool) : Nat :=
  let sign := bool01 neg * 2 ^ (f.width - 1)
  let toInf : Bool := match rd.rm with
    | 1 => false | 2 => neg | 3 => !neg | _ => true
  if f.narrow && rd.sat then sign + f.maxCode
  else if !toInf then sign + f.maxCode
  else if f.hasInf then sign + f.maxCode + 1
  else match f.nan with
    | some n => n
    | none => sign + f.maxCode

/-- Round an exact value into a floating format (R48 to R54, R61, R62, R64). DEDUCED (log entry 56): under RM = 5 the
element's own draw decides the tininess of R62 too. -/
def Fmt.round (f : Fmt) (rd : Rounding) (v : Val) : Nat × Flags :=
  let signBit := fun (neg : Bool) => bool01 neg * 2 ^ (f.width - 1)
  match v with
  | .nan s =>
    match f.nan with
    | some n => (n, flagIf s flagNV)
    | none => (0, flagNV)
  | .inf neg =>
    if f.hasInf then
      (if f.narrow && rd.sat then signBit neg + f.maxCode else signBit neg + f.maxCode + 1, 0)
    else
      (match f.nan with
        | some n => if rd.sat then signBit neg + f.maxCode else n
        | none => signBit neg + f.maxCode, flagNV)
  | .zero neg => (signBit neg, 0)
  | .fin neg m e sticky =>
    let top := exponentOf m e
    let emin := f.qmin + (f.p - 1 : Nat)
    let q := max top emin - (f.p - 1 : Nat)
    let (k, inexact) := roundAt rd neg m e sticky q
    let code := (q - f.qmin).toNat * 2 ^ (f.p - 1) + k
    let tooBig := decide (f.maxCode < code) ||
      -- a value above the largest finite one overflows whatever the draw (R64)
      (rd.rm == 5 && code == f.maxCode && inexact &&
        decide ((roundAt { rd with rm := 1 } neg m e sticky q).1 == k))
    if tooBig then (overflowCode rd f neg, flagOF ||| flagNX)
    else
      let tiny := decide (top < emin) &&
        !(decide (top = emin - 1) &&
          (roundAt rd neg m e sticky (top - (f.p - 1 : Nat))).1 == 2 ^ f.p)
      (signBit neg + code, flagIf inexact flagNX ||| flagIf (tiny && inexact) flagUF)

/-- Round an exact value to an integer pattern of w bits (R63). -/
def roundInt (signed : Bool) (w : Nat) (rd : Rounding) (v : Val) : Nat × Flags :=
  let lo : Int := if signed then -(2 ^ (w - 1) : Nat) else 0
  let hi : Int := if signed then (2 ^ (w - 1) : Nat) - 1 else (2 ^ w : Nat) - 1
  match v with
  | .nan _ => (0, flagNV)
  | .inf neg => (ofInt w (if neg then lo else hi), flagNV)
  | .zero _ => (0, 0)
  | .fin neg m e sticky =>
    let (k, inexact) := roundAt rd neg m e sticky 0
    let n : Int := if neg then -(k : Int) else k
    if n < lo then (ofInt w lo, flagNV)
    else if hi < n then (ofInt w hi, flagNV)
    else (ofInt w n, flagIf inexact flagNX)

/-- Round an exact value into E8M0 (R53). -/
def roundE8M0 (rd : Rounding) (v : Val) : Nat × Flags :=
  match v with
  | .fin false m e sticky =>
    let top := exponentOf m e
    let frac := m - 2 ^ Nat.log2 m      -- (v ÷ 2^top − 1) in units of 2^(e − top)
    let sh := Nat.log2 m
    let exact := frac == 0 && !sticky
    if top < -127 then (0, flagUF ||| flagNX)
    else
      -- the code of 2^top is top + 127
      let up := if exact then false else
        match rd.rm with
        | 0 => decide (2 ^ sh < 2 * frac) ||
               (2 * frac == 2 ^ sh && (sticky || (top + 127) % 2 == 1))
        | 1 => false
        | 2 => false
        | 3 => true
        | 4 => decide (2 ^ sh ≤ 2 * frac)
        | _ => decide (rd.draw < frac * 2 ^ 32 / 2 ^ sh)
      let c := top + 127 + (bool01 up : Int)
      -- a value above 2^127 overflows under RM = 5 whatever the draw (R64)
      if 254 < c || (rd.rm == 5 && c == 254 && !exact && !up) then (if rd.sat then 254 else 255, flagOF ||| flagNX)
      else (c.toNat, flagIf (!exact) flagNX)
  | _ => (255, flagNV)

/-- round(v, t) of R8 for the kind of a tag; a raw or reserved kind has no value to round to. -/
def Kind.round (k : Kind) (rd : Rounding) (v : Val) : Nat × Flags :=
  match k with
  | .flt f => f.round rd v
  | .int s w => roundInt s w rd v
  | .sliced s w => roundInt s w rd v
  | .e8m0 => roundE8M0 rd v
  | _ => (0, 0)

/-! ### Exact arithmetic (R50, R61, R67) -/

/-- Sum of two exact finite magnitudes with signs; an exact zero is +0, or −0 under RDN (R61). -/
def addFin (rm : Nat) (n1 : Bool) (m1 : Nat) (e1 : Int) (n2 : Bool) (m2 : Nat) (e2 : Int) : Val :=
  let e := min e1 e2
  let a : Int := (m1 * 2 ^ (e1 - e).toNat : Nat)
  let b : Int := (m2 * 2 ^ (e2 - e).toNat : Nat)
  let s := (if n1 then -a else a) + (if n2 then -b else b)
  if s == 0 then .zero (rm == 2) else .fin (decide (s < 0)) s.natAbs e false

/-- a + b exactly, with the flags of R50. -/
def Val.add (rm : Nat) (a b : Val) : Val × Flags :=
  match a, b with
  | .nan s, .nan t => (.nan false, flagIf (s || t) flagNV)
  | .nan s, _ => (.nan false, flagIf s flagNV)
  | _, .nan t => (.nan false, flagIf t flagNV)
  | .inf m, .inf n => if m == n then (.inf m, 0) else (.nan false, flagNV)
  | .inf m, _ => (.inf m, 0)
  | _, .inf n => (.inf n, 0)
  | .zero m, .zero n => (.zero (if m == n then m else rm == 2), 0)
  | .zero _, v => (v, 0)
  | v, .zero _ => (v, 0)
  | .fin n1 m1 e1 _, .fin n2 m2 e2 _ => (addFin rm n1 m1 e1 n2 m2 e2, 0)

/-- a − b exactly. -/
def Val.sub (rm : Nat) (a b : Val) : Val × Flags := a.add rm b.negate

/-- a × b exactly, with the flags of R50. DEDUCED (log entry 22): the zero of an integer operand counts as +0, so that
its product with a negative floating operand is −0. -/
def Val.mul (a b : Val) : Val × Flags :=
  match a, b with
  | .nan s, .nan t => (.nan false, flagIf (s || t) flagNV)
  | .nan s, _ => (.nan false, flagIf s flagNV)
  | _, .nan t => (.nan false, flagIf t flagNV)
  | .inf _, .zero _ => (.nan false, flagNV)
  | .zero _, .inf _ => (.nan false, flagNV)
  | .inf m, v => (.inf (m != v.neg?), 0)
  | v, .inf n => (.inf (v.neg? != n), 0)
  | .zero m, v => (.zero (m != v.neg?), 0)
  | v, .zero n => (.zero (v.neg? != n), 0)
  | .fin n1 m1 e1 _, .fin n2 m2 e2 _ => (.fin (n1 != n2) (m1 * m2) (e1 + e2) false, 0)

/-- a × b + c exactly (R50): an invalid product raises NV whatever c is. -/
def Val.fma (rm : Nat) (a b c : Val) : Val × Flags :=
  let (p, f) := a.mul b
  let (r, g) := p.add rm c
  (r, f ||| g)

/-- m1 × 2^e1 ÷ (m2 × 2^e2) to at least 130 bits, with what is left below as sticky. -/
def divFin (neg : Bool) (m1 : Nat) (e1 : Int) (m2 : Nat) (e2 : Int) : Val :=
  let s := 131 + bitLength m2 - bitLength m1
  let n := m1 * 2 ^ s
  .fin neg (n / m2) (e1 - e2 - (s : Nat)) (n % m2 != 0)

/-- a ÷ b, rounded nowhere, with the flags of R50. -/
def Val.div (a b : Val) : Val × Flags :=
  match a, b with
  | .nan s, .nan t => (.nan false, flagIf (s || t) flagNV)
  | .nan s, _ => (.nan false, flagIf s flagNV)
  | _, .nan t => (.nan false, flagIf t flagNV)
  | .inf _, .inf _ => (.nan false, flagNV)
  | .zero _, .zero _ => (.nan false, flagNV)
  | .inf m, v => (.inf (m != v.neg?), 0)
  | v, .inf n => (.zero (v.neg? != n), 0)
  | .zero m, v => (.zero (m != v.neg?), 0)
  | .fin m _ _ _, .zero n => (.inf (m != n), flagDZ)
  | .fin n1 m1 e1 _, .fin n2 m2 e2 _ => (divFin (n1 != n2) m1 e1 m2 e2, 0)

/-- The integer square root, bit by bit from 2^k downward: `r` is the root so far. -/
def isqrtBits (n : Nat) : Nat → Nat → Nat
  | 0, r => r
  | k + 1, r => let t := r + 2 ^ k; isqrtBits n k (if t * t ≤ n then t else r)

/-- floor(√n). -/
def isqrt (n : Nat) : Nat := isqrtBits n (bitLength n / 2 + 1) 0

/-- √(m × 2^e) to at least 130 bits. -/
def sqrtFin (m : Nat) (e : Int) : Val :=
  let s := 262 - bitLength m
  let s := if (e - (s : Nat)) % 2 == 0 then s else s + 1
  let n := m * 2 ^ s
  let r := isqrt n
  .fin false r ((e - (s : Nat)) / 2) (r * r != n)

/-- √a (R50): below −0 it is invalid. -/
def Val.sqrt (a : Val) : Val × Flags :=
  match a with
  | .nan s => (.nan false, flagIf s flagNV)
  | .inf false => (.inf false, 0)
  | .inf true => (.nan false, flagNV)
  | .zero n => (.zero n, 0)
  | .fin true _ _ _ => (.nan false, flagNV)
  | .fin false m e _ => (sqrtFin m e, 0)

/-- Order of two values that are no NaNs: −1, 0 or 1, the zeros equal. -/
def Val.cmp (a b : Val) : Int :=
  let key : Val → Int := fun v => match v with
    | .inf n => if n then -2 else 2
    | .fin n _ _ _ => if n then -1 else 1
    | _ => 0
  match a, b with
  | .fin n1 m1 e1 _, .fin n2 m2 e2 _ =>
    if n1 != n2 then (if n1 then -1 else 1)
    else
      let e := min e1 e2
      let x := m1 * 2 ^ (e1 - e).toNat
      let y := m2 * 2 ^ (e2 - e).toNat
      let c : Int := if x < y then -1 else if y < x then 1 else 0
      if n1 then -c else c
  | _, _ => if key a < key b then -1 else if key b < key a then 1 else 0

/-- Order with −0 below +0, for values that are no NaNs (R50, R197). -/
def Val.rank (a b : Val) : Int :=
  match a, b with
  | .zero m, .zero n => if m == n then 0 else if m then -1 else 1
  | _, _ => a.cmp b

/-- The IEEE minimum (R50). -/
def Val.minimum (a b : Val) : Val × Flags :=
  if a.isNan || b.isNan then (.nan false, flagIf (a.isSnan || b.isSnan) flagNV)
  else (if a.rank b ≤ 0 then a else b, 0)

/-- The IEEE maximum (R50). -/
def Val.maximum (a b : Val) : Val × Flags :=
  if a.isNan || b.isNan then (.nan false, flagIf (a.isSnan || b.isSnan) flagNV)
  else (if 0 ≤ a.rank b then a else b, 0)

/-- The exact sum of a list of values with no rounding, for the matrix steps (R75, R76): infinities of
opposite sign and NaNs give NaN. -/
def Val.sum (rm : Nat) : List Val → Val × Flags
  | [] => (.zero false, 0)
  | v :: vs => forEach vs (v, (0 : Flags)) (fun acc x => let (s, f) := acc.1.add rm x; (s, acc.2 ||| f))

/-! ### The generator (R65, R66) -/

/-- One round of the generator. -/
def rngRound (x k : Nat) : Nat :=
  let m := 2 ^ 64
  let x := x ^^^ k
  let x := ((x ^^^ (x / 2 ^ 31)) * 0x8A5CD789635D2DFF) % m
  ((x ^^^ (x / 2 ^ 27)) * 0xF1A37B295E0C4A67) % m

/-- Rotate a 64-bit key left by 17. -/
def rotl17 (k : Nat) : Nat := k * 2 ^ 17 % 2 ^ 64 + k / 2 ^ 47

/-- RNG(key, ctr) of R65. -/
def rng (key ctr : Nat) : Nat :=
  let key := key % 2 ^ 64
  let x1 := rngRound (ctr % 2 ^ 64) key
  let x2 := rngRound x1 (rotl17 key)
  let x3 := rngRound x2 (rotl17 (rotl17 key))
  let x4 := rngRound x3 (rotl17 (rotl17 (rotl17 key)))
  x4 ^^^ (x4 / 2 ^ 33)

end Sys2Proof.Machine
end

