-- ==== Sys2Proof/Config.lean ====
section
/-!
DEFINITION. What the spec leaves open, as free values: opaque constants with no body, so that nothing can
be proved of a value they take. Each is applied to the machine's step counter (`State.tick`), which makes
a fresh value at every step, and to a key that says what is read. The assumption log names each.
-/
namespace Sys2Proof.Config

/-- A byte of memory, lane table or local storage that the spec calls undefined (R7).
DESIGN CHOICE (log entry 7). -/
opaque undefByte : (tick key : Nat) → Byte
/-- A 64-bit lane word, mask word or matrix cell that the spec calls undefined (R7).
DESIGN CHOICE (log entry 7). -/
opaque undefWord : (tick key : Nat) → BitVec 64
/-- The tag of a vector register that the spec calls undefined (R16, R370). DESIGN CHOICE (log entry 7). -/
opaque undefTag : (tick key : Nat) → BitVec 6
/-- A result the spec gives an instruction without stating its value. -/
opaque unstated : (tick key : Nat) → BitVec 64
/-- Whether a lookup uses a cached entry that differs from the table in memory (R376).
DESIGN CHOICE (log entry 9). -/
opaque tlbHit : (tick key : Nat) → Bool
/-- Whether the byte of a higher-numbered element of an unordered vector store replaces the byte that a
lower-numbered element of the same store has written (R175). DESIGN CHOICE (log entry 10). -/
opaque storeWins : (tick elem addr : Nat) → Bool
/-- Core cycles that pass in a step (R43). DESIGN CHOICE (log entry 8). -/
opaque cycles : (tick core : Nat) → Nat
/-- Hall ticks that pass in a step (R351). DESIGN CHOICE (log entry 8). -/
opaque hallTicks : (tick : Nat) → Nat
/-- Which of two accepted orders an agent of the hall takes where the spec gives none.
DESIGN CHOICE (log entry 11). -/
opaque choice : (tick key : Nat) → Nat
/-- The identifier and the root hash in the device's identity key (IDPUB, R384). DESIGN CHOICE (log entry 12). -/
opaque idpub : (i : Nat) → Byte
/-- The identifier and the root hash of a bottom tree (R390). DESIGN CHOICE (log entry 12). -/
opaque treeKey : (tree i : Nat) → Byte
/-- The randomizer, chains and path of the two signatures over a report with leaf index `q` (R391).
DESIGN CHOICE (log entry 12). -/
opaque signature : (q : Nat) → (message : List Byte) → (i : Nat) → Byte

end Sys2Proof.Config
end

