-- ==== Sys2Proof/Machine/State.lean ====
section
/-!
DEFINITION. The state of the AQZ-3100 as plain data: every hart with its registers, the memory of the
domain, the hall with its queues and launches, the Cedor link, the security controller, the fabric and
the reliability block (INVENTORY.md lists each with the rule of spec/ that names it), and the machine
right after reset.
-/
namespace Sys2Proof.Machine

/-! ### Storage -/

/-- Storage keyed by a number: the cells listed differ from `fill`, in strictly rising order of key;
every other cell holds `fill`. `none` is an undefined value (R7). -/
structure Table (α : Type) where
  fill : Option α
  cells : List (Nat × Option α)
  deriving DecidableEq, Repr

/-- A table that holds `a` everywhere. -/
def Table.const {α : Type} (a : α) : Table α := ⟨some a, []⟩

/-- A table whose every cell is undefined. -/
def Table.undefined {α : Type} : Table α := ⟨none, []⟩

/-- Byte memory: (address, byte) pairs strictly rising by address, none of them 0, which is what an
unlisted address reads as; and the addresses whose byte is undefined (R242, R254), strictly rising and
none of them listed. -/
structure Memory where
  cells : List Host.Cell
  undef : List Nat
  deriving DecidableEq, Repr

/-- Memory with nothing listed. DESIGN CHOICE (log entry 2). -/
def Memory.empty : Memory := ⟨[], []⟩

/-- A vector register (R21, R25): its tag (`none` while undefined) and its 64-bit lane words. The word of
row r on the stall's lane l (32 lanes a cluster, counted from the stall's first cluster) has key 256r + l. -/
structure VecReg where
  tag : Option (BitVec 7)
  words : Table (BitVec 64)
  deriving DecidableEq, Repr

/-- A mask register (R34): word k holds bits 64k to 64k + 63. A bit set in `hidden` is undefined. -/
structure Mask where
  bits : Table (BitVec 64)
  hidden : Table (BitVec 64)
  deriving DecidableEq, Repr

/-! ### Matrix rows (R209, R210, R221, R222) -/

/-- The type of a hart's rows of a bin (R210). -/
inductive RowType where
  | f32 | i32 | f64 | assayF32 | assayI32
  deriving DecidableEq, Repr

/-- An assay list (R222): its pairs in rank order, and the refusal count. -/
structure AssayList where
  pairs : List (BitVec 32 × BitVec 32)
  refused : Nat
  deriving DecidableEq, Repr

/-- A hart's rows of one bin: cell (i, j) has key 128i + j; list i stands at position i. -/
structure BinRows where
  typ : RowType
  k : Nat
  cells : Table (BitVec 32)
  lists : List AssayList
  deriving DecidableEq, Repr

/-! ### Engine transfers (R238 to R242, R247) -/

/-- A collective's descriptor (R247), and the length of its contribution in bytes (log entry 1). -/
structure CollDesc where
  op : Nat
  typ : Nat
  cls : Nat
  k : Nat
  group : BitVec 128
  src : Nat
  dst : Nat
  count : Nat
  status : Nat
  srcLen : Nat
  deriving DecidableEq, Repr

/-- Replays, falls and lost flits of one port (R402). -/
structure PortCounts where
  replays : Word
  downs : Word
  lost : Word
  deriving DecidableEq, Repr

/-- What R399 and R400 ask of a collective in flight: HCNT at its start, the port counters then, a member that
was missing from DMEMB at its issue, the case of R400 that it has met first (REASON, PORT, ordinal) with the CODE it
ends with, and whether it spilled and so holds no merge engine. -/
structure CollStart where
  hcnt : Word
  ports : List PortCounts
  missing : Option Nat
  met : Option (Nat × Nat × Nat × Option Nat)
  spilled : Bool
  deriving DecidableEq, Repr

/-- An accepted engine transfer. -/
inductive Transfer where
  | copy (dst src len : Nat) (zero : Bool)
  | coll (desc : CollDesc) (start : CollStart)
  deriving DecidableEq, Repr

/-- A 64 KiB page that an access or a transfer has translated, for reading or for writing: the leaf it uses until it
ends (R378). -/
structure PinnedPage where
  page : Nat
  write : Bool
  entry : Nat
  level : Nat
  deriving DecidableEq, Repr

/-- A transfer under way: its place `seq` among the transfers the hart has started, in program order (R260);
`done` once its reads and writes are performed (R263); HCNT when it began to wait for the link, with the address it
waits at and whether it writes there (R339); the pages it has translated (R378). -/
structure Flight where
  transfer : Transfer
  seq : Nat
  done : Bool
  since : Option (Word × Nat × Bool)
  pages : List PinnedPage
  deriving DecidableEq, Repr

/-- An engine tag (R238): free, busy, or failed with a cause, a detail and an address (R242). -/
inductive TagState where
  | free
  | busy (f : Flight)
  | failed (cause detail : Nat) (addr : Word)
  deriving DecidableEq, Repr

/-! ### Lane-thread runs (R228 to R235) -/

/-- What a virtual processor is doing. -/
inductive VpState where
  | ready
  | waitBlock (addr : Word) (len : Nat)
  | waitFault
  /-- Its block fetch has faulted and the hall has the fault: it holds no block (R232, R235). -/
  | faultBlock (addr : Word) (len : Nat)
  | joined
  | trapped (cause detail : Nat) (addr : Word)
  deriving DecidableEq, Repr

/-- A virtual processor: its block's address and words, its word index, the lane-table bytes it has
written in this run, which R234 makes undefined when another writes them too; and HCNT when its access began to wait
for the link, with the page it has translated (R378), and whether that wait has lasted 100 ms (R339). -/
structure Vp where
  block : Word
  words : List (BitVec 32)
  idx : Nat
  state : VpState
  wrote : List Nat
  sentAt : Option Word
  sentPage : Option PinnedPage
  timedOut : Bool
  deriving DecidableEq, Repr

/-! ### Traps -/

/-- What the hall is told of a translation fault (R381): KIND, ENTRY, REASON, LEVEL, and whether it can
resolve the fault. -/
structure FaultInfo where
  kind : Nat
  entry : Word
  reason : Nat
  level : Nat
  resolvable : Bool
  deriving DecidableEq, Repr

/-- A trap: its cause, detail, TADDR and TELEM (R288); `idx` is the resume index of a window instruction
that trapped while it executed (R281), none for a trap at issue; `atSelf` says that TPC is at the
instruction although a PFX stands before it (R94); `toTvec` sends it to TVEC whatever its code (R242). -/
structure Trap where
  cause : Nat
  detail : Nat
  addr : Word
  elem : Nat
  idx : Option Nat
  info : FaultInfo
  atSelf : Bool
  toTvec : Bool
  deriving DecidableEq, Repr

/-- The chain window while a trap or a hard stop (none) of its oldest instruction, at resume index `idx`, waits for
the younger ones to come to rest (R284): the entries of those still unfinished, as distance and resume index in
program order, and the distance of the first word not yet issued. -/
structure Drain where
  trap : Option Trap
  idx : Nat
  entries : List (Nat × Nat)
  nxt : Nat
  deriving DecidableEq, Repr

/-- What a sparse tile load that is incomplete stands on (R183): its PC and resume index, and as memory holds them its
record, its count word, the bits of its bitmap and the packed value of each element from the resume index on; none
where there is nothing, or no page. `broken` says that some of it has changed since the load first issued. -/
structure ShapeSeen where
  pc : Word
  start : Nat
  record : Option Nat
  counts : Option Nat
  bits : List (Option Bool)
  values : List (Option Nat)
  broken : Bool
  deriving DecidableEq, Repr

/-- What the replay of a stop relies on (R287): the resume PC with WIN0.NXT; WIN0 to WIN3; the words of the span, none
where they cannot be read; the X registers, the tags, VTYPE, VROWS, VCOLS and SB. `broken` says that some of it has
changed. -/
structure SpanSeen where
  pc : Word
  nxt : Nat
  win : List Word
  words : List (Option Nat)
  x : Vector Word 32
  tags : List (Option (BitVec 7))
  vtype : Word
  vrows : Nat
  vcols : Nat
  sb : Word
  broken : Bool
  deriving DecidableEq, Repr

/-- A replay under way (R286): the resume PC, NXT, and the distance of the next word. -/
structure Replay where
  base : Word
  n : Nat
  d : Nat
  deriving DecidableEq, Repr

/-- What a hart is doing (R361 to R367). -/
inductive HartStatus where
  /-- It issues instructions. -/
  | running
  /-- HALT has issued; the hart ends once its memory work is done (R120). -/
  | halting
  /-- Stopped by a yield: record STATE 1. -/
  | yielded
  /-- Hard-stopped: record STATE 2 or 3. -/
  | stopped
  /-- Parked on a fault that the hall resolves: record STATE 4. -/
  | parked
  /-- In a SYSC, waiting for the hall's answer (R366). -/
  | inSysc
  /-- It has ended and released what it held. -/
  | ended
  deriving DecidableEq, Repr

/-- A vector entry of a context record (R368): positions 0 to L − 1 in index order, and the 32 slots of a
register that may be a partial (R68). `none` is an undefined value. -/
structure VecEntry where
  reg : Nat
  tag : Option (BitVec 7)
  positions : List (Option (BitVec 64))
  slots : List (Option (BitVec 64))
  deriving DecidableEq, Repr

/-- A context record (R367 to R369). `hart` fields that a restore writes back are kept as they stood. -/
structure CtxRecord where
  state : Nat
  width : Nat
  wp : Bool
  pfxWord : Option (BitVec 32)
  spc : Word
  rpc : Word
  vls : Nat
  x : Vector Word 32
  sys : List Word
  vectors : List VecEntry
  masks : List Mask
  slots : List Word
  tags : List (Nat × Nat)
  matrix : Option (Nat × Vector BinRows 4)
  /-- The scratchpad and the scalar data memory, when LOCAL = 1. -/
  image : Option (Memory × Memory)
  deriving DecidableEq, Repr

/-! ### Harts -/

/-- A hart (R10, R13): its place, its registers, and what the hall keeps for it. -/
structure Hart where
  /-- Position of its launch in the hall's list. -/
  launch : Nat
  status : HartStatus
  core : Nat
  /-- LGRP (R14): first cluster, log2 of the size, pending stall. -/
  base : Nat
  size : Nat
  pend : Option PendingStall
  /-- NBASE and NSIZE as the hall last wrote them, which they read while PEND = 0. -/
  offer : PendingStall
  /-- log2 of the size the hart started on (R356). -/
  startSize : Nat
  pc : Word
  x : Vector Word 32
  v : Vector VecReg 48
  m : Vector Mask 12
  op : Vector (Option Word) 16
  /-- The shape width C in clusters (R21). -/
  width : Nat
  /-- Byte o of lane l's slice has key 4096l + o (R38, R179). -/
  lanes : Table Byte
  scratch : Memory
  scratchSize : Nat
  sdata : Memory
  sdataSize : Nat
  /-- HSTAT (R41): WP, MA, LT; PP and CWO follow from `pfx` and `win`. -/
  wp : Bool
  ma : Bool
  lt : Bool
  /-- The pending PFX word (R95); `waits` says that its successor has issued and waits, so that PP reads 0. -/
  pfx : Option (BitVec 32)
  waits : Bool
  vtype : Word
  vrows : Nat
  vcols : Nat
  vstart : Nat
  sb : Word
  rkey : Word
  passst : Word
  pseq : Word
  fpcsr : Word
  athr : Word
  mgrant : Nat
  mvl : Nat
  xfri : Word
  livev : Word
  tvec : Word
  tpc : Word
  tcause : Word
  taddr : Word
  telem : Word
  spc : Word
  win : Vector Word 4
  /-- A trap or a stop has written WIN0 to WIN3, and no return has used them up: HSTAT.CWO counts them (R283). -/
  windowed : Bool
  hartid : Word
  gangid : Word
  gangn : Word
  yreq : Bool
  tags : Vector TagState 16
  /-- Transfers this hart has started (the model's own field, log entry 31). -/
  nextSeq : Nat
  /-- The pages that the transfer which is being performed has translated, empty between steps (the model's own
  field, log entry 31). -/
  held : List PinnedPage
  bins : Vector BinRows 4
  /-- The next instruction must be VFETCH (R228). -/
  split : Bool
  /-- The VFETCH that a return to its PC executes as a new run (R235). -/
  vfetchAt : Option Word
  /-- The virtual processors of a lane-thread run. -/
  run : Option (List Vp)
  replay : Option Replay
  /-- What the replays to come, by resume PC, and the one under way rely on (R287; the model's own fields, log entry
  62). -/
  spans : List SpanSeen
  span : Option SpanSeen
  /-- The span whose results are undefined, because a handler cleared WIN0.V beside a valid entry: its resume PC and its
  words (R287). -/
  loose : Option (Word × Nat)
  /-- Gang barriers this hart has passed, and whether it waits in one (R124). -/
  barriers : Nat
  arrived : Bool
  /-- HCNT when the yield window opened, and when the pending stall was written. -/
  yieldAt : Option Word
  pendAt : Option Word
  /-- Where a hard stop falls inside the next instruction (the model's own field, log entry 1). -/
  stopAt : Option Nat
  /-- How far the instructions behind the next one that stays unfinished have come (the model's own field, log
  entry 14): for each, in program order, the elements it may complete. -/
  ahead : List Nat
  /-- The instruction at the PC stays unfinished, and the window behind it is being looked at (log entry 14). -/
  drain : Option Drain
  /-- HCNT when the access of the instruction at the PC began to wait for the link, the page it had translated (R378),
  and whether that wait has lasted 100 ms, so that it fails (R339). -/
  sentAt : Option Word
  sentPage : Option PinnedPage
  timedOut : Bool
  /-- HCNT when the MATT at the PC asked for rows, while it is not answered (R355). -/
  mattAt : Option Word
  /-- What a sparse tile load that is incomplete had read (R183). -/
  shapeSeen : Option ShapeSeen
  /-- Which pattern an undefined tag reads as while an instruction runs, in base 64 by register; 0 between steps (the
  model's own field, log entry 7). -/
  tagDraw : Nat
  /-- The next access of this hart to another device gets no acknowledgement (R395). -/
  noAck : Bool
  /-- The fault the hart is parked on, as the hall knows it. -/
  fault : Option FaultInfo
  record : Option CtxRecord
  deriving DecidableEq, Repr

/-! ### The hall -/

/-- The hall's copy of a launch record (R340). -/
structure LaunchRec where
  hseq : Nat
  cls : Nat
  flags : Nat
  minw : Nat
  maxw : Nat
  gang : Nat
  mrows : Nat
  deadline : Nat
  scratch : Nat
  sdata : Nat
  entry : Nat
  arg : Word
  asid : Nat
  rsv0 : Nat
  cpl : Nat
  dq0 : Nat
  dq1 : Nat
  dvalid : Nat
  rsv1 : Nat
  dseq0 : Nat
  dseq1 : Nat
  deriving DecidableEq, Repr

/-- The failure a launch reports (R343): status, detail, and what LERR and LETPC hold. -/
structure Failure where
  status : Nat
  detail : Nat
  hartid : Nat
  tcause : Nat
  tpc : Word
  deriving DecidableEq, Repr

/-- Where a launch stands. -/
inductive LaunchPhase where
  /-- Accepted, not started (R347). -/
  | waiting
  /-- Its harts have started; they may be stopped. -/
  | started
  /-- Finished; its completion is due (R344). -/
  | completing
  /-- Its completion has been posted. -/
  | done
  deriving DecidableEq, Repr

/-- What a hart holds, or would hold, of a core and its quad (R353): clusters `base` to `base + count` − 1,
bytes of scratchpad and of scalar data memory, and matrix rows. -/
structure Claim where
  core : Nat
  base : Nat
  count : Nat
  scratch : Nat
  sdata : Nat
  rows : Nat
  deriving DecidableEq, Repr

/-- An accepted launch (R346). -/
structure Launch where
  queue : Nat
  req : LaunchRec
  /-- HCNT at acceptance (R357). -/
  accepted : Word
  phase : LaunchPhase
  /-- It has waited longer than AGE, and its target placement if there is one (R357, R358). -/
  aged : Bool
  target : Option (List Claim)
  failure : Option Failure
  /-- The STATUS of its completion, once it has one (R343). -/
  status : Nat
  /-- Rank among the launches started, for R359. -/
  startedAt : Nat
  deriving DecidableEq, Repr

/-- A queue's state block (R345). INFLIGHT and CPEND follow from the launches and the postings due. -/
structure Queue where
  accepted : Nat
  started : Nat
  completed : Nat
  qlist : Word
  done : Word
  en : Bool
  cfgerr : Bool
  resetting : Bool
  lerr : Word
  letpc : Word
  deriving DecidableEq, Repr

/-- What a due posting reports. -/
inductive PostKind where
  /-- The completion of launch `launch` of the hall's list. -/
  | completion (launch status detail : Nat)
  /-- A refusal that is not accepted: HSEQ and CLASS of the record (R341, DETAIL 1). -/
  | refusal (queue hseq cls detail : Nat)
  /-- An invalidation (R378). -/
  | invalidation (seq : Nat)
  deriving DecidableEq, Repr

/-- A posting that is due on a channel (R343). -/
structure Posting where
  channel : Nat
  kind : PostKind
  deriving DecidableEq, Repr

/-- Who met a fault that the hall resolves (R381). -/
inductive FaultSource where
  | hart | vp (p : Nat) | engine (tag : Nat) | prefault
  deriving DecidableEq, Repr

/-- A fault the hall is resolving (R381, R382). -/
structure HallFault where
  fid : Nat
  hart : Nat
  source : FaultSource
  cause : Nat
  va : Word
  info : FaultInfo
  /-- Its record has been posted. -/
  posted : Bool
  /-- Nobody waits for an answer to it any more; its record is still to be posted. -/
  closed : Bool
  deriving DecidableEq, Repr

/-- A pre-emption in progress (R359): the launch it serves, its victim harts with what each held when it
was chosen, what victims that have resumed elsewhere since held, and the placement the launch is to have.
DEDUCED (log entry 39). -/
structure Preemption where
  launch : Nat
  victims : List (Nat × Claim)
  freed : List Claim
  plan : List Claim
  deriving DecidableEq, Repr

/-- Who keeps using an entry that an invalidation has retired (R378): a transfer, by hart, tag and place; or the access
of a hart, or of a virtual processor of it, that has been sent to the link, by its page. -/
inductive Pin where
  | transfer (k t seq : Nat)
  | hart (k : Nat) (page : PinnedPage)
  | vp (k p : Nat) (page : PinnedPage)
  deriving DecidableEq, Repr

/-- The hall (19 to 21). -/
structure Hall where
  hcnt : Word
  dseql : Word
  ywin : Nat
  age : Nat
  cl0q : BitVec 32
  dlmiss : Word
  yields : Word
  hstops : Word
  atbase : Word
  atlim : Nat
  ivchan : Word
  ivaddr : Word
  ivseq : Nat
  /-- Queues that differ from `Queue.reset`, by number. -/
  queues : List (Nat × Queue)
  launches : List Launch
  starts : Nat
  due : List Posting
  faults : List HallFault
  nextFid : Nat
  /-- Invalidations whose record is not yet due, oldest first: IVSEQ, and the pins on their entries (R378). -/
  retiring : List (Nat × List Pin)
  preemptions : List Preemption
  deriving DecidableEq, Repr

/-- A translation entry that a TLB holds (R376): its quad, its ASID, its level, the virtual address bits
above the level's span, and the entry. -/
structure TlbEntry where
  quad : Nat
  asid : Nat
  level : Nat
  path : Nat
  entry : Nat
  deriving DecidableEq, Repr

/-! ### Link, security, fabric, reliability -/

/-- The Cedor link (R335, R338, R339). -/
structure Link where
  up : Bool
  retrained : Nat
  malacc : Nat
  /-- Classes held, for senders towards the device and towards the host (R338). -/
  holdIn : Vector Bool 3
  holdOut : Vector Bool 3
  /-- HCNT when the link last went down. -/
  downAt : Word
  /-- What the last read or atomic of a host, or of another device, returned (the model's own field, log
  entry 1). -/
  answer : List Byte
  deriving DecidableEq, Repr

/-- A report being signed (R391): the nonce and AOUT at the request, the leaf taken, and the CODE. -/
structure Report where
  nonce : List Byte
  addr : Word
  leaf : Nat
  code : Nat
  deriving DecidableEq, Repr

/-- The security controller (22). -/
structure Security where
  stage : Nat
  err : Nat
  recovered : Bool
  fwver : Nat
  fwdig : List Byte
  reclen : Nat
  anonce : Vector Word 4
  aout : Word
  report : Option Report
  code : Nat
  reports : Nat
  /-- The flash image. -/
  flash : List Byte
  /-- The flash record of the next unreserved leaf index; `none` when it is not intact (R390). -/
  leafRecord : Option Nat
  /-- The image being verified is the staged one, and not flash (R388). -/
  staged : Bool
  /-- Bottom trees opened: OTP bits 0 to `trees` − 1 are set (R390). -/
  trees : Nat
  /-- The next leaf index to use, and the end of the reserved range. -/
  nextLeaf : Nat
  reserved : Nat
  /-- The fused vendor key and minimum version (R386). -/
  key : List Byte
  minVersion : Nat
  deriving DecidableEq, Repr

/-- A fabric port (R402). -/
structure Port where
  up : Bool
  peer : Nat
  peerPort : Nat
  pcrc : Word
  preplay : Word
  pdown : Word
  plost : Word
  deriving DecidableEq, Repr

/-- The fabric block (R392). -/
structure Fabric where
  den : Bool
  dmis : Bool
  dord : Nat
  dmemb : BitVec 128
  cto : Nat
  mbuf : Nat
  unreach : Word
  ctout : Word
  sfault : Word
  mspill : Word
  routes : Table (BitVec 24)
  ports : Vector Port 24
  deriving DecidableEq, Repr

/-- A step of the power governor (R406), newest first in its history. -/
inductive GovStep where
  | clock (quad : Nat)
  | bandwidth
  deriving DecidableEq, Repr

/-- Telemetry and governor (24). -/
structure Reliability where
  cehbm : Word
  cecache : Word
  cecore : Word
  cefetch : Word
  uecnt : Word
  uelast : Word
  tempmax : Nat
  pwr : Nat
  plim : Nat
  /-- Clock codes of quads 0 to 31 (QCLK0, QCLK1). -/
  qclk : Vector Nat 32
  /-- HBM bandwidth withheld, in steps of 10 %. -/
  hbmLimit : Nat
  history : List GovStep
  throttled : Bool
  tripped : Bool
  /-- The scrub's next sector, counted in this device's memory, and HCNT when its pass began (R404). -/
  scrubNext : Nat
  scrubSince : Word
  deriving DecidableEq, Repr

/-- A soft error (R403): one that is corrected, by the counter that counts it, of HBM with the sector's address ÷ 32;
a parity error of a TLB entry; an
uncorrectable sector of HBM or dirty cache line, by its address ÷ 32; an uncorrectable error of the storage that
hart k's instruction, or a virtual processor of it, reads, with its local address, 0 for a register or a cell; and
one of the scratchpad that hart k's transfer of tag t reads.
DESIGN CHOICE (log entries 1, 49). -/
inductive SoftError where
  | hbm (n : Nat)
  | cache
  | core
  | fetch
  | tlbEntry (n : Nat)
  | sector (n : Nat)
  | read (k : Nat) (addr : Word)
  | moved (k t : Nat) (addr : Word)
  deriving DecidableEq, Repr

/-- One turn of the agenda (log entry 1): which hart moves next, with how far the instructions behind its next one
come if that stays unfinished (R284), or which virtual processor; an event; a soft error that falls there; an access
that the host or another device makes to memory that is not this device's (R257); a reading of the hottest die sensor
(R405); or the next stage of the boot (R387). -/
inductive Turn where
  | hart (k : Nat)
  | window (k : Nat) (ahead : List Nat)
  | vp (k p : Nat)
  | event (x : Input)
  | soft (e : SoftError)
  | outside (x : RemoteAccess)
  | sensor (temp : Nat)
  | boot
  deriving DecidableEq, Repr

/-- The machine. `cur`, `vp`, `agenda`, `tick` and `input` are the model's own fields (log entry 1): the hart
whose instruction runs, the virtual processor of it whose word runs, the turns that stand to come, the step
counter that makes free values fresh, and the operands of the event that runs. -/
structure State where
  harts : List Hart
  mem : Memory
  /-- Poisoned 32-byte sectors, by address ÷ 32, strictly rising (R403). -/
  poison : List Nat
  tlb : List TlbEntry
  /-- CYC of each core (R43). -/
  cyc : Vector Word 128
  hall : Hall
  link : Link
  sec : Security
  fab : Fabric
  rel : Reliability
  cur : Nat
  vp : Option Nat
  agenda : List Turn
  tick : Nat
  input : Input
  deriving DecidableEq, Repr

/-! ### Stops -/

/-- Why a step can stop with a fault. -/
inductive Fault where
  /-- Raised by an instruction when the machine has no running hart at `cur`, or no ready virtual processor
  where one is named: there is nothing the instruction could act on. Safe: no claim about a hart is made of
  such a state. -/
  | noHart
  deriving DecidableEq, Repr

/-- Why a step can be refused. -/
inductive Refusal where
  /-- Raised by an arm of `exec` whose instruction has no meaning yet. Safe. -/
  | notModelled (mnemonic : String)
  deriving DecidableEq, Repr

/-- The outcome of a step. -/
abbrev Result := Host.Outcome State Fault Refusal

/-! ### Reset values -/

/-- A vector register of zeros with the raw tag (R20). -/
def VecReg.reset : VecReg := ⟨some 0, .const 0⟩
/-- A mask of zeros (R20). -/
def Mask.reset : Mask := ⟨.const 0, .const 0⟩
/-- A bin of a detached hart (R212). -/
def BinRows.reset : BinRows := ⟨.f32, 0, .undefined, []⟩

/-- A hart before the hall gives it a place: every register as R20 and R39 state. -/
def Hart.reset : Hart where
  launch := 0
  status := .ended
  core := 0
  base := 0
  size := 0
  pend := none
  offer := ⟨0, 0⟩
  startSize := 0
  pc := 0
  x := Vector.replicate 32 0
  v := Vector.replicate 48 VecReg.reset
  m := Vector.replicate 12 Mask.reset
  op := Vector.replicate 16 none
  width := 1
  lanes := .const 0
  scratch := .empty
  scratchSize := 0
  sdata := .empty
  sdataSize := 0
  wp := false
  ma := false
  lt := false
  pfx := none
  waits := false
  vtype := 3
  vrows := 1
  vcols := 0
  vstart := 0
  sb := 0
  rkey := 0
  passst := 0
  pseq := 0
  fpcsr := 0
  athr := 0xFF800000
  mgrant := 0
  mvl := 128
  xfri := 0
  livev := 0
  tvec := 0
  tpc := 0
  tcause := 0
  taddr := 0
  telem := 0
  spc := 0
  win := Vector.replicate 4 0
  windowed := false
  hartid := 0
  gangid := 0
  gangn := 0
  yreq := false
  tags := Vector.replicate 16 .free
  nextSeq := 0
  held := []
  bins := Vector.replicate 4 BinRows.reset
  split := false
  vfetchAt := none
  run := none
  replay := none
  spans := []
  span := none
  loose := none
  barriers := 0
  arrived := false
  yieldAt := none
  pendAt := none
  stopAt := none
  ahead := []
  drain := none
  sentAt := none
  sentPage := none
  timedOut := false
  mattAt := none
  shapeSeen := none
  tagDraw := 0
  noAck := false
  fault := none
  record := none

/-- A queue after device reset (R345). -/
def Queue.reset : Queue where
  accepted := 0
  started := 0
  completed := 0
  qlist := 0
  done := 0
  en := false
  cfgerr := false
  resetting := false
  lerr := 0
  letpc := 0

/-- The hall after device reset (R335, R352, R373, R378, R381). -/
def Hall.reset : Hall where
  hcnt := 0
  dseql := 0
  ywin := 30000
  age := 1500000000
  cl0q := 0
  dlmiss := 0
  yields := 0
  hstops := 0
  atbase := 0
  atlim := 0
  ivchan := 0
  ivaddr := 0
  ivseq := 0
  queues := []
  launches := []
  starts := 0
  due := []
  faults := []
  nextFid := 1
  retiring := []
  preemptions := []

/-- The link after device reset (R335): down, nothing counted. -/
def Link.reset : Link where
  up := false
  retrained := 0
  malacc := 0
  holdIn := Vector.replicate 3 false
  holdOut := Vector.replicate 3 false
  downAt := 0
  answer := []

/-- The security controller after power-on reset (R384): the ROM runs; flash and OTP blank.
DESIGN CHOICE (log entry 5): `nextLeaf` is 0, so that AREM, which has no reset value, reads 2^35. -/
def Security.reset : Security where
  stage := 1
  err := 0
  recovered := false
  fwver := 0
  fwdig := List.replicate 32 0
  reclen := 0
  anonce := Vector.replicate 4 0
  aout := 0
  report := none
  code := 0
  reports := 0
  flash := []
  leafRecord := none
  staged := false
  trees := 0
  nextLeaf := 0
  reserved := 0
  key := []
  minVersion := 0

/-- A port before it trains (R402). -/
def Port.reset : Port where
  up := false
  peer := 0
  peerPort := 0
  pcrc := 0
  preplay := 0
  pdown := 0
  plost := 0

/-- The fabric block after reset (R392). -/
def Fabric.reset : Fabric where
  den := false
  dmis := false
  dord := 0
  dmemb := 0
  cto := 1500000
  mbuf := 0x1000000
  unreach := 0
  ctout := 0
  sfault := 0
  mspill := 0
  routes := .const 0
  ports := Vector.replicate 24 Port.reset

/-- Telemetry and governor after reset (R405): every quad at 3.0 GHz. -/
def Reliability.reset : Reliability where
  cehbm := 0
  cecache := 0
  cecore := 0
  cefetch := 0
  uecnt := 0
  uelast := 0
  tempmax := 0
  pwr := 0
  plim := 2800
  qclk := Vector.replicate 32 6
  hbmLimit := 0
  history := []
  throttled := false
  tripped := false
  scrubNext := 0
  scrubSince := 0

/-- The machine right after reset: no hart, memory with nothing listed, the boot ROM running.
DESIGN CHOICE (log entry 4). -/
def State.reset : State where
  harts := []
  mem := .empty
  poison := []
  tlb := []
  cyc := Vector.replicate 128 0
  hall := Hall.reset
  link := Link.reset
  sec := Security.reset
  fab := Fabric.reset
  rel := Reliability.reset
  cur := 0
  vp := none
  agenda := []
  tick := 0
  input := .idle

end Sys2Proof.Machine
end

