-- ==== Sys2Proof/Machine/Storage.lean ====
section
/-!
DEFINITION. Operations on tables and on byte memory. Both keep one canonical form: keys strictly rising
and no entry that equals what an unlisted key reads as.
-/
namespace Sys2Proof.Machine

/-! ### Tables -/

/-- The entry a list of cells holds for a key. -/
def cellAt {α : Type} (k : Nat) : List (Nat × α) → Option α
  | [] => none
  | (j, a) :: rest => if j == k then some a else if k < j then none else cellAt k rest

/-- Put an entry in its place among cells with rising keys. -/
def cellPut {α : Type} (k : Nat) (a : α) : List (Nat × α) → List (Nat × α)
  | [] => [(k, a)]
  | (j, b) :: rest =>
    if k < j then (k, a) :: (j, b) :: rest
    else if k == j then (k, a) :: rest
    else (j, b) :: cellPut k a rest

/-- Take a key's entry away. -/
def cellDrop {α : Type} (k : Nat) : List (Nat × α) → List (Nat × α)
  | [] => []
  | (j, b) :: rest =>
    if k < j then (j, b) :: rest
    else if k == j then rest
    else (j, b) :: cellDrop k rest

/-- What a table holds at a key; `none` is undefined. -/
def Table.get {α : Type} (t : Table α) (k : Nat) : Option α := (cellAt k t.cells).getD t.fill

/-- Write a cell. -/
def Table.put {α : Type} [DecidableEq α] (t : Table α) (k : Nat) (a : Option α) : Table α :=
  if a = t.fill then { t with cells := cellDrop k t.cells } else { t with cells := cellPut k a t.cells }

/-- Write a defined value. -/
def Table.set {α : Type} [DecidableEq α] (t : Table α) (k : Nat) (a : α) : Table α := t.put k (some a)

/-- Keys that rise strictly, each above `lo`. -/
def keysRise {α : Type} : Option Nat → List (Nat × α) → Bool
  | _, [] => true
  | lo, (k, _) :: rest => (match lo with | none => true | some l => decide (l < k)) && keysRise (some k) rest

/-- The canonical form of a table. -/
def Table.wf {α : Type} [DecidableEq α] (t : Table α) : Bool :=
  keysRise none t.cells && t.cells.all (fun c => !decide (c.2 = t.fill))

/-! ### Byte memory -/

/-- Addresses that rise strictly, each above `lo`. -/
def addrsRise : Option Nat → List Nat → Bool
  | _, [] => true
  | lo, a :: rest => (match lo with | none => true | some l => decide (l < a)) && addrsRise (some a) rest

/-- Put an address among rising addresses. -/
def addrPut (a : Nat) : List Nat → List Nat
  | [] => [a]
  | b :: rest => if a < b then a :: b :: rest else if a == b then b :: rest else b :: addrPut a rest

/-- Take an address away. -/
def addrDrop (a : Nat) : List Nat → List Nat
  | [] => []
  | b :: rest => if a < b then b :: rest else if a == b then rest else b :: addrDrop a rest

/-- What an address that nothing has written reads as (log entry 2). -/
def unlistedByte : Byte := 0

/-- The canonical form of a memory: listed addresses rise, none reads as an unlisted one would, undefined
addresses rise and none of them is listed. -/
def Memory.wf (m : Memory) : Bool :=
  keysRise none m.cells && m.cells.all (fun c => c.2 != unlistedByte) &&
  addrsRise none m.undef && m.undef.all (fun a => (cellAt a m.cells).isNone)

/-- Read one byte; an undefined byte is a free value of the step (R7). DESIGN CHOICE (log entries 2, 7). -/
def Memory.read (m : Memory) (tick a : Nat) : Byte :=
  match cellAt a m.cells with
  | some b => b
  | none => if m.undef.contains a then Config.undefByte tick a else unlistedByte

/-- Write one byte. -/
def Memory.write (m : Memory) (a : Nat) (b : Byte) : Memory :=
  { cells := if b == unlistedByte then cellDrop a m.cells else cellPut a b m.cells
    undef := addrDrop a m.undef }

/-- Make one byte undefined. DESIGN CHOICE (log entry 7). -/
def Memory.spoil (m : Memory) (a : Nat) : Memory :=
  { cells := cellDrop a m.cells, undef := addrPut a m.undef }

/-- Read n bytes from an address upward. -/
def Memory.readBytes (m : Memory) (tick a : Nat) : Nat → List Byte
  | 0 => []
  | n + 1 => m.read tick a :: m.readBytes tick (a + 1) n

/-- Write bytes from an address upward. -/
def Memory.writeBytes (m : Memory) (a : Nat) : List Byte → Memory
  | [] => m
  | b :: bs => (m.write a b).writeBytes (a + 1) bs

/-- Fill n bytes from an address with zeros. -/
def Memory.clear (m : Memory) (a n : Nat) : Memory :=
  { cells := m.cells.filter (fun c => decide (c.1 < a) || decide (a + n ≤ c.1))
    undef := m.undef.filter (fun b => decide (b < a) || decide (a + n ≤ b)) }

/-- The little-endian value of n bytes (R3). -/
def Memory.readLe (m : Memory) (tick a n : Nat) : Nat := leValue (m.readBytes tick a n)

/-- Write the n little-endian bytes of a value (R3). -/
def Memory.writeLe (m : Memory) (a n v : Nat) : Memory := m.writeBytes a (leBytes n v)

/-- Move the memory of one ordinal to another's place, and the other's to its. DEDUCED (log entry 45). -/
def swapOrdinal (a b x : Nat) : Nat :=
  if x / 2 ^ 39 == a then x % 2 ^ 39 + b * 2 ^ 39
  else if x / 2 ^ 39 == b then x % 2 ^ 39 + a * 2 ^ 39
  else x

/-- Memory with the places of two ordinals exchanged. -/
def Memory.swap (m : Memory) (a b : Nat) : Memory :=
  let cells := forEach m.cells Memory.empty (fun (n : Memory) (x, v) => n.write (swapOrdinal a b x) v)
  forEach m.undef cells (fun (n : Memory) x => n.spoil (swapOrdinal a b x))

/-- Sector numbers with the places of two ordinals exchanged. -/
def swapSectors (a b : Nat) (ps : List Nat) : List Nat :=
  forEach ps [] (fun (qs : List Nat) p => addrPut (swapOrdinal a b (32 * p) / 32) qs)

end Sys2Proof.Machine
end

