-- ==== Sys2Proof/Machine/Operands.lean ====
section
/-!
DEFINITION. Every operand form of a hart: X registers, the vector configuration, where the elements of a
vector register lie (R21, R23, R57, R58, R68), tags, element and mask access, the predicate (R34, R93).
-/
namespace Sys2Proof.Machine

/-! ### X registers (R19) -/

/-- Read an X register; X0 reads as zero. -/
def Hart.getX (h : Hart) (r : XReg) : Word := if r = 0 then 0 else h.x[r]

/-- Write an X register; a write to X0 is discarded. -/
def Hart.setX (h : Hart) (r : XReg) (w : Word) : Hart :=
  if r = 0 then h else { h with x := h.x.set r w }

/-- u(x) of R114. -/
def Hart.getU (h : Hart) (r : XReg) : Nat := (h.getX r).toNat

/-- Write a number modulo 2^64. -/
def Hart.setN (h : Hart) (r : XReg) (n : Nat) : Hart := h.setX r (BitVec.ofNat 64 n)

/-! ### The vector configuration (R21, R28) -/

/-- VTYPE.EW in bits. -/
def Hart.ew (h : Hart) : Nat :=
  match fld h.vtype.toNat 0 3 with
  | 0 => 8 | 1 => 16 | 2 => 32 | _ => 64
/-- VTYPE.BLK. -/
def Hart.blk (h : Hart) : Nat := fld h.vtype.toNat 3 2
/-- VTYPE.RM. -/
def Hart.rm (h : Hart) : Nat := fld h.vtype.toNat 5 3
/-- VTYPE.SAT. -/
def Hart.sat (h : Hart) : Bool := bitAt h.vtype.toNat 8
/-- VTYPE.ILL. -/
def Hart.vill (h : Hart) : Bool := bitAt h.vtype.toNat 63
/-- The block size B of R47; 1 stands where there are no blocks. -/
def Hart.blockSize (h : Hart) : Nat :=
  match h.blk with
  | 1 => 16 | 2 => 32 | _ => 1
/-- W for a width of elements and a number of clusters (R21). -/
def rowWidth (clusters ew : Nat) : Nat := clusters * 2048 / ew
/-- W of the hart. -/
def Hart.w (h : Hart) : Nat := rowWidth h.width h.ew
/-- VLMAX (R22). -/
def Hart.vlmax (h : Hart) : Nat := 16 * h.w
/-- VL = VROWS × VCOLS. -/
def Hart.vl (h : Hart) : Nat := h.vrows * h.vcols
/-- The lanes of the hart's stall, counted from its first cluster. -/
def Hart.laneCount (h : Hart) : Nat := 32 * h.width

/-! ### Places (R23, R57, R58, R68) -/

/-- A place in a register: the key of its lane word, and its lowest bit there. -/
structure Spot where
  key : Nat
  lo : Nat
  deriving DecidableEq, Repr

/-- Row r, column c at elements of `w` bits (R23). -/
def spotAt (w r c : Nat) : Spot :=
  let g := 2048 / w
  ⟨256 * r + 32 * (c / g) + c % g % 32, c % g / 32 * w⟩

/-- The lane of row position c at elements of `w` bits (R23). -/
def laneAt (w c : Nat) : Nat := let g := 2048 / w; 32 * (c / g) + c % g % 32

/-- Row and column of element e when rows hold `cols` columns. -/
def rowCol (cols e : Nat) : Nat × Nat := if cols == 0 then (0, e) else (e / cols, e % cols)

/-- Element e in the ordinary layout (R21, R23). -/
def Hart.ordSpot (h : Hart) (e : Nat) : Spot :=
  let (r, c) := rowCol h.vcols e
  spotAt h.ew r c

/-- The wide counterpart of column c of elements of `ew` bits (R57): which register of the pair, and its column
there. -/
def pairPlace (ew c : Nat) : Nat × Nat :=
  let g := 2048 / ew
  let cc := c % g
  let s := cc / 32
  (s % 2, c / g * (g / 2) + s / 2 * 32 + cc % 32)

/-- The column whose wide counterpart is column `col` of register k of a pair. -/
def pairColumn (ew k col : Nat) : Nat :=
  let g := 2048 / ew
  col / (g / 2) * g + 32 * (2 * (col % (g / 2) / 32) + k) + col % 32

/-- Wide element e of a pair (R57): which register of the pair, and where. -/
def Hart.pairSpot (h : Hart) (e : Nat) : Nat × Spot :=
  let (r, c) := rowCol h.vcols e
  let (k, q) := pairPlace h.ew c
  (k, spotAt (2 * h.ew) r q)

/-- Wide element e in the ordered placement of R160: which register, and where. -/
def Hart.orderedSpot (h : Hart) (e : Nat) : Nat × Spot :=
  let (r, c) := rowCol h.vcols e
  let half := h.w / 2
  (if c < half then 0 else 1, spotAt (2 * h.ew) r (c % half))

/-- Slot k of a partial register whose tag has `w` bits (R68). -/
def partialSpot (w k : Nat) : Spot := spotAt w 0 k

/-- Bit j of element e in the blocked layout on `lanes` lanes (R58). -/
def blockBit (lanes e j : Nat) : Spot :=
  let b := e / 32
  let pos := 512 * (b / lanes) + 32 * j + e % 32
  ⟨256 * (pos / 64) + b % lanes, pos % 64⟩

/-! ### Lane words -/

/-- The word at a key of a register; an undefined word is a free value of the step (R7). -/
def VecReg.word (v : VecReg) (tick r key : Nat) : Nat :=
  (match v.words.get key with
    | some w => w
    | none => Config.undefWord tick (4096 * r + key)).toNat

/-- The word at a key of register r. DESIGN CHOICE (log entry 7). -/
def Hart.word (h : Hart) (tick : Nat) (r : VReg) (key : Nat) : Nat := h.v[r].word tick r.val key

/-- n bits at a place. -/
def Hart.readSpot (h : Hart) (tick : Nat) (r : VReg) (s : Spot) (n : Nat) : Nat :=
  fld (h.word tick r s.key) s.lo n

/-- Write n bits at a place. -/
def Hart.writeSpot (h : Hart) (tick : Nat) (r : VReg) (s : Spot) (n bits : Nat) : Hart :=
  let w := BitVec.ofNat 64 (putBits (h.word tick r s.key) s.lo n bits)
  { h with v := h.v.set r { h.v[r] with words := h.v[r].words.set s.key w } }

/-! ### Tags (R25, R26) -/

/-- The 7-bit tag of a register; an undefined tag is a free value with ILL clear, which `tagDraw` turns to another
pattern (R7). DESIGN CHOICE (log entry 7). -/
def Hart.tag (h : Hart) (tick : Nat) (r : VReg) : Nat :=
  match h.v[r].tag with
  | some t => t.toNat
  | none => ((Config.undefTag tick r.val).toNat + h.tagDraw / 64 ^ r.val) % 64

/-- Write a tag. -/
def Hart.setTag (h : Hart) (r : VReg) (t : Nat) : Hart :=
  { h with v := h.v.set r { h.v[r] with tag := some (BitVec.ofNat 7 t) } }

/-- The tag has ILL = 1. -/
def tagIll (t : Nat) : Bool := bitAt t 6

/-- The kind a register's tag names (R45). -/
def Hart.kind (h : Hart) (tick : Nat) (r : VReg) : Kind :=
  let t := h.tag tick r
  if tagIll t then .reserved else kindOf (t % 64)

/-- The register after `r`; pairs start at an even register, so it exists. -/
def nextReg (r : VReg) : VReg := ⟨(r.val + 1) % 48, Nat.mod_lt _ (by decide)⟩

/-- The pair's register of index 0 or 1. -/
def pairReg (r : VReg) (k : Nat) : VReg := if k == 0 then r else nextReg r

/-- A kind is a scaled operand under the hart's BLK (R46, R47). -/
def Hart.scaled (h : Hart) (k : Kind) : Bool := h.blk != 0 && h.blk != 3 && k.isBlock

/-- A kind lies in the blocked layout (R46). -/
def Hart.blocked (h : Hart) (k : Kind) : Bool := h.blk == 2 && k.isBlock

/-- The width of a kind's elements. -/
def Hart.kw (h : Hart) (k : Kind) : Nat := k.width h.ew

/-! ### Elements -/

/-- The bits of blocked element e, planes 0 to n − 1 (R58). -/
def Hart.readPlanes (h : Hart) (tick : Nat) (r : VReg) (e : Nat) : Nat → Nat
  | 0 => 0
  | n + 1 => h.readPlanes tick r e n + 2 ^ n * h.readSpot tick r (blockBit h.laneCount e n) 1

/-- Write planes 0 to n − 1 of blocked element e. -/
def Hart.writePlanes (h : Hart) (tick : Nat) (r : VReg) (e bits : Nat) : Nat → Hart
  | 0 => h
  | n + 1 =>
    (h.writePlanes tick r e bits n).writeSpot tick r (blockBit h.laneCount e n) 1 (bits / 2 ^ n)

/-- The low bits of element e that its kind occupies (R25, R58). -/
def Hart.elem (h : Hart) (tick : Nat) (k : Kind) (r : VReg) (e : Nat) : Nat :=
  if h.blocked k then h.readPlanes tick r e (min 16 (h.kw k))
  else h.readSpot tick r (h.ordSpot e) h.ew % 2 ^ h.kw k

/-- Write element e: the slot's upper bits, or the planes above the width, become zero (R25, R58). -/
def Hart.setElem (h : Hart) (tick : Nat) (k : Kind) (r : VReg) (e bits : Nat) : Hart :=
  let v := bits % 2 ^ h.kw k
  if h.blocked k then h.writePlanes tick r e v 16
  else h.writeSpot tick r (h.ordSpot e) h.ew v

/-- Wide element e of the pair r, r + 1 (R57). -/
def Hart.wide (h : Hart) (tick : Nat) (r : VReg) (e : Nat) : Nat :=
  let (k, s) := h.pairSpot e
  h.readSpot tick (pairReg r k) s (2 * h.ew)

/-- Write wide element e. -/
def Hart.setWide (h : Hart) (tick : Nat) (r : VReg) (e bits : Nat) : Hart :=
  let (k, s) := h.pairSpot e
  h.writeSpot tick (pairReg r k) s (2 * h.ew) bits

/-- V47, the implicit scale source (R35). -/
def scaleReg : VReg := 47

/-- The scale code of block b (R35). -/
def Hart.scaleCode (h : Hart) (tick b : Nat) : Nat := h.elem tick .e8m0 scaleReg b

/-- The value of element e, its block's scale included where the operand is scaled (R47, R60).
DEDUCED (log entry 23). -/
def Hart.value (h : Hart) (tick : Nat) (k : Kind) (r : VReg) (e : Nat) : Val :=
  let v := k.value (h.elem tick k r e)
  if h.scaled k then
    let c := h.scaleCode tick (e / h.blockSize)
    if c == 255 then .nan false else v.scale ((c : Int) - 127)
  else v

/-! ### Masks (R34) -/

/-- Bit e of a mask; an undefined bit is a free value of the step. -/
def Mask.bit (m : Mask) (tick r e : Nat) : Bool :=
  if bitAt ((m.hidden.get (e / 64)).getD 0).toNat (e % 64)
  then bitAt (Config.undefWord tick (1000000 + 512 * r + e / 64)).toNat (e % 64)
  else bitAt ((m.bits.get (e / 64)).getD 0).toNat (e % 64)

/-- Write bit e of a mask. -/
def Mask.setBit (m : Mask) (e : Nat) (b : Bool) : Mask :=
  let k := e / 64
  { bits := m.bits.set k (putField ((m.bits.get k).getD 0) (e % 64) 1 (bool01 b))
    hidden := m.hidden.set k (putField ((m.hidden.get k).getD 0) (e % 64) 1 0) }

/-- Bit e of mask register r. DESIGN CHOICE (log entry 7). -/
def Hart.mask (h : Hart) (tick : Nat) (r : MReg) (e : Nat) : Bool := h.m[r].bit tick r.val e

/-- Write bit e of mask register r. -/
def Hart.setMask (h : Hart) (r : MReg) (e : Nat) (b : Bool) : Hart :=
  { h with m := h.m.set r (h.m[r].setBit e b) }

/-- The mask that an instruction's predicate reads: that of the pending prefix, or M0 (R93). -/
def Hart.predReg (h : Hart) : MReg :=
  match h.pfx with
  | none => 0
  | some w => ⟨fld w.toNat 22 4 % 12, Nat.mod_lt _ (by decide)⟩

/-- The predicate of the pending prefix, or M0 (R93). -/
def Hart.pred (h : Hart) (tick e : Nat) : Bool :=
  match h.pfx with
  | none => h.mask tick 0 e
  | some w =>
    let p := h.mask tick (⟨fld w.toNat 22 4 % 12, Nat.mod_lt _ (by decide)⟩ : MReg) e
    if bitAt w.toNat 21 then !p else p

/-- Element e is active for an instruction with the given m bit (R34). -/
def Hart.active (h : Hart) (tick : Nat) (m : Bool) (e : Nat) : Bool := !m || h.pred tick e

end Sys2Proof.Machine
end

