-- ==== Sys2Proof/Machine/Flags.lean ====
section
/-!
DEFINITION. The floating flags and trap enables of FPCSR (R42, R288).
-/
namespace Sys2Proof.Machine

/-- OR flags into FPCSR[4:0] (R42). -/
def Hart.orFlags (h : Hart) (f : Flags) : Hart := { h with fpcsr := h.fpcsr ||| f.setWidth 64 }

/-- The FPCSR bit of the first flag of NV, DZ, OF, UF, NX, in that order, that is both raised and enabled
(R288): the detail of FPX. -/
def Hart.enabledFlag (h : Hart) (f : Flags) : Option Nat :=
  let on := fun (k : Nat) => bitAt f.toNat k && bitAt h.fpcsr.toNat (9 - k)
  if on 4 then some 4 else if on 3 then some 3 else if on 2 then some 2
  else if on 1 then some 1 else if on 0 then some 0 else none

/-- FPCSR.RM (R42). -/
def Hart.scalarRm (h : Hart) : Nat := fld h.fpcsr.toNat 10 3

/-- The rounding of scalar floating instructions (R42); SAT governs vector conversions only. -/
def Hart.scalarRounding (h : Hart) : Rounding := ⟨h.scalarRm, false, 0⟩

/-- The rounding of element e of a vector instruction (R42, R64). -/
def Hart.vecRounding (h : Hart) (e : Nat) : Rounding :=
  ⟨h.rm, h.sat, if h.rm == 5 then rng h.rkey.toNat ((h.sb.toNat + e) % 2 ^ 64) / 2 ^ 32 else 0⟩

end Sys2Proof.Machine
end

