-- ==== Sys2Proof/Machine/Context.lean ====
section
/-!
DEFINITION. System registers as a hart reads them (R39 to R41), the carrying of a hart's state to another
shape width (R16, R18), and the context record: saving and restoring (R367 to R370).
-/
namespace Sys2Proof.Machine

/-! ### System registers -/

/-- Entry i of the window registers is valid (R282). -/
def winValid (w : Word) : Bool := bitAt w.toNat 63

/-- HSTAT.CWO (R283): after a stop or trap the number of valid window entries, until a return uses them up; else
nothing is unfinished where an instruction can read it. -/
def Hart.cwo (h : Hart) : Nat := if h.windowed then (h.win.toList.filter winValid).length else 0

/-- HSTAT (R41). -/
def Hart.hstat (h : Hart) : Nat :=
  bool01 (h.pfx.isSome && !h.waits) + 2 * bool01 h.lt + 4 * bool01 h.ma + 8 * bool01 h.wp + 16 * h.cwo

/-- LGRP (R14). An adoption and a withdrawal clear PEND alone, so that NBASE and NSIZE keep what the hall wrote
(R15, R16). -/
def Hart.lgrp (h : Hart) : Nat :=
  let p := h.pend.getD h.offer
  h.base % 8 + 8 * (h.size % 4) + 256 * p.base.toNat + 2048 * p.size.toNat + 32768 * bool01 h.pend.isSome

/-- A tag is busy or failed. -/
def TagState.occupied : TagState → Bool
  | .free => false | _ => true
/-- A tag is busy. -/
def TagState.isBusy : TagState → Bool
  | .busy _ => true | _ => false

/-- The number whose bit k is the k-th element. -/
def bitsValue : List Bool → Nat
  | [] => 0
  | b :: bs => bool01 b + 2 * bitsValue bs

/-- ENGST (R238). -/
def Hart.engst (h : Hart) : Nat := bitsValue (h.tags.toList.map TagState.occupied)

/-- The value of a system register (R39); CYC is the core's counter. -/
def Hart.sysRead (h : Hart) (cyc : Word) (n : Nat) : Word :=
  match n with
  | 0x00 => BitVec.ofNat 64 h.hstat
  | 0x01 => h.vtype
  | 0x02 => BitVec.ofNat 64 h.vrows
  | 0x03 => BitVec.ofNat 64 h.vcols
  | 0x04 => BitVec.ofNat 64 h.vl
  | 0x05 => BitVec.ofNat 64 h.vstart
  | 0x06 => h.sb
  | 0x07 => h.rkey
  | 0x08 => h.passst
  | 0x09 => h.pseq
  | 0x0A => h.fpcsr
  | 0x0B => h.athr
  | 0x0C => BitVec.ofNat 64 h.mgrant
  | 0x0D => BitVec.ofNat 64 h.mvl
  | 0x0E => h.xfri
  | 0x0F => h.livev
  | 0x10 => h.tvec
  | 0x11 => h.tpc
  | 0x12 => h.tcause
  | 0x13 => h.taddr
  | 0x14 => h.telem
  | 0x15 => h.spc
  | 0x16 => h.win[0]
  | 0x17 => h.win[1]
  | 0x18 => h.win[2]
  | 0x19 => h.win[3]
  | 0x1A => cyc
  | 0x1B => h.hartid
  | 0x1C => h.gangid
  | 0x1D => h.gangn
  | 0x1E => BitVec.ofNat 64 h.lgrp
  | 0x1F => BitVec.ofNat 64 (bool01 h.yreq)
  | 0x20 => BitVec.ofNat 64 h.engst
  | _ => 0

/-- Put a value into a system register that a restore writes back (R367): VL, SPC, CYC, HARTID, GANGID,
GANGN, LGRP, YREQ, ENGST, HSTAT and MGRANT are formed otherwise. -/
def Hart.sysPut (h : Hart) (n : Nat) (v : Word) : Hart :=
  match n with
  | 0x01 => { h with vtype := v }
  | 0x02 => { h with vrows := v.toNat }
  | 0x03 => { h with vcols := v.toNat }
  | 0x05 => { h with vstart := v.toNat }
  | 0x06 => { h with sb := v }
  | 0x07 => { h with rkey := v }
  | 0x08 => { h with passst := v }
  | 0x09 => { h with pseq := v }
  | 0x0A => { h with fpcsr := v }
  | 0x0B => { h with athr := v }
  | 0x0D => { h with mvl := v.toNat }
  | 0x0E => { h with xfri := v }
  | 0x0F => { h with livev := v }
  | 0x10 => { h with tvec := v }
  | 0x11 => { h with tpc := v }
  | 0x12 => { h with tcause := v }
  | 0x13 => { h with taddr := v }
  | 0x14 => { h with telem := v }
  | 0x16 => { h with win := h.win.set 0 v }
  | 0x17 => { h with win := h.win.set 1 v }
  | 0x18 => { h with win := h.win.set 2 v }
  | 0x19 => { h with win := h.win.set 3 v }
  | _ => h

/-! ### Carrying to another shape width (R16) -/

/-- The keys of the lane words of a stall of `c` clusters, rising. -/
def laneKeys (c : Nat) : List Nat :=
  (List.range 16).flatMap (fun r => (List.range (32 * c)).map (fun l => 256 * r + l))

/-- A table rebuilt for a stall of `c` clusters: key k takes what `src k` held, and is undefined where
there is no source. `whole` says that every key has a source. -/
def Table.remap (t : Table (BitVec 64)) (c : Nat) (whole : Bool) (src : Nat → Option Nat) :
    Table (BitVec 64) :=
  if whole then
    if t.cells.isEmpty then t
    else ⟨t.fill, (laneKeys c).filterMap (fun k =>
      match src k with
      | none => none
      | some j => let v := t.get j; if v = t.fill then none else some (k, v))⟩
  else ⟨none, (laneKeys c).filterMap (fun k =>
      match src k with
      | none => none
      | some j => match t.get j with
        | none => none
        | some v => some (k, some v))⟩

/-- Where the word at key k of a stall of `c'` clusters lay on `c` clusters, in the ordinary layout of rows of W
columns: positions 0 to P − 1 are kept (R16, R21). -/
def carrySource (c c' k : Nat) : Option Nat :=
  let g := k / 256 * c' + k % 256 / 32
  if g < 16 * min c c' then some (256 * (g / c) + 32 * (g % c) + k % 32) else none

/-- The same in the blocked layout (R58): eight words a block. -/
def carryBlock (c c' k : Nat) : Option Nat :=
  let b := k / 256 / 8 * (32 * c') + k % 256
  if b < 64 * min c c' then
    some (256 * (8 * (b / (32 * c)) + k / 256 % 8) + b % (32 * c)) else none

/-- Where the element or position at row r, column c of rows of `w'` columns lay in rows of `w` columns, `n`
positions being kept: an element below VL of a shape of several rows keeps its row and column where the shape's
columns fit, and every other position counts rows whole (R16, R21). DEDUCED (log entry 20). -/
def Hart.shapedSource (h : Hart) (w w' n r c : Nat) : Option (Nat × Nat) :=
  let cols' := min h.vcols w'
  let e := r * cols' + c
  if c < cols' && e < min h.vl n then some (rowCol (min h.vcols w) e)
  else
    let e := r * w' + c
    if e < n then some (rowCol w e) else none

/-- Registers named in LIVEV; all when it is zero (R16). -/
def Hart.isLive (h : Hart) (r : Nat) : Bool := h.livev == 0 || bitAt h.livev.toNat r

/-- Where the slot at row r, column q of a register of p bits lay: which register of its pair, row and column. A
slot twice as wide as EW is the wide counterpart of an element of its pair (R57), whose place decides. DEDUCED (log
entry 20). -/
def Hart.slotSource (h : Hart) (k p c c' r q : Nat) : Option (Nat × Nat × Nat) :=
  let at_ := fun (ew q : Nat) => h.shapedSource (rowWidth c ew) (rowWidth c' ew) (16 * rowWidth (min c c') ew) r q
  if p == 2 * h.ew then
    (at_ h.ew (pairColumn h.ew k q)).map (fun (r, q) => let (k, q) := pairPlace h.ew q; (k, r, q))
  else (at_ p q).map (fun (r, q) => (k, r, q))

/-- A register of a shape of several rows narrower than W, slot by slot at p bits, carried from `c` to `c'`
clusters (R16). A word with an undefined slot beside defined ones takes free bits there. -/
def Hart.carryShaped (h : Hart) (tick : Nat) (reg : VReg) (p c c' : Nat) : Table (BitVec 64) :=
  let r := reg.val
  let slot := fun (key j : Nat) =>
    let q := key % 256 / 32 * (2048 / p) + 32 * j + key % 32
    ((h.slotSource (r % 2) p c c' (key / 256) q).bind (fun (k, row, q) =>
      let s := spotAt p row q
      let i := r - r % 2 + k
      if i != r && !h.isLive i then none
      else ((h.v.toList[i]?).bind (fun v => v.words.get s.key)).map (fun w => fld w.toNat s.lo p)))
  ⟨none, (laneKeys c').filterMap (fun key =>
    let slots := (List.range (64 / p)).map (slot key)
    if slots.all Option.isNone then none
    else some (key, some (BitVec.ofNat 64 (forEach (withIndex 0 slots)
      (Config.undefWord tick (4096 * r + key)).toNat
      (fun w (j, b) => match b with | some x => putBits w (p * j) p x | none => w)))))⟩

/-- An undefined vector register, tag included. -/
def VecReg.undefined : VecReg := ⟨none, .undefined⟩

/-- A mask whose bits from p upward are undefined, p a multiple of 64. -/
def Mask.hideFrom (m : Mask) (p : Nat) : Mask :=
  { m with hidden := ⟨some (BitVec.allOnes 64),
      (List.range (p / 64)).filterMap (fun k =>
        let w := (m.hidden.get k).getD 0
        if w = BitVec.allOnes 64 then none else some (k, some w))⟩ }

/-- The shape has several rows narrower than W, as only SETSHAPE and SWR leave it (R33). -/
def Hart.shaped (h : Hart) : Bool := decide (1 < h.vrows) && decide (0 < h.vcols) && decide (h.vcols < h.w)

/-- Carry the vector registers, the masks and the lane tables from the shape width to `c'` clusters
(R16, steps 2 and 3; R18). The old width is the shape width, also where a pending change finds a restored hart
whose shape width is not its stall's size. DEDUCED (log entry 53). -/
def Hart.carry (h : Hart) (tick c' : Nat) : Hart :=
  let c := h.width
  let p := 16 * rowWidth (min c c') h.ew
  { h with
    width := c'
    v := Vector.ofFn (fun (r : Fin 48) =>
      let old := h.v[r]
      if h.isLive r.val then
        let k := h.kind tick r
        if h.blocked k then { old with words := old.words.remap c' (c' ≤ c) (carryBlock c c') }
        else if h.shaped then { old with words := h.carryShaped tick r (max h.ew (k.width h.ew)) c c' }
        else { old with words := old.words.remap c' (c' ≤ c) (carrySource c c') }
      else VecReg.undefined)
    m := Vector.ofFn (fun (r : Fin 12) => h.m[r].hideFrom p)
    lanes := .undefined }

/-! ### Saving (R367 to R369) -/

/-- The 64-bit word of a register at a key, or none while undefined, and n bits of it. -/
def VecReg.spot? (v : VecReg) (s : Spot) (n : Nat) : Option (BitVec 64) :=
  (v.words.get s.key).map (fun w => BitVec.ofNat 64 (fld w.toNat s.lo n))

/-- Bits of a blocked element's planes, or none where a plane's word is undefined. -/
def VecReg.planes? (v : VecReg) (lanes e : Nat) : Nat → Option (BitVec 64)
  | 0 => some 0
  | n + 1 =>
    match v.planes? lanes e n, v.spot? (blockBit lanes e n) 1 with
    | some a, some b => some (a + b <<< n)
    | _, _ => none

/-- The kind by which a register is saved (R368): its bits for a raw tag, for one with ILL = 1, and while the tag is
undefined. -/
def saveKind (tag : Option (BitVec 7)) : Kind :=
  match tag with
  | some t => if tagIll t.toNat then .raw else kindOf (t.toNat % 64)
  | none => .raw

/-- The kind of a saved register. -/
def VecEntry.kind (en : VecEntry) : Kind := saveKind en.tag

/-- Where position e of a register whose kind is no wider than EW lies (R368): element e below VL, and
position e of rows of W columns from VL on. DEDUCED (log entry 20). -/
def Hart.posSpot (h : Hart) (e : Nat) : Spot :=
  if e < h.vl then h.ordSpot e
  else let (r, c) := rowCol h.w e; spotAt h.ew r c

/-- Where position e of a register wider than EW lies, at its own width p (log entry 20). -/
def Hart.widePos (h : Hart) (p e : Nat) : Spot :=
  let wp := rowWidth h.width p
  let (r, c) := rowCol (if e < h.vl then min h.vcols wp else wp) e
  spotAt p r c

/-- The live length L of R368. -/
def Hart.liveLength (h : Hart) (p : Nat) : Nat := min (max h.vl 32) (16 * rowWidth h.width p)

/-- Where the positions of a register lie, and their width. -/
def Hart.positionSpot (h : Hart) (k : Kind) (e : Nat) : Spot × Nat :=
  if h.ew < h.kw k then (h.widePos (h.kw k) e, h.kw k) else (h.posSpot e, h.kw k)

/-- The tag may be a partial register's (R68). -/
def Kind.isPartial : Kind → Bool
  | .int _ w => w == 32 || w == 64
  | .flt f => f.width == 32 || f.width == 64
  | _ => false

/-- One entry of the vector section (R368). Where the shape has several rows of fewer than 32 columns, element e and slot
e of a partial lie apart, and the entry keeps both. DEDUCED (log entry 20). -/
def Hart.saveEntry (h : Hart) (r : VReg) : VecEntry :=
  let v := h.v[r]
  let k := saveKind v.tag
  let w := h.kw k
  { reg := r.val
    tag := v.tag
    positions := (List.range (h.liveLength (max w h.ew))).map (fun e =>
      if h.blocked k then v.planes? h.laneCount e (min 16 w)
      else let (s, n) := h.positionSpot k e; v.spot? s n)
    slots := if k.isPartial && decide (1 < h.vrows) && decide (h.vcols < 32) then (List.range 32).map (fun i => v.spot? (partialSpot w i) w) else [] }

/-- The stored form of an engine tag (R369). -/
def TagState.stored : TagState → Nat × Nat
  | .free => (0, 0)
  | .busy _ => (1, 0)
  | .failed c _ _ => (2, c)

/-- Save the context record of a stopped hart (R367): STATE, resume PC. -/
def Hart.save (h : Hart) (cyc : Word) (state : Nat) (rpc : Word) : CtxRecord where
  state := state
  width := h.width
  wp := h.wp
  pfxWord := h.pfx
  spc := h.spc
  rpc := rpc
  vls := h.vl
  x := h.x
  sys := (List.range 33).map (h.sysRead cyc)
  vectors := ((List.finRange 48).filter (fun r => h.isLive r.val)).map h.saveEntry
  masks := h.m.toList
  slots := h.op.toList.map (fun o => o.getD 0)
  tags := h.tags.toList.map TagState.stored
  matrix := if h.ma then some (h.mgrant, h.bins) else none
  image := if h.tags.toList.any TagState.isBusy then none else some (h.scratch, h.sdata)

/-! ### Restoring (R370) -/

/-- Put a saved position back in register r; an undefined one stays undefined. The rest of a lane word
that was undefined takes a free value. -/
def VecReg.putBack (v : VecReg) (tick r : Nat) (s : Spot) (n : Nat) : Option (BitVec 64) → VecReg
  | none => v
  | some b =>
    let w := putBits (v.word tick r s.key) s.lo n b.toNat
    { v with words := v.words.set s.key (BitVec.ofNat 64 w) }

/-- Put planes 0 to n − 1 of a blocked element back. -/
def VecReg.putPlanes (v : VecReg) (tick r lanes e : Nat) (b : BitVec 64) : Nat → VecReg
  | 0 => v
  | n + 1 => (v.putPlanes tick r lanes e b n).putBack tick r (blockBit lanes e n) 1 (some (b >>> n))

/-- Restore one vector entry: positions at or above the new stall's capacity are dropped (R370). The
slot's bits above the tag's width are written as zero. DEDUCED (log entry 20). -/
def Hart.restoreEntry (h : Hart) (tick clusters : Nat) (en : VecEntry) : VecReg :=
  let k := en.kind
  let w := h.kw k
  let cap := 16 * rowWidth clusters (max w h.ew)
  let v0 : VecReg := ⟨en.tag, .undefined⟩
  let v1 := forEach (withIndex 0 (en.positions.take cap)) v0 (fun v (e, b) =>
    if h.blocked k then
      match b with
      | none => v
      | some x => v.putPlanes tick en.reg h.laneCount e x 16
    else let (s, n) := h.positionSpot k e; v.putBack tick en.reg s (max n h.ew) b)
  forEach (withIndex 0 en.slots) v1 (fun v (i, b) => v.putBack tick en.reg (partialSpot w i) w b)

/-- A mask with bits 0 to n − 1 kept and every other bit undefined. -/
def Mask.keep (m : Mask) (n : Nat) : Mask :=
  { m with hidden := ⟨some (BitVec.allOnes 64),
      (List.range ((n + 63) / 64)).filterMap (fun k =>
        let low := n - 64 * k
        let w := if 64 ≤ low then (m.hidden.get k).getD 0
          else (m.hidden.get k).getD 0 ||| BitVec.ofNat 64 (2 ^ 64 - 2 ^ low)
        if w = BitVec.allOnes 64 then none else some (k, some w))⟩ }

/-- A return to the VFETCH of a lane-thread run that trapped, or of a split whose VFETCH never ran, is in
lane-thread mode again, directly after LSPLIT (R228, R235). -/
def Hart.resplit (h : Hart) (pc : Word) : Hart :=
  if h.vfetchAt == some pc then { h with lt := true, split := true, vfetchAt := none } else h

/-- The words of the span at a resume PC: as noted at the stop, else as WIN0 says. -/
def Hart.spanAt (h : Hart) (pc : Word) : Nat :=
  match h.spans.find? (fun s => s.pc == pc) with
  | some s => s.nxt
  | none => fld h.win[0].toNat 40 8

/-- What a resumption takes of what its stop noted; with WIN0.V cleared beside a valid entry the results of the span are
undefined (R287). DESIGN CHOICE (log entry 62). -/
def Hart.recall (h : Hart) (pc : Word) : Hart :=
  { h with
    spans := h.spans.filter (fun s => s.pc != pc)
    span := h.spans.find? (fun s => s.pc == pc)
    loose := if !winValid h.win[0] && (h.win.toList.drop 1).any winValid then some (pc, h.spanAt pc) else h.loose }

/-- Resume at a PC, as TRET and the hall's resume do (R122, R286): a replay starts when WIN0.V = 1. -/
def Hart.resumeAt (h₀ : Hart) (pc : Word) : Hart :=
  let h := (h₀.resplit pc).recall pc
  let n := fld h.win[0].toNat 40 8
  if !winValid h.win[0] then { h with pc := pc, replay := none, windowed := false }
  else if n == 0 then { h with pc := pc, replay := none, windowed := false, win := Vector.replicate 4 0 }
  else { h with pc := pc, replay := some ⟨pc, n, 0⟩, windowed := true }

/-- Write back what a context record holds, on a stall (R370). The hart's tags keep their live state. -/
def Hart.restore (h : Hart) (tick : Nat) (cr : CtxRecord) (st : Stall) : Hart :=
  let h1 := forEach (withIndex 0 cr.sys) h (fun a (n, v) => a.sysPut n v)
  let h2 : Hart := { h1 with
    status := .running
    core := st.core
    base := st.base
    size := st.size
    pend := none
    offer := ⟨0, 0⟩
    pendAt := none
    width := cr.width
    x := cr.x
    op := Vector.ofFn (fun (i : Fin 16) => match cr.slots[i.val]? with
      | some w => if w == 0 then none else some w
      | none => none)
    lanes := .undefined
    scratch := match cr.image with | some (a, _) => a | none => h.scratch
    sdata := match cr.image with | some (_, b) => b | none => h.sdata
    wp := cr.wp
    lt := false
    pfx := cr.pfxWord
    waits := false
    spc := cr.spc
    ma := cr.matrix.isSome
    mgrant := match cr.matrix with | some (g, _) => g | none => 0
    bins := match cr.matrix with
      | some (_, b) => b
      | none => Vector.replicate 4 BinRows.reset
    yreq := false
    yieldAt := none
    split := false
    run := none
    fault := none
    record := none
    pc := cr.rpc }
  let h3 : Hart := { h2 with
    m := Vector.ofFn (fun (i : Fin 12) => match cr.masks[i.val]? with
      | some m => m.keep cr.vls
      | none => Mask.reset.keep 0) }.resumeAt cr.rpc
  let entries := cr.vectors
  { h3 with v := Vector.ofFn (fun (r : Fin 48) =>
      match entries.find? (fun e => e.reg == r.val) with
      | some e => h3.restoreEntry tick (2 ^ st.size) e
      | none => VecReg.undefined) }

end Sys2Proof.Machine
end

