-- ==== Sys2Proof/Machine/Place.lean ====
section
/-!
DEFINITION. Placement (R353 to R356, R358, R371): what harts hold of cores and quads, the order in which the
hall takes launches (R357), the first fit and the widening of R354, and the target of an aged launch.
-/
namespace Sys2Proof.Machine

/-! ### Looking up -/

/-- The launch record of a hart's launch. -/
def State.launchOf (s : State) (h : Hart) : Option Launch := s.hall.launches[h.launch]?

/-- The ASID of a hart (R373); 0, which is never configured, when it has no launch. -/
def State.asidOf (s : State) (h : Hart) : Nat :=
  match s.launchOf h with
  | some L => L.req.asid
  | none => 0

/-- The class a hart's accesses travel in, its launch's (R337). -/
def State.classOf (s : State) (h : Hart) : Nat :=
  match s.launchOf h with
  | some L => L.req.cls
  | none => 0

/-- MROWS of a hart's launch. -/
def State.mrowsOf (s : State) (h : Hart) : Nat :=
  match s.launchOf h with
  | some L => L.req.mrows
  | none => 0

/-- The state block of queue q (R345). -/
def Hall.queue (a : Hall) (q : Nat) : Queue := (cellAt q a.queues).getD Queue.reset

/-- A hart holds its stall, rows and allocations on its core (R364). -/
def Hart.placed (h : Hart) : Bool := h.status == .running || h.status == .halting

/-- The hart has ended. -/
def Hart.over (h : Hart) : Bool := h.status == .ended

/-- Some tag of the hart is busy. -/
def Hart.busyTag (h : Hart) : Bool := h.tags.toList.any TagState.isBusy

/-- A stopped hart that waits for resumption (R365): parked harts and harts in a SYSC do not. -/
def Hart.resumable (h : Hart) : Bool := h.status == .yielded || h.status == .stopped

/-- Positions of the harts of launch l that `p` picks. -/
def State.gangWhere (s : State) (l : Nat) (p : Hart → Bool) : List Nat :=
  ((withIndex 0 s.harts).filter (fun (_, h) => h.launch == l && p h)).map (·.1)

/-- The sum of a list of numbers. -/
def total : List Nat → Nat
  | [] => 0
  | a :: as => a + total as

/-! ### What harts hold (R37, R353) -/

/-- A scratchpad request as the hall rounds it (R37). -/
def roundScratch (n : Nat) : Nat := upTo 0x8000 n
/-- A scalar data memory request as the hall rounds it (R37). -/
def roundSdata (n : Nat) : Nat := upTo 0x1000 n

/-- What hart h holds: its stall with its allocations and its rows while placed; while a tag is busy after a
stop or an end, its allocations alone (R364). DEDUCED (log entry 37). -/
def State.claim (s : State) (h : Hart) : Claim :=
  if h.placed then
    ⟨h.core, h.base, 2 ^ h.size, h.scratchSize, h.sdataSize, max (s.mrowsOf h) h.mgrant⟩
  else if h.busyTag then ⟨h.core, 0, 0, h.scratchSize, h.sdataSize, 0⟩
  else ⟨h.core, 0, 0, 0, 0, 0⟩

/-- The clusters of a pending stall: no one else is given them. -/
def Hart.pendClaim (h : Hart) : List Claim :=
  match h.pend with
  | some p => if h.placed then [⟨h.core, p.base.toNat, 2 ^ p.size.toNat, 0, 0, 0⟩] else []
  | none => []

/-- What the harts that `p` picks hold. -/
def State.claims (s : State) (p : Nat → Hart → Bool) : List Claim :=
  (withIndex 0 s.harts).flatMap (fun (k, h) => if p k h then s.claim h :: h.pendClaim else [])

/-- Two ranges of clusters of one core meet. -/
def Claim.meets (a b : Claim) : Bool :=
  a.core == b.core && a.count != 0 && b.count != 0 &&
  decide (a.base < b.base + b.count) && decide (b.base < a.base + a.count)

/-- A claim fits beside those of a list: its clusters are free; its core has 2 MiB of scratchpad and 512 KiB
of scalar data memory, its quad 128 matrix rows (R353). -/
def Claim.fits (g : List Claim) (c : Claim) : Bool :=
  let core := g.filter (fun d => d.core == c.core)
  g.all (fun d => !d.meets c) &&
  decide (total (core.map (·.scratch)) + c.scratch ≤ 0x200000) &&
  decide (total (core.map (·.sdata)) + c.sdata ≤ 0x80000) &&
  decide (total ((g.filter (fun d => d.core / 4 == c.core / 4)).map (·.rows)) + c.rows ≤ 128)

/-- Harts that are placed, with their positions. -/
def State.placedOthers (s : State) (k : Nat) : List Claim := s.claims (fun j h => j != k && h.placed)

/-- Rows of a quad's matrix unit that no hart but k holds or has reserved (R355). DEDUCED (log entry 52). -/
def State.quadRows (s : State) (k quad : Nat) : Nat :=
  128 - total (((s.placedOthers k).filter (fun c => c.core / 4 == quad)).map (·.rows))

/-- The grant for a request of n rows by hart k (R355): what its reservation and the free rows give, in
sixteens. DEDUCED (log entry 52). -/
def State.rowGrant (s : State) (k : Nat) (core n : Nat) : Nat := downTo 16 (min n (s.quadRows k (core / 4)))

/-- Hart o's request for rows goes before hart h's among those of one hall tick: by class, then by core (R355). -/
def State.outranks (s : State) (o h : Hart) : Bool :=
  decide (s.classOf o < s.classOf h) || (s.classOf o == s.classOf h && decide (o.core < h.core))

/-- The MATT of hart k waits: a hart of its quad that would be taken first may ask in the same hall tick, or has asked
before and is not answered (R355). DEDUCED (log entry 52). -/
def State.matrixWaits (s : State) (k : Nat) (h : Hart) : Bool :=
  let age := fun (o : Hart) => (s.hall.hcnt - o.mattAt.getD s.hall.hcnt).toNat
  (withIndex 0 s.harts).any (fun (j, o) => j != k && o.status == .running && o.core / 4 == h.core / 4 && !o.ma &&
    ((age h == 0 && s.outranks o h) ||
      (o.mattAt.isSome && (decide (age h < age o) || (age h == age o && s.outranks o h)))))

/-! ### The order of launches (R357) -/

/-- The effective deadline (R357); none with DEADLINE = 0. -/
def Launch.due (L : Launch) : Option Nat :=
  if L.req.deadline == 0 then none else some (L.accepted.toNat + L.req.deadline)

/-- The class by which a launch is ordered: an aged launch of class 2 goes with class 1. -/
def Launch.rankClass (L : Launch) : Nat := if L.aged then min L.req.cls 1 else L.req.cls

/-- What a launch is ordered by within its class; class 0 without a deadline sorts last. -/
def Launch.rankTime (L : Launch) : Nat :=
  if L.req.cls == 0 then L.due.getD (2 ^ 128) else L.accepted.toNat

/-- Lists of numbers in dictionary order. -/
def lexLt : List Nat → List Nat → Bool
  | a :: as, b :: bs => decide (a < b) || (a == b && lexLt as bs)
  | [], _ :: _ => true
  | _, [] => false

/-- The hall takes launch a before launch b. -/
def Launch.before (a b : Launch) : Bool :=
  lexLt [a.rankClass, a.rankTime, a.queue, a.req.hseq] [b.rankClass, b.rankTime, b.queue, b.req.hseq]

/-- Each present dependence of a launch is met (R340, R347). -/
def State.depsMet (s : State) (L : Launch) : Bool :=
  (!bitAt L.req.dvalid 0 || decide (L.req.dseq0 ≤ (s.hall.queue L.req.dq0).completed)) &&
  (!bitAt L.req.dvalid 1 || decide (L.req.dseq1 ≤ (s.hall.queue L.req.dq1).completed))

/-- A launch that waits for placement (R353). -/
def State.eligible (s : State) (L : Launch) : Bool := L.phase == .waiting && s.depsMet L

/-- A gang that a pre-emption is stopping is not resumed meanwhile (R359). -/
def State.beingStopped (s : State) (l : Nat) : Bool :=
  s.hall.preemptions.any (fun p => p.victims.any (fun (k, _) =>
    match s.harts[k]? with
    | some h => h.launch == l && h.placed
    | none => false))

/-- Launch l has stopped harts that wait for resumption (R365). -/
def State.stoppedGang (s : State) (l : Nat) : Bool :=
  !(s.gangWhere l Hart.resumable).isEmpty && !s.beingStopped l

/-- Launch l waits for placement or resumption. -/
def State.waits (s : State) (l : Nat) : Bool :=
  match s.hall.launches[l]? with
  | some L => s.eligible L || (L.phase == .started && s.stoppedGang l)
  | none => false

/-- Some class 0 launch waits for placement or resumption (R354). -/
def State.zeroWaits (s : State) : Bool :=
  (withIndex 0 s.hall.launches).any (fun (l, L) => L.req.cls == 0 && s.waits l)

/-! ### Resources that a launch may use (R358, R359) -/

/-- Of two waiting launches with targets in one class, the one that R357 takes first bars the other (R358).
DEDUCED (log entry 40). -/
def State.yieldsTo (s : State) (l : Nat) (A : Launch) : Bool :=
  match s.hall.launches[l]? with
  | some L => L.phase != .waiting || L.target.isNone || decide (A.req.cls < L.req.cls) || Launch.before A L
  | none => true

/-- Waiting aged launches with a target, other than l, whose class is `cls` or higher in urgency, and which l does not go
before. -/
def State.targetsAgainst (s : State) (l cls : Nat) : List (Nat × List Claim) :=
  (withIndex 0 s.hall.launches).filterMap (fun (a, A) =>
    match A.target with
    | some t =>
      if a != l && A.phase == .waiting && decide (A.req.cls ≤ cls) && s.yieldsTo l A then some (A.req.cls, t) else none
    | none => none)

/-- Claims that lie outside what is set aside, taken in turn while they fit beside it and one another. -/
def fitBeside (aside : List Claim) (cs : List Claim) : List Claim :=
  forEach cs aside (fun g c => if c.fits g then c :: g else g)

/-- A target of class c, with what harts above the class hold, and what the others hold outside it, the launches
started last first (R358). DEDUCED (log entry 40). -/
def State.besideTarget (s : State) (c : Nat) (t : List Claim) (gone : Nat → Hart → Bool) : List Claim :=
  let above := s.claims (fun k h => !gone k h && decide (s.classOf h < c))
  let rank := fun (h : Hart) => ((s.launchOf h).map (·.startedAt)).getD 0
  let others := sortBy (fun a b => decide (rank b < rank a))
    (((withIndex 0 s.harts).filter (fun (k, h) => !gone k h && decide (c ≤ s.classOf h))).map (·.2))
  fitBeside (t ++ above) (others.flatMap (fun h => s.claim h :: h.pendClaim))

/-- The sets of claims that launch l's placement must fit beside, with the harts that `gone` picks taken as
stopped: what is held, with what other pre-emptions have freed; the plan of each other pre-emption with
what its victims do not hold; and each target that bars l, with what is held outside it. -/
def State.barriersFor (s : State) (l cls : Nat) (gone : Nat → Hart → Bool) : List (List Claim) :=
  let others := s.hall.preemptions.filter (fun p => p.launch != l)
  let freed := others.flatMap (fun p => p.freed ++ p.victims.filterMap (fun (k, c) =>
    match s.harts[k]? with
    | some h => if h.placed then none else some c
    | none => none))
  let held := s.claims (fun k h => !gone k h)
  (freed ++ held) ::
  (others.map (fun p => p.plan ++ s.claims (fun k h =>
    !gone k h && !p.victims.any (fun (j, _) => j == k))) ++
  (s.targetsAgainst l cls).map (fun (c, t) => s.besideTarget c t gone))

/-- Quads that a launch of class `cls` may use: below class 0, no quad of CL0Q while a class 0 launch waits
(R354). -/
def State.quadOpen (s : State) (cls quad : Nat) : Bool :=
  cls == 0 || !bitAt s.hall.cl0q.toNat quad || !s.zeroWaits

/-! ### The first fit (R354) -/

/-- A claim fits beside every set. -/
def Claim.fitsAll (gs : List (List Claim)) (c : Claim) : Bool := gs.all (fun g => c.fits g)

/-- Claims fit beside every set, together (R353). -/
def fitTogether : (plan : List Claim) → List (List Claim) → Bool
  | [], _ => true
  | c :: rest, gs => c.fitsAll gs && fitTogether rest (gs.map (c :: ·))

/-- The lowest free aligned stall of 2^size clusters: by core, then by BASE. -/
def firstStall (gs : List (List Claim)) (quads : Nat → Bool) (size : Nat) (need : Claim) : Option Claim :=
  (List.range 128).findSome? (fun core =>
    if !quads (core / 4) then none
    else (List.range (8 / 2 ^ size)).findSome? (fun i =>
      let c : Claim := { need with core := core, base := i * 2 ^ size, count := 2 ^ size }
      if c.fitsAll gs then some c else none))

/-- The first fit of n harts, each at one width. -/
def firstFit (quads : Nat → Bool) (size : Nat) (need : Claim) : (n : Nat) → List (List Claim) →
    Option (List Claim)
  | 0, _ => some []
  | n + 1, gs =>
    match firstStall gs quads size need with
    | none => none
    | some c => (firstFit quads size need n (gs.map (c :: ·))).map (c :: ·)

/-- The widest free aligned stall up to 2^size clusters that contains a claim's. -/
def widest (gs : List (List Claim)) (c : Claim) : (size : Nat) → Claim
  | 0 => c
  | k + 1 =>
    let w := 2 ^ (k + 1)
    let c' : Claim := { c with base := downTo w c.base, count := w }
    if c.count < w && c'.fitsAll gs then c' else widest gs c k

/-- Widen each hart in turn. -/
def widenAll (gs : List (List Claim)) (size : Nat) : (done todo : List Claim) → List Claim
  | done, [] => done
  | done, c :: rest =>
    let c' := widest (gs.map (fun g => done ++ rest ++ g)) c size
    widenAll gs size (done ++ [c']) rest

/-- log2 of a number of clusters. -/
def sizeOf (clusters : Nat) : Nat := Nat.log2 clusters

/-- Sizes from MAXW down to MINW. -/
def LaunchRec.sizes (r : LaunchRec) : List Nat :=
  [3, 2, 1, 0].filter (fun k => decide (r.minw ≤ 2 ^ k) && decide (2 ^ k ≤ r.maxw))

/-- What each hart of a launch needs. -/
def LaunchRec.need (r : LaunchRec) : Claim := ⟨0, 0, 0, roundScratch r.scratch, roundSdata r.sdata, r.mrows⟩

/-- Step 2 of R354 on the quads that `quads` allows. -/
def LaunchRec.placeOn (r : LaunchRec) (gs : List (List Claim)) (quads : Nat → Bool) : Option (List Claim) :=
  (r.sizes.findSome? (fun k => firstFit quads k r.need r.gang gs)).map (widenAll gs (sizeOf r.maxw) [])

/-- R354: class 0 on the quads of CL0Q first, then anywhere; the others where they may. -/
def State.placeAmong (s : State) (r : LaunchRec) (gs : List (List Claim)) : Option (List Claim) :=
  if r.cls == 0 then
    (r.placeOn gs (fun q => bitAt s.hall.cl0q.toNat q)).or (r.placeOn gs (fun _ => true))
  else r.placeOn gs (s.quadOpen r.cls)

/-- The placement that R354 gives launch l with the harts that `gone` picks stopped.
DEDUCED (log entry 40). -/
def State.placement (s : State) (l : Nat) (gone : Nat → Hart → Bool) : Option (List Claim) :=
  match s.hall.launches[l]? with
  | some L => s.placeAmong L.req (s.barriersFor l L.req.cls gone)
  | none => none

/-- The placement that launch l starts on now: its target once that is free, else what R354 gives (R358).
DEDUCED (log entry 40). -/
def State.startPlace (s : State) (l : Nat) : Option (List Claim) :=
  match s.hall.launches[l]? with
  | some L =>
    match L.target with
    | some t =>
      if t.all (fun c => s.quadOpen L.req.cls (c.core / 4)) &&
          fitTogether t (s.barriersFor l L.req.cls (fun _ _ => false)) then some t
      else s.placement l (fun _ _ => false)
    | none => s.placement l (fun _ _ => false)
  | none => none

/-- A launch of which an empty device cannot hold every hart: R353, DETAIL 10. -/
def LaunchRec.tooLarge (r : LaunchRec) : Bool :=
  let n := r.need
  let core := min (8 / max 1 r.minw)
    (min (if n.scratch == 0 then 8 else 0x200000 / n.scratch) (if n.sdata == 0 then 8 else 0x80000 / n.sdata))
  let quad := min (4 * core) (if n.rows == 0 then 32 else 128 / n.rows)
  decide (32 * quad < r.gang)

/-! ### Targets (R358) -/

/-- The placement of launch a if every hart of its class and of lower classes were stopped.
DEDUCED (log entry 40). -/
def State.targetOf (s : State) (a : Nat) : Option (List Claim) :=
  match s.hall.launches[a]? with
  | some A => s.placeAmong A.req [s.claims (fun _ h => !h.placed || decide (s.classOf h < A.req.cls))]
  | none => none

/-- Fix the targets of aged launches anew, as a class 0 hart starts or ends. -/
def State.refreshTargets (s : State) : State :=
  { s with hall := { s.hall with launches := (withIndex 0 s.hall.launches).map (fun (a, A) =>
      if A.aged && A.phase == .waiting then { A with target := s.targetOf a } else A) } }

/-! ### Resumption (R356, R365, R371) -/

/-- A stopped hart may resume on a stall of 2^size clusters of a core. DEDUCED (log entry 37). -/
def Hart.mayResume (h : Hart) (r : LaunchRec) (st : Stall) : Bool :=
  let w := 2 ^ st.size
  let pinned := match h.record with | some cr => cr.wp | none => false
  let width := match h.record with | some cr => cr.width | none => 1
  decide (st.core < 128) && decide (st.base + w ≤ 8) && st.base % w == 0 && decide (w ≤ r.maxw) &&
  (bitAt r.flags 0 || decide (h.startSize ≤ st.size)) &&
  (!pinned || decide (width ≤ w)) &&
  (!h.busyTag || st.core == h.core)

/-- What a stopped hart claims on a stall: a hart that was attached needs max(MROWS, MGRANT) rows (R365). -/
def Hart.resumeClaim (h : Hart) (r : LaunchRec) (st : Stall) : Claim :=
  let rows := match h.record with
    | some cr => (match cr.matrix with | some (g, _) => max r.mrows g | none => r.mrows)
    | none => r.mrows
  ⟨st.core, st.base, 2 ^ st.size, h.scratchSize, h.sdataSize, rows⟩

/-- The stalls given to stopped harts, one each, all permitted and free together. -/
def resumeOk (quads : Nat → Bool) (r : LaunchRec) : List (Hart × Stall) → List (List Claim) → Bool
  | [], _ => true
  | (h, st) :: rest, gs =>
    let c := h.resumeClaim r st
    h.mayResume r st && quads (st.core / 4) && c.fitsAll gs && resumeOk quads r rest (gs.map (c :: ·))

/-- Every stall, by core, then by size from narrow to wide, then by BASE. -/
def allStalls (core : Nat) : List Stall :=
  [0, 1, 2, 3].flatMap (fun k => (List.range (8 / 2 ^ k)).map (fun i => ⟨core, i * 2 ^ k, k⟩))

/-- The first stalls, one for each stopped hart, that are permitted and free together, if there are any. -/
def resumeFit (quads : Nat → Bool) (r : LaunchRec) : List Hart → List (List Claim) → Option (List Stall)
  | [], _ => some []
  | h :: rest, gs =>
    (List.range 128).findSome? (fun core => (allStalls core).findSome? (fun st =>
      if h.mayResume r st && quads (st.core / 4) && (h.resumeClaim r st).fitsAll gs then
        (resumeFit quads r rest (gs.map (h.resumeClaim r st :: ·))).map (st :: ·)
      else none))

/-- The stopped harts of launch l, those whose allocations are kept on a core first. -/
def State.stoppedHarts (s : State) (l : Nat) : List Hart :=
  let hs := (s.gangWhere l Hart.resumable).filterMap (fun k => s.harts[k]?)
  hs.filter Hart.busyTag ++ hs.filter (fun h => !h.busyTag)

/-- The claims that the stopped harts of launch l must fit beside. DEDUCED (log entry 40). -/
def State.resumeBeside (s : State) (l cls : Nat) : List (List Claim) :=
  s.barriersFor l cls (fun _ h => h.launch == l && h.resumable)

/-! ### The launch taken next (R357, R358) -/

/-- Launch l can be placed or resumed now. DEDUCED (log entry 40). -/
def State.canRun (s : State) (l : Nat) : Bool :=
  match s.hall.launches[l]? with
  | some L =>
    if s.eligible L then (s.startPlace l).isSome
    else (resumeFit (s.quadOpen L.req.cls) L.req (s.stoppedHarts l) (s.resumeBeside l L.req.cls)).isSome
  | none => false

/-- The launches that wait, in the order of R357. -/
def State.hallOrder (s : State) : List Nat :=
  (sortBy (fun (a, A) (b, B) => Launch.before A B || (!Launch.before B A && decide (a < b)))
    ((withIndex 0 s.hall.launches).filter (fun (l, _) => s.waits l))).map (·.1)

/-- The launch that the hall places or resumes next: the first in order that fits (R358). -/
def State.hallNext (s : State) : Option Nat := s.hallOrder.find? s.canRun

end Sys2Proof.Machine
end

