-- ==== Sys2Proof/Machine/Gang.lean ====
section
/-!
DEFINITION. Harts, launches and queues as the hall holds them: looking them up, stopping a hart and saving
its record, ending a hart or a gang, and making completions due (R120, R124, R343, R364, R366).
-/
namespace Sys2Proof.Machine

/-! ### Looking up and writing back -/

/-- Write hart k back. -/
def State.setHart (s : State) (k : Nat) (h : Hart) : State := { s with harts := s.harts.set k h }

/-- Write launch l back. -/
def State.setLaunch (s : State) (l : Nat) (L : Launch) : State :=
  { s with hall := { s.hall with launches := s.hall.launches.set l L } }

/-- Write a queue's state block; a block at its reset values is not listed. -/
def Hall.setQueue (a : Hall) (q : Nat) (b : Queue) : Hall :=
  { a with queues := if b = Queue.reset then cellDrop q a.queues else cellPut q b a.queues }

/-- Change the hall. -/
def State.mapHall (s : State) (f : Hall → Hall) : State := { s with hall := f s.hall }

/-- Change queue q. -/
def State.mapQueue (s : State) (q : Nat) (f : Queue → Queue) : State :=
  s.mapHall (fun a => a.setQueue q (f (a.queue q)))

/-- CYC of a core (R43). -/
def State.cycOf (s : State) (core : Nat) : Word := (s.cyc[core]?).getD 0

/-- Positions of the harts of launch l. -/
def State.gang (s : State) (l : Nat) : List Nat :=
  ((withIndex 0 s.harts).filter (fun (_, h) => h.launch == l)).map (·.1)

/-! ### Pre-emptions (R359, R363) -/

/-- Pre-emption for another launch than l names hart k. -/
def State.stillWanted (s : State) (l k : Nat) : Bool :=
  s.hall.preemptions.any (fun p => p.launch != l && p.victims.any (fun (j, _) => j == k))

/-- Launch l needs its pre-emption no longer: what it held is let go, and the YREQ of its victims is
withdrawn (R359, R363). -/
def State.dropPreemption (s : State) (l : Nat) : State :=
  let ks := (s.hall.preemptions.filter (fun p => p.launch == l)).flatMap (fun p => p.victims.map (·.1))
  let s := forEach (ks.filter (fun k => !s.stillWanted l k)) s (fun (s : State) k =>
    match s.harts[k]? with
    | some h => s.setHart k { h with yreq := false, yieldAt := none }
    | none => s)
  s.mapHall (fun a => { a with preemptions := a.preemptions.filter (fun p => p.launch != l) })

/-! ### Completions due (R343, R347) -/

/-- A launch that has not started counts as started when it completes (R345). -/
def startedMax (q : Queue) (hseq : Nat) : Queue := { q with started := max q.started hseq }

/-- The launch is over with a status and a detail: its completion is due on its channel. -/
def State.finishLaunch (s : State) (l status detail : Nat) : State :=
  match s.hall.launches[l]? with
  | none => s
  | some L =>
    let s := s.setLaunch l { L with phase := .completing, status := status }
    let s := (s.dropPreemption l).mapQueue L.queue (fun q => startedMax q L.req.hseq)
    s.mapHall (fun a => { a with due := a.due ++ [⟨L.req.cpl, .completion l status detail⟩] })

/-- When every hart of a started launch has ended and none has a busy tag, the launch completes, with
its first failure if it has one (R120, R343). -/
def State.checkLaunch (s : State) (l : Nat) : State :=
  match s.hall.launches[l]? with
  | none => s
  | some L =>
    if L.phase == .started &&
        (s.harts.all (fun h => h.launch != l || (h.over && !h.busyTag)))
    then
      match L.failure with
      | none => s.finishLaunch l 0 0
      | some f => s.finishLaunch l f.status f.detail
    else s

/-! ### Ending harts -/

/-- A hart of launch l has started or ended: with a class 0 hart the targets change (R358). -/
def State.classZeroMoved (s : State) (l : Nat) : State :=
  match s.hall.launches[l]? with
  | some L => if L.req.cls == 0 then s.refreshTargets else s
  | none => s

/-- A hart that has ended: its registers, slots, rows and allocations are given back (R120); its engine
tags keep running. The scratchpad stays while a tag is busy. DEDUCED (log entry 37). -/
def Hart.close (h : Hart) : Hart :=
  let base : Hart := { Hart.reset with
    launch := h.launch
    core := h.core
    hartid := h.hartid
    gangid := h.gangid
    gangn := h.gangn
    tags := h.tags
    livev := h.livev }
  if h.busyTag then { base with scratch := h.scratch, scratchSize := h.scratchSize } else base

/-- Nobody waits any more for an answer to the faults that `p` picks: one whose record has been posted is forgotten, any
other once its record is posted (R344, R381). -/
def Hall.closeFaults (a : Hall) (p : HallFault → Bool) : Hall :=
  { a with faults := (a.faults.filter (fun f => !(p f && f.posted))).map (fun f =>
      if p f then { f with closed := true } else f) }

/-- A fault that an engine transfer met: it outlives its hart. -/
def FaultSource.isEngine : FaultSource → Bool
  | .engine _ => true | _ => false

/-- End every hart of launch l that has not ended; each is hard-stopped first (R343, R364). -/
def State.endGang (s : State) (l : Nat) : State :=
  let running := (s.harts.filter (fun (h : Hart) => h.launch == l && h.placed)).length
  let s := { s with harts := s.harts.map (fun (h : Hart) =>
    if h.launch == l && !h.over then h.close else h) }
  let s := s.mapHall (fun a => Hall.closeFaults { a with hstops := a.hstops + BitVec.ofNat 64 running } (fun f =>
    !f.source.isEngine && match s.harts[f.hart]? with
      | some h => h.launch == l | none => true))
  (s.classZeroMoved l).checkLaunch l

/-- Hart k ends with a failure of status 1, 2 or 6: the launch keeps the first failure, and the rest of
the gang is ended (R343). -/
def State.failHart (s : State) (k : Nat) (h : Hart) (f : Failure) : State :=
  let s := s.setHart k h.close
  let s := match s.launchOf h with
    | none => s
    | some L => s.setLaunch h.launch { L with failure := L.failure.or (some f) }
  s.endGang h.launch

/-- Hart k halts: it counts as arrived at every later barrier, and gives everything back (R120). A hart
that holds a failed tag fails with STATUS 6 (R242). -/
def State.haltHart (s : State) (k : Nat) (h : Hart) : State :=
  match h.tags.toList.find? (fun t => match t with | .failed _ _ _ => true | _ => false) with
  | some (.failed c _ _) =>
    s.failHart k h ⟨6, c, h.hartid.toNat, c, h.pc⟩
  | _ => ((s.setHart k h.close).classZeroMoved h.launch).checkLaunch h.launch

/-! ### Stopping harts (R292, R364) -/

/-- WIN0 to WIN3 are 0, and no instruction is unfinished (R286, R292). -/
def Hart.closeWindow (h : Hart) : Hart :=
  { h with win := Vector.replicate 4 0, windowed := false, replay := none }

/-- Stop hart k as a hard stop: WP := 1, its record saved, its stall released; HSTOPS counts it.
DEDUCED (log entry 37). -/
def State.hardStop (s : State) (k : Nat) (h : Hart) (status : HartStatus) (state : Nat) (rpc : Word) :
    State :=
  let h : Hart := { h with
    wp := true
    yreq := false
    yieldAt := none
    stopAt := none
    replay := none
    waits := false
    sentAt := none
    sentPage := none
    mattAt := none }
  let h : Hart := { h with status := status, record := some (h.save (s.cycOf h.core) state rpc) }
  (s.setHart k h).mapHall (fun a => { a with hstops := a.hstops + 1 })

/-- Stop hart k by a yield at its SETVL (R141, R292): WP = 0, any width; YIELDS counts it.
DEDUCED (log entry 37). -/
def State.yieldStop (s : State) (k : Nat) (h : Hart) : State :=
  let h : Hart := { h.closeWindow with wp := false, yreq := false, yieldAt := none, stopAt := none }
  let h : Hart := { h with status := .yielded, record := some (h.save (s.cycOf h.core) 1 h.pc) }
  (s.setHart k h).mapHall (fun a => { a with yields := a.yields + 1 })

/-- A window entry (R282). NXT is zero but in WIN0. -/
def winEntry (dist nxt idx : Nat) : Word :=
  BitVec.ofNat 64 (2 ^ 63 + dist % 256 * 2 ^ 48 + nxt % 256 * 2 ^ 40 + idx % 2 ^ 17)

/-- DIST and IDX of an entry (R282). -/
def winDist (w : Word) : Nat := fld w.toNat 48 8
/-- IDX of an entry. -/
def winIdx (w : Word) : Nat := fld w.toNat 0 17
/-- The index that marks WIN0's instruction to be skipped (R282). -/
def winSkip : Nat := 0x1FFFF

/-- Write the window registers from a list of entries, zero after them. -/
def Hart.setWin (h : Hart) (ws : List Word) : Hart :=
  { h with win := Vector.ofFn (fun (i : Fin 4) => (ws[i.val]?).getD 0) }

/-- The entries of a replay whose distance is `d` or more, with distances counted from `d0` (R286). -/
def Hart.entriesFrom (h : Hart) (d d0 : Nat) : List Word :=
  (h.win.toList.filter (fun w => winValid w && decide (d ≤ winDist w))).map (fun w =>
    winEntry (winDist w - d0) 0 (winIdx w))

/-- The first entry of a replay not yet issued: its distance and its resume index. WIN0 resumes at VSTART
unless it is to be skipped (R286). -/
def Hart.nextEntry (h : Hart) (d : Nat) : Option (Nat × Nat) :=
  match h.win.toList.filter (fun w => winValid w && decide (d ≤ winDist w)) with
  | [] => none
  | w :: _ =>
    some (winDist w,
      if winDist w == winDist h.win[0] && winValid h.win[0] && winIdx w != winSkip then h.vstart
      else winIdx w)

/-- Stop a hart between two distances of a replay: the entries not yet issued stay unfinished with their
indices, and the resume PC is the oldest of them or its PFX (R283, R286, R292). `isPfx d` says that the
word at distance d is a PFX. -/
def Hart.foldReplay (h : Hart) (isPfx : Nat → Bool) : Hart :=
  match h.replay with
  | none => h
  | some rp =>
    match h.nextEntry rp.d with
    | none => { h.closeWindow with pc := rp.base + BitVec.ofNat 64 (4 * rp.n) }
    | some (dist, idx) =>
      let d0 := if 0 < dist && isPfx (dist - 1) then dist - 1 else dist
      let h1 := h.setWin (winEntry (dist - d0) (rp.n - d0) idx :: h.entriesFrom (dist + 1) d0)
      { h1 with
        vstart := if idx == winSkip then h.vstart else idx
        pfx := none
        pc := rp.base + BitVec.ofNat 64 (4 * d0)
        replay := none }

end Sys2Proof.Machine
end

