-- ==== Sys2Proof/Machine/Access.lean ====
section
/-!
DEFINITION. A hart's access to memory: the local window (R36 to R38), translation through the page tables
and the TLBs (R373 to R377), device-managed and compressed pages (R379, R380), the domain map (R394,
R395), poisoned sectors (R403), and loads and stores in the order of checks of R115.
-/
namespace Sys2Proof.Machine

/-! ### Faults of an access -/

/-- What an access asks of a page (R375). -/
inductive AccKind where
  | load | store | both | fetch
  deriving DecidableEq, Repr

/-- The detail an access reports (R288). -/
def AccKind.detail : AccKind → Nat
  | .load => 0 | .store => 1 | .both => 1 | .fetch => 2

/-- The detail of UNCORR: 2 for a fetch (R288). -/
def AccKind.uncorrDetail (k : AccKind) : Nat := if k == .fetch then 2 else 0

/-- The page permits the access: R is bit 2, W bit 3, X bit 4 of the entry (R374, R375). -/
def AccKind.permitted (k : AccKind) (entry : Nat) : Bool :=
  match k with
  | .load => bitAt entry 2
  | .store => bitAt entry 3
  | .both => bitAt entry 2 && bitAt entry 3
  | .fetch => bitAt entry 4

/-- Cause codes (R288). -/
def causeIllegal : Nat := 0x01
/-- ILLCFG. -/
def causeIllcfg : Nat := 0x02
/-- MISALIGN. -/
def causeMisalign : Nat := 0x03
/-- PAGE. -/
def causePage : Nat := 0x04
/-- PERM. -/
def causePerm : Nat := 0x05
/-- SHAPE. -/
def causeShape : Nat := 0x06
/-- SPARSEMETA. -/
def causeSparsemeta : Nat := 0x07
/-- FPX. -/
def causeFpx : Nat := 0x08
/-- NOOP. -/
def causeNoop : Nat := 0x09
/-- LTBOUND. -/
def causeLtbound : Nat := 0x0A
/-- NOMAT. -/
def causeNomat : Nat := 0x0B
/-- UNCORR. -/
def causeUncorr : Nat := 0x0C
/-- BKPT. -/
def causeBkpt : Nat := 0x0D
/-- SYSC. -/
def causeSysc : Nat := 0x0E

/-- A fault of a memory access. -/
structure MemFault where
  cause : Nat
  detail : Nat
  addr : Word
  info : FaultInfo
  deriving DecidableEq, Repr

/-- A hart taken out of the machine together with the machine. -/
structure Ctx where
  h : Hart
  s : State

/-- Why an access does not happen: a fault or a wait, with the machine as the access left it; `sent` is the address and
the kind of an access that has been sent while the link is down (R339), none where it waits for a hold (R338), a
transfer or the hall. -/
inductive MemStop where
  | fault (f : MemFault) (c : Ctx)
  | wait (sent : Option (Nat × AccKind)) (c : Ctx)

/-- The outcome of an access. -/
abbrev Got := Except MemStop

/-- A fault that the hall cannot resolve, or that goes to TVEC. -/
def plainFault (cause detail : Nat) (addr : Nat) : MemFault :=
  ⟨cause, detail, BitVec.ofNat 64 addr, ⟨0, 0, 0, 0xFF, false⟩⟩

/-- A fault the hall resolves (R381). -/
def hallFault (k : AccKind) (cause addr entry reason level : Nat) : MemFault :=
  let detail := if cause == causeUncorr then k.uncorrDetail else k.detail
  ⟨cause, detail, BitVec.ofNat 64 addr, ⟨k.detail, BitVec.ofNat 64 entry, reason, level, true⟩⟩

/-! ### The domain (R394, R395) -/

/-- A physical address lies in host memory (R374). -/
def isHostAddr (pa : Nat) : Bool := bitAt pa 51

/-- The routes to an ordinal name a port that is up (R395). -/
def State.routeUp (s : State) (d : Nat) : Bool :=
  (List.finRange 24).any (fun p =>
    bitAt ((s.fab.routes.get d).getD 0).toNat p.val && s.fab.ports[p].up)

/-- A device address can be reached from this device (R395). -/
def State.reaches (s : State) (pa : Nat) : Bool :=
  let d := fld pa 39 7
  d == s.fab.dord || (s.fab.den && bitAt s.fab.dmemb.toNat d && s.routeUp d)

/-- The sector of an address is poisoned (R403). -/
def State.poisoned (s : State) (pa : Nat) : Bool := s.poison.contains (pa / 32)

/-- Bytes of physical memory as the hall or an agent outside a hart reads them; a poisoned sector's value never
leaves (R403): its bytes are free values. DEDUCED (log entry 45). -/
def State.outerRead (s : State) (a n : Nat) : List Byte :=
  (fromTo a (a + n)).map (fun b => if s.poisoned b then Config.undefByte s.tick b else s.mem.read s.tick b)

/-- Sectors of a range, by number. -/
def sectorsOf (a n : Nat) : List Nat := fromTo (a / 32) ((a + n + 31) / 32)

/-- A write by the hall or from outside a hart: it rewrites the poisoned sectors it covers whole, and leaves the
others (R403). DEDUCED (log entry 45). -/
def State.outerWrite (s : State) (a : Nat) (bytes : List Byte) : State :=
  if s.poison.isEmpty then { s with mem := s.mem.writeBytes a bytes }
  else
    let n := bytes.length
    let whole := (sectorsOf a n).filter (fun p => decide (a ≤ 32 * p) && decide (32 * p + 32 ≤ a + n))
    let s := { s with poison := s.poison.filter (fun p => !whole.contains p) }
    { s with mem := forEach (withIndex a bytes) s.mem (fun (m : Memory) (b, x) =>
        if s.poisoned b then m else m.write b x) }

/-- An n-byte physical read. -/
def State.physRead (s : State) (pa n : Nat) : Nat := leValue (s.outerRead pa n)

/-- An n-byte physical write. -/
def State.physWrite (s : State) (pa n v : Nat) : State := s.outerWrite pa (leBytes n v)

/-! ### Page tables (R374, R375) -/

/-- The lowest index bit of a level. -/
def levelShift : Nat → Nat
  | 0 => 48 | 1 => 39 | 2 => 30 | 3 => 21 | _ => 16
/-- The index width of a level. -/
def levelBits : Nat → Nat
  | 0 => 8 | 4 => 5 | _ => 9
/-- The size of a level's table in bytes, its alignment. -/
def tableSize (n : Nat) : Nat := 8 * 2 ^ levelBits n

/-- ADDR of an entry: bits [51:8] in place. -/
def entryAddr (e : Nat) : Nat := fld e 8 44 * 256

/-- A reserved bit of an entry is set: [63:52] or [7]. -/
def entryReserved (e : Nat) : Bool := fld e 52 12 != 0 || bitAt e 7

/-- What an entry decides (R375). -/
inductive EntryMeaning where
  | invalid | malformed | placeholder | table (addr : Nat) | leaf
  deriving DecidableEq, Repr

/-- A leaf's frame address is admitted: host memory, or a device address with bits [50:46] zero (R394).
DEDUCED (log entry 43). -/
def frameOk (a : Nat) : Bool := isHostAddr a || fld a 46 5 == 0

/-- The meaning of an entry at level n (R375). DEDUCED (log entry 43). -/
def entryMeaning (n e : Nat) : EntryMeaning :=
  let leaf := bitAt e 1
  if !bitAt e 0 then
    if !bitAt e 5 then .invalid
    else if n == 4 && leaf && !entryReserved e then .placeholder else .malformed
  else if entryReserved e then .malformed
  else if !leaf then
    if n < 4 && entryAddr e % tableSize (n + 1) == 0 && fld e 2 5 == 0 && !isHostAddr (entryAddr e)
    then .table (entryAddr e) else .malformed
  else if n < 2 then .malformed
  else if entryAddr e % 2 ^ levelShift n != 0 then .malformed
  else if bitAt e 6 && (n < 4 || isHostAddr (entryAddr e)) then .malformed
  else if !frameOk (entryAddr e) then .malformed
  else .leaf

/-! ### TLBs (R376) -/

/-- Entries cached for a level of a virtual address. DESIGN CHOICE (log entry 9). -/
def State.cachedEntries (s : State) (quad asid n va : Nat) : List Nat :=
  (s.tlb.filter (fun t => t.quad == quad && t.asid == asid && t.level == n &&
    t.path == va / 2 ^ levelShift n)).map (·.entry)

/-- Remember a valid entry. DESIGN CHOICE (log entry 9). -/
def State.cacheEntry (s : State) (quad asid n va e : Nat) : State :=
  let t : TlbEntry := ⟨quad, asid, n, va / 2 ^ levelShift n, e⟩
  if s.tlb.contains t then s else { s with tlb := t :: s.tlb }

/-- The entry a lookup uses: where a cached entry differs from the table, either may be used (R376).
DESIGN CHOICE (log entry 9). -/
def State.chooseEntry (s : State) (cached : List Nat) (key mem : Nat) : Nat :=
  match cached.filter (· != mem) with
  | [] => mem
  | old :: _ => if Config.tlbHit s.tick key then old else mem

/-! ### Device-managed pages (R379) -/

/-- How a walk ends: a leaf entry with its level, or a fault. -/
inductive WalkEnd where
  | leaf (n e : Nat)
  | fault (cause entry reason level : Nat)
  /-- An access of the walk at level n, where the last entry read is `entry`, gets no acknowledgement from another device
  (R395). -/
  | unacked (entry n : Nat)
  /-- An access of it to host memory waits for the link (R339). -/
  | linkDown (entry n : Nat)
  deriving DecidableEq, Repr

/-- An access that the fabric does not complete is counted (R395). -/
def State.countUnreach (s : State) : State := { s with fab := { s.fab with unreach := s.fab.unreach + 1 } }

/-- A device address on another member. -/
def State.isRemote (s : State) (pa : Nat) : Bool := fld pa 39 7 != s.fab.dord

/-- What reaches memory on behalf of a walk: device-managed pages are mapped; the next access to another device gets no
acknowledgement; the link carries host accesses. -/
structure WalkMode where
  dmPaging : Bool
  noAck : Bool
  link : Bool
  deriving DecidableEq, Repr

/-- Why the hall's access to the word at `pa`, for a walk at level n whose last entry is `e`, ends the walk, with the
machine after it; `reads` says that it reads the word, whose sector may be poisoned. Link, fabric and data are met as by
any access, with reason 5 (R339, R395, R403). DEDUCED (log entry 43). -/
def State.walkStop (s : State) (w : WalkMode) (e n pa : Nat) (reads : Bool) : Option (WalkEnd × State) :=
  if isHostAddr pa && !w.link then some (.linkDown e n, s)
  else if !isHostAddr pa && !s.reaches pa then some (.fault causeUncorr e 5 n, s.countUnreach)
  else if !isHostAddr pa && w.noAck && s.isRemote pa then some (.unacked e n, s.countUnreach)
  else if reads && s.poisoned pa then some (.fault causeUncorr e 5 n, s)
  else none

/-- Take the head node n of a list whose descriptor is at `d` (R136, R379): the node joins no list. -/
def State.takeHead (s : State) (d n : Nat) : State :=
  let nx := s.physRead n 8
  let s := s.physWrite d 8 nx
  if nx == 0 then s.physWrite (d + 8) 8 0 else s

/-- Enter a frame for the placeholder `e` at address `at_`: filled with zeros, or with zero sectors, and entered with
V = 1 (R379). -/
def State.enterFrame (s : State) (at_ e frame : Nat) : Nat × State :=
  let size := if bitAt e 6 then 2 ^ 17 else 2 ^ 16
  let s := { s with
    mem := s.mem.clear frame size
    poison := s.poison.filter (fun p => decide (p < frame / 32) || decide ((frame + size) / 32 ≤ p)) }
  let e' := fld e 0 8 + frame / 256 % 2 ^ 44 * 256 + 1
  (e', s.physWrite at_ 8 e')

/-- Map the placeholder `e` of level n at address `at_` (R379): a frame off FLIST, or off FLIST2 for a compressed page.
The retry meets what the entry then says. A list that is 0 or empty is PAGE with reason 2; the descriptor, its head node
and the frame are reached like the entries of the walk. DEDUCED (log entry 43). -/
def State.mapPlaceholder (s : State) (w : WalkMode) (desc at_ n e : Nat) : WalkEnd × State :=
  let flist := s.physRead (desc + (if bitAt e 6 then 0x20 else 0x08)) 8
  if flist == 0 then (.fault causePage e 2 n, s)
  else
    match s.walkStop w e n flist true with
    | some r => r
    | none =>
      let frame := s.physRead flist 8
      if frame == 0 then (.fault causePage e 2 n, s)
      else
        match s.walkStop w e n frame true with
        | some r => r
        | none =>
          let (e', s) := (s.takeHead flist frame).enterFrame at_ e frame
          if entryMeaning n e' == .leaf then (.leaf n e', s) else (.fault causePage e' 3 n, s)

/-! ### Walks -/

/-- Walk from level n with the given table (R375). `fuel` is the number of levels left. -/
def State.walkFrom (quad asid va desc : Nat) (w : WalkMode) : (fuel n table : Nat) → State → WalkEnd × State
  | 0, n, _, s => (.fault causePage 0 3 n, s)
  | fuel + 1, n, table, s =>
    let at_ := table + 8 * fld va (levelShift n) (levelBits n)
    match s.walkStop w 0 n at_ true with
    | some r => r
    | none =>
      let e := s.chooseEntry (s.cachedEntries quad asid n va) (8 * va + n) (s.physRead at_ 8)
      match entryMeaning n e with
      | .invalid => (.fault causePage e 0 n, s)
      | .malformed => (.fault causePage e 3 n, s)
      | .table a => State.walkFrom quad asid va desc w fuel (n + 1) a (s.cacheEntry quad asid n va e)
      | .leaf => (.leaf n e, s.cacheEntry quad asid n va e)
      | .placeholder =>
        if !w.dmPaging then (.fault causePage e 0 n, s)
        else
          match s.mapPlaceholder w desc at_ n e with
          | (.leaf n e', s) => (.leaf n e', s.cacheEntry quad asid n va e')
          | r => r

/-- A walk: the descriptor is read afresh (R373); a leaf that a TLB holds may serve without it (R376). A descriptor
that cannot be read meets what an entry meets, at no level; a root table in host memory, where none may lie, is
malformed. DEDUCED (log entry 43). -/
def State.walk (s : State) (quad asid va : Nat) (w : WalkMode) : WalkEnd × State :=
  let desc := s.hall.atbase.toNat + 64 * asid
  let held := [4, 3, 2].findSome? (fun n =>
    ((s.cachedEntries quad asid n va).find? (fun e => entryMeaning n e == .leaf)).map (fun e => (n, e)))
  let stale : WalkEnd × State → WalkEnd × State := fun r =>
    match held with
    | some (n, e) => if Config.tlbHit s.tick (8 * va + 5) then (.leaf n e, s) else r
    | none => r
  let flags := s.physRead (desc + 0x18) 8
  let root := s.physRead desc 8
  if s.hall.atlim ≤ asid then stale (.fault causePage 0 0 0xFF, s)
  else
    match (s.walkStop w 0 0xFF desc true).or (s.walkStop w 0 0xFF (desc + 32) true) with
    | some r => stale r
    | none =>
      if !bitAt flags 0 then stale (.fault causePage 0 0 0xFF, s)
      else if flags / 2 != 0 || s.physRead (desc + 0x28) 24 != 0 || root % 2048 != 0 || isHostAddr root then
        stale (.fault causePage 0 3 0xFF, s)
      else State.walkFrom quad asid va desc w 5 0 root s

/-! ### Where an address lies -/

/-- Where the bytes of an access lie: the scratchpad, scalar data memory, a physical address, or a
compressed page's frame and the offset in the page (R36, R380). -/
inductive Loc where
  | scratch (a : Nat)
  | sdata (a : Nat)
  | phys (pa : Nat)
  | packed (frame off : Nat)
  deriving DecidableEq, Repr

/-- Generic memory starts here (R36). -/
def genericBase : Nat := 0x1000000
/-- Scalar data memory starts here (R36). -/
def sdataBase : Nat := 0x800000

/-- DMPAGING of a hart's launch (R340). -/
def State.dmPaging (s : State) (h : Hart) : Bool :=
  match s.launchOf h with
  | some L => bitAt L.req.flags 1
  | none => false

/-- The last entry that an access has read, and its level: what a fault record reports of it (R381). -/
structure Leaf where
  entry : Nat
  level : Nat
  deriving DecidableEq, Repr

/-- No entry has been read. -/
def Leaf.none : Leaf := ⟨0, 0xFF⟩

/-- The place of an address under the leaf `e` at level n (R374, R380). -/
def leafPlace (va n e : Nat) : Loc :=
  if bitAt e 6 then .packed (entryAddr e) (va % 2 ^ 16) else .phys (entryAddr e + va % 2 ^ levelShift n)

/-- The leaf's permission, then its place (R375). -/
def locate (c : Ctx) (va : Nat) (k : AccKind) (s : State) (n e : Nat) : Got ((Loc × Leaf) × Ctx) :=
  if !k.permitted e then .error (.fault (hallFault k causePerm va e 1 n) ⟨c.h, s⟩)
  else .ok ((leafPlace va n e, ⟨e, n⟩), ⟨c.h, s⟩)

/-- Whether the link lets a host access start (R338, R339). -/
def State.linkOpen (s : State) (cls : Nat) : Bool := s.link.up && !((s.link.holdOut[cls]?).getD false)

/-- An access that needs the link while it does not carry it: it waits, or it has waited for 100 ms (R338, R339). -/
def Ctx.offLink {α : Type} (c : Ctx) (va : Nat) (k : AccKind) (l : Leaf) : Got α :=
  if c.h.timedOut then
    .error (.fault (hallFault k causeUncorr va l.entry 6 l.level) { c with h := { c.h with timedOut := false } })
  else .error (.wait (if c.s.link.up then none else some (va, k)) c)

/-- How the hall walks for the hart's access. -/
def Ctx.walkMode (c : Ctx) : WalkMode := ⟨c.s.dmPaging c.h, c.h.noAck, c.s.linkOpen (c.s.classOf c.h)⟩

/-- Checks 2 and 3 of R115: the local window and the address range, then translation. -/
def Ctx.translate (c : Ctx) (va : Nat) (k : AccKind) : Got ((Loc × Leaf) × Ctx) :=
  if 2 ^ 56 ≤ va then .error (.fault (plainFault causePerm k.detail va) c)
  else if va < genericBase then
    if k == .fetch then .error (.fault (plainFault causePerm 2 va) c)
    else if va < c.h.scratchSize then .ok ((.scratch va, .none), c)
    else if sdataBase ≤ va && va < sdataBase + c.h.sdataSize then .ok ((.sdata (va - sdataBase), .none), c)
    else .error (.fault (plainFault causePerm k.detail va) c)
  else
    match c.s.walk (c.h.core / 4) (c.s.asidOf c.h) va c.walkMode with
    | (.fault cause e reason level, s) =>
      .error (.fault (hallFault k cause va e reason level) ⟨c.h, s⟩)
    | (.unacked e level, s) =>
      .error (.fault (hallFault k causeUncorr va e 5 level) ⟨{ c.h with noAck := false }, s⟩)
    | (.linkDown e level, s) => Ctx.offLink ⟨c.h, s⟩ va k ⟨e, level⟩
    | (.leaf n e, s) => locate c va k s n e

/-- A translation of an address among those that are held: its page, for reading or for writing (R378). -/
def heldPage (pages : List PinnedPage) (va : Nat) (k : AccKind) : Option PinnedPage :=
  pages.find? (fun p => p.page == va / 2 ^ 16 && p.write == (k == .store))

/-- The page that a leaf translates for an access. -/
def Leaf.page (l : Leaf) (va : Nat) (k : AccKind) : PinnedPage := ⟨va / 2 ^ 16, k == .store, l.entry, l.level⟩

/-- Where an address lies whatever link, fabric and data say, under a leaf that `ok` admits: none where there is no
page. -/
def Ctx.placeOf (c : Ctx) (va : Nat) (ok : Nat → Bool) : Option Loc :=
  if va < genericBase then
    match c.translate va .load with
    | .ok ((loc, _), _) => some loc
    | .error _ => none
  else if 2 ^ 56 ≤ va then none
  else
    match c.s.walk (c.h.core / 4) (c.s.asidOf c.h) va ⟨false, false, true⟩ with
    | (.leaf n e, _) => if ok e then some (leafPlace va n e) else none
    | _ => none

/-- Where the hart's access lies: the page it translated when it was sent serves it until it is performed (R378). -/
def Ctx.resolve (c : Ctx) (va : Nat) (k : AccKind) : Got ((Loc × Leaf) × Ctx) :=
  match heldPage c.h.sentPage.toList va k with
  | some p => locate c va k c.s p.level p.entry
  | none => c.translate va k

/-! ### Compressed sectors (R246, R380) -/

/-- Decode a sector from the bytes at its slot: its 32 bytes and the bytes read, or none for a bad
header (R246). -/
def sectorDecode : List Byte → Option (List Byte × Nat)
  | [] => none
  | b :: rest =>
    match b.toNat with
    | 0 => some (List.replicate 32 0, 1)
    | 1 => let q := rest.take 8; some (q ++ q ++ q ++ q, 9)
    | 2 => some (rest.take 32, 33)
    | _ => none

/-- Encode 32 bytes as VXFE.SECT does (R246). -/
def sectorEncode (bs : List Byte) : List Byte :=
  let q := bs.take 8
  if bs.all (· == 0) then [0]
  else if bs == q ++ q ++ q ++ q then 1 :: q
  else 2 :: bs

/-! ### Reading and writing at a place -/

/-- The physical address whose sector, link and routes an access needs. -/
def Loc.pa? : Loc → Option Nat
  | .phys pa => some pa
  | .packed frame off => some (frame + 64 * (off / 32))
  | _ => none

/-- The bytes that a compressed slot holds as they stand, 32 of them; undefined ones where its header names no
encoding. -/
def State.slotBytes (s : State) (slot : Nat) : List Byte :=
  match sectorDecode (s.mem.readBytes s.tick slot 33) with
  | some (bs, _) => bs
  | none => (fromTo slot (slot + 32)).map (Config.undefByte s.tick)

/-- Make the bytes at a place undefined. A compressed sector is written raw, so that its other bytes keep their
values. DEDUCED (log entry 45). -/
def Ctx.spoilLoc (c : Ctx) (loc : Loc) (n : Nat) : Ctx :=
  match loc with
  | .scratch a => { c with h := { c.h with scratch := forEach (fromTo a (a + n)) c.h.scratch Memory.spoil } }
  | .sdata a => { c with h := { c.h with sdata := forEach (fromTo a (a + n)) c.h.sdata Memory.spoil } }
  | .phys pa => { c with s := { c.s with mem := forEach (fromTo pa (pa + n)) c.s.mem Memory.spoil } }
  | .packed frame off =>
    let at_ := frame + 64 * (off / 32)
    let raw := c.s.mem.writeBytes at_ (2 :: c.s.slotBytes at_)
    let lo := at_ + 1 + off % 32
    { c with s := { c.s with mem := forEach (fromTo lo (lo + n)) raw Memory.spoil } }

/-- An access to a device address that the fabric does not complete (R395): reason 7, counted in UNREACH. -/
def Ctx.unreachable (c : Ctx) (va : Nat) (k : AccKind) (l : Leaf) : MemStop :=
  .fault (hallFault k causeUncorr va l.entry 7 l.level) { c with s := c.s.countUnreach }

/-- Whether link and fabric carry an access (R338, R339, R395); `l` is the leaf of the translation. -/
def Ctx.carried (c : Ctx) (va : Nat) (k : AccKind) (l : Leaf) (pa : Nat) : Got (Unit × Ctx) :=
  if isHostAddr pa then
    if c.s.linkOpen (c.s.classOf c.h) then .ok ((), c) else c.offLink va k l
  else if !c.s.isRemote pa then .ok ((), c)
  else if !c.s.reaches pa then .error (c.unreachable va k l)
  else if c.h.noAck then .error (Ctx.unreachable { c with h := { c.h with noAck := false } } va k l)
  else .ok ((), c)

/-- One store writes the 32-byte sector of `va` whole, of which this access is a part. -/
def coversSector (whole : Option (Nat × Nat)) (va : Nat) : Bool :=
  match whole with
  | some (lo, hi) => decide (lo ≤ downTo 32 va) && decide (downTo 32 va + 32 ≤ hi)
  | none => false

/-- The data at a place is uncorrectable: its sector is poisoned (R403), or a compressed slot has a header that
R246 does not name, or holds its 33rd byte in a poisoned sector (R380). -/
def State.lostAt (s : State) (loc : Loc) (pa : Nat) : Bool :=
  s.poisoned pa || match loc with
    | .packed _ _ =>
      match sectorDecode (s.mem.readBytes s.tick pa 33) with
      | none => true
      | some (_, n) => n == 33 && s.poisoned (pa + 32)
    | _ => false

/-- The contents of a place can be used, unless one store writes the sector whole and reads nothing
(R319, R380, R403). `whole` is the range that the store writes. -/
def Ctx.intact (c : Ctx) (va : Nat) (k : AccKind) (loc : Loc) (l : Leaf) (pa : Nat) (whole : Option (Nat × Nat)) :
    Got (Unit × Ctx) :=
  if c.s.lostAt loc pa && !(k == .store && coversSector whole va) then
    .error (.fault (hallFault k causeUncorr va l.entry 4 l.level) c)
  else .ok ((), c)

/-- Check 4 of R115 and the reach of the address: the link, the fabric, the data. DEDUCED (log entry 45). -/
def Ctx.reach (c : Ctx) (va : Nat) (k : AccKind) (loc : Loc) (l : Leaf) (whole : Option (Nat × Nat)) :
    Got (Unit × Ctx) :=
  match loc.pa? with
  | none => .ok ((), c)
  | some pa => do
    let (_, c) ← c.carried va k l pa
    c.intact va k loc l pa whole

/-- The n bytes at a place, n at most 8 and aligned; an unaligned single byte too. -/
def Ctx.readLoc (c : Ctx) (loc : Loc) (n : Nat) : Nat :=
  match loc with
  | .scratch a => c.h.scratch.readLe c.s.tick a n
  | .sdata a => c.h.sdata.readLe c.s.tick a n
  | .phys pa => c.s.mem.readLe c.s.tick pa n
  | .packed frame off => leValue (((c.s.slotBytes (frame + 64 * (off / 32))).drop (off % 32)).take n)

/-- What memory holds at an address whatever its permissions: none where there is no page, or where the data is lost. -/
def Ctx.peek (c : Ctx) (va n : Nat) : Option Nat :=
  (c.placeOf va (fun _ => true)).bind (fun loc =>
    match loc.pa? with
    | some pa => if c.s.lostAt loc pa then none else some (c.readLoc loc n)
    | none => some (c.readLoc loc n))

/-- Write n bytes at a place; a compressed sector is encoded again (R319). -/
def Ctx.writeLoc (c : Ctx) (loc : Loc) (n v : Nat) : Ctx :=
  match loc with
  | .scratch a => { c with h := { c.h with scratch := c.h.scratch.writeLe a n v } }
  | .sdata a => { c with h := { c.h with sdata := c.h.sdata.writeLe a n v } }
  | .phys pa => { c with s := { c.s with mem := c.s.mem.writeLe pa n v } }
  | .packed frame off =>
    let at_ := frame + 64 * (off / 32)
    let old := c.s.slotBytes at_
    let bs := old.take (off % 32) ++ leBytes n v ++ old.drop (off % 32 + n)
    { c with s := { c.s with mem := c.s.mem.writeBytes at_ (sectorEncode bs) } }

/-- Once a store that writes a sector whole has written its last byte, the sector is poisoned no longer (R403); for
a compressed page that is the slot. DEDUCED (log entry 45). -/
def Ctx.mend (c : Ctx) (loc : Loc) (va n : Nat) (whole : Option (Nat × Nat)) : Ctx :=
  match loc.pa? with
  | none => c
  | some pa =>
    if c.s.poison.isEmpty || !coversSector whole va || va % 32 + n < 32 then c
    else
      let rest := addrDrop (pa / 32) c.s.poison
      { c with s := { c.s with poison := match loc with
        | .packed _ _ => addrDrop (pa / 32 + 1) rest
        | _ => rest } }

/-- A store's bytes reach their place. -/
def Ctx.putLoc (c : Ctx) (loc : Loc) (va n v : Nat) (whole : Option (Nat × Nat)) : Ctx :=
  (c.writeLoc loc n v).mend loc va n whole

/-- Translate and check an access of n bytes at `va` for alignment, permission and reach (R115). -/
def Ctx.checked (c : Ctx) (va n : Nat) (k : AccKind) (whole : Option (Nat × Nat)) : Got (Loc × Ctx) :=
  if va % n != 0 then .error (.fault (plainFault causeMisalign 0 va) c)
  else do
    let ((loc, l), c) ← c.resolve va k
    let (_, c) ← c.reach va k loc l whole
    .ok (loc, c)

/-- The slot of a compressed sector has been encoded with 33 bytes, of which the last lies in a poisoned sector of
memory. -/
def Ctx.rawLost (c : Ctx) (loc : Loc) : Bool :=
  match loc with
  | .packed frame off =>
    let at_ := frame + 64 * (off / 32)
    c.s.poisoned (at_ + 32) && c.s.mem.read c.s.tick at_ == 2
  | _ => false

/-- The leaf that translates an address, for a fault record. -/
def Ctx.leafOf (c : Ctx) (va : Nat) (k : AccKind) : Leaf :=
  match c.resolve va k with
  | .ok ((_, l), _) => l
  | .error _ => .none

/-- UNCORR of a store to part of a compressed sector whose slot would reach into a poisoned sector (R380, R403); `c'`
is the machine after the store. -/
def Ctx.grows (c : Ctx) (va : Nat) (k : AccKind) (loc : Loc) (whole : Option (Nat × Nat)) (c' : Ctx) :
    Got (Unit × Ctx) :=
  if c'.rawLost loc && !coversSector whole va then
    let l := c.leafOf va k
    .error (.fault (hallFault k causeUncorr va l.entry 4 l.level) c)
  else .ok ((), c)

/-- The checks of a store of n bytes, and of the value that it is to write. -/
def Ctx.checkedStore (c : Ctx) (va n : Nat) (k : AccKind) (whole : Option (Nat × Nat)) (val : Ctx → Loc → Nat) :
    Got (Loc × Ctx) := do
  let (loc, c) ← c.checked va n k whole
  let (_, c) ← c.grows va k loc whole (c.writeLoc loc n (val c loc))
  .ok (loc, c)

/-- A write that gets no acknowledgement leaves the old value or the one written (R395): whether `put` has been done
at the place where it would have been is a free value. DESIGN CHOICE (log entry 45). -/
def Ctx.unacked (c : Ctx) (va : Nat) (k : AccKind) (put : Loc → Ctx → Ctx) : MemStop → MemStop
  | .fault f c' =>
    match c.h.noAck && !c'.h.noAck && f.info.reason == 7 && Config.choice c.s.tick (395 + va) % 2 == 1,
        c.resolve va k with
    | true, .ok ((loc, _), _) => .fault f (put loc c')
    | _, _ => .fault f c'
  | .wait sent c' => .wait sent c'

/-- A location in generic memory (R174, R231, R136). -/
def Loc.isGeneric : Loc → Bool
  | .phys _ => true | .packed _ _ => true | _ => false

/-- The word at the hart's PC (R78, R296): a fetch fault has detail 2. -/
def Ctx.fetch (c : Ctx) (pc : Word) : Got (Nat × Ctx) := do
  let (loc, c) ← c.checked pc.toNat 4 .fetch none
  .ok (c.readLoc loc 4, c)

end Sys2Proof.Machine
end

