-- ==== Sys2Proof/Machine/Transfer.lean ====
section
/-!
DEFINITION. Engine copies (R239, R242), the address-range interlock between a hart's accesses and its own
engine transfers (R260, R261), and with it the hart's loads and stores (R115).
-/
namespace Sys2Proof.Machine

/-! ### Ranges of bytes -/

/-- A range cut at the multiples of 32, in order: (address, bytes) pieces. `fuel` bounds their number. -/
def pieces : (fuel a len : Nat) → List (Nat × Nat)
  | 0, _, _ => []
  | fuel + 1, a, len =>
    if len == 0 then []
    else
      let n := min len (32 - a % 32)
      (a, n) :: pieces fuel (a + n) (len - n)

/-- The pieces of a range of `len` bytes at `a`. -/
def piecesOf (a len : Nat) : List (Nat × Nat) := pieces (len / 32 + 2) a len

/-- The translation of a page that the transfer being performed already holds, or a walk, whose leaf it then holds
until it ends (R378). -/
def Ctx.pinnedResolve (c : Ctx) (a : Nat) (k : AccKind) : Got ((Loc × Leaf) × Ctx) :=
  match heldPage c.h.held a k with
  | some p => locate c a k c.s p.level p.entry
  | none => do
    let ((loc, l), c) ← c.translate a k
    if l.level == 0xFF then .ok ((loc, l), c)
    else .ok ((loc, l), { c with h := { c.h with held := l.page a k :: c.h.held } })

/-- An access for a transfer, of which the hart's own wait for the link says nothing (R339). -/
def Ctx.asEngine {α : Type} (c : Ctx) (f : Ctx → Got (α × Ctx)) : Got (α × Ctx) :=
  let back := fun (c' : Ctx) => ({ c' with h := { c'.h with timedOut := c.h.timedOut } } : Ctx)
  match f { c with h := { c.h with timedOut := false } } with
  | .ok (x, c') => .ok (x, back c')
  | .error (.fault g c') => .error (.fault g (back c'))
  | .error (.wait sent c') => .error (.wait sent (back c'))

/-- Where a piece of an engine transfer lies; scalar data memory is PERM (R242). -/
def Ctx.enginePlace (c : Ctx) (a₀ : Nat) (k : AccKind) (whole : Option (Nat × Nat)) : Got (Loc × Ctx) :=
  let a := a₀ % 2 ^ 64
  c.asEngine (fun c => do
    let ((loc, l), c) ← c.pinnedResolve a k
    match loc with
    | .sdata _ => .error (.fault (plainFault causePerm k.detail a) c)
    | _ =>
      let (_, c) ← c.reach a k loc l whole
      .ok (loc, c))

/-- The bytes of the pieces of a range, in order. -/
def Ctx.readPieces (c : Ctx) : List (Nat × Nat) → Got (List Byte × Ctx)
  | [] => .ok ([], c)
  | (a, n) :: rest => do
    let (loc, c) ← c.enginePlace a .load none
    let (bs, c) ← c.readPieces rest
    .ok (leBytes n (c.readLoc loc n) ++ bs, c)

/-- Check that bytes can be written over the pieces of a destination. -/
def Ctx.checkPieces (c : Ctx) (whole : Nat × Nat) (bytes : List Byte) : List (Nat × Nat) → Got (Unit × Ctx)
  | [] => .ok ((), c)
  | (a, n) :: rest => do
    let (loc, c) ← c.enginePlace a .store (some whole)
    let (_, c) ← c.grows a .store loc (some whole) (c.writeLoc loc n (leValue (bytes.take n)))
    c.checkPieces whole (bytes.drop n) rest

/-- Write bytes over the pieces of a range. -/
def Ctx.writePieces (c : Ctx) (whole : Nat × Nat) (bytes : List Byte) : List (Nat × Nat) → Got (Unit × Ctx)
  | [] => .ok ((), c)
  | (a, n) :: rest => do
    let (loc, c) ← c.enginePlace a .store (some whole)
    (c.putLoc loc a n (leValue (bytes.take n)) (some whole)).writePieces whole (bytes.drop n) rest

/-- The bytes of a range, read as an engine reads them. -/
def Ctx.readRange (c : Ctx) (a len : Nat) : Got (List Byte × Ctx) := c.readPieces (piecesOf a len)

/-- Check that bytes can be written to a range. -/
def Ctx.checkRange (c : Ctx) (a : Nat) (bytes : List Byte) : Got (Unit × Ctx) :=
  c.checkPieces (a, a + bytes.length) bytes (piecesOf a bytes.length)

/-- Write bytes to a range, after every piece has been checked. -/
def Ctx.writeRange (c : Ctx) (a : Nat) (bytes : List Byte) : Got (Unit × Ctx) := do
  let (_, c) ← c.checkRange a bytes
  c.writePieces (a, a + bytes.length) bytes (piecesOf a bytes.length)

/-- Where a piece of a transfer's destination lies, if the transfer may write there; whether link and fabric reach it
does not matter. -/
def Ctx.spoilPlace (c : Ctx) (a : Nat) : Option Loc :=
  match heldPage c.h.held a .store with
  | some p => some (leafPlace a p.level p.entry)
  | none =>
    match c.placeOf a (AccKind.permitted .store) with
    | some (.sdata _) => none
    | r => r

/-- Make a whole destination range undefined, wherever there is memory (R242). DEDUCED (log entry 32). -/
def Ctx.spoilRange (c : Ctx) (a len : Nat) : Ctx :=
  forEach (piecesOf a len) c (fun (c : Ctx) (b, n) =>
    match c.spoilPlace (b % 2 ^ 64) with
    | some loc => c.spoilLoc loc n
    | none => c)

/-! ### Copies (R239) -/

/-- Perform a copy: every source byte is read before any destination byte is written.
DEDUCED (log entry 31). -/
def Ctx.runCopy (c : Ctx) (dst src len : Nat) (zero : Bool) : Got (Unit × Ctx) := do
  let (bytes, c) ← if zero then .ok (List.replicate len 0, c) else c.readRange src len
  c.writeRange dst bytes

/-- Write a tag of the hart. -/
def Ctx.setTagState (c : Ctx) (t : Slot) (st : TagState) : Ctx :=
  { c with h := { c.h with tags := c.h.tags.set t st } }

/-- How an attempt to perform a copy ends. -/
inductive Moved where
  /-- Its reads and writes are performed, or it has failed and its tag says so. -/
  | ended (c : Ctx)
  /-- It waits for the link, or for the hall to resolve a fault. -/
  | waits

/-- The detail of a failed transfer: 0 for a read, 1 for a write (R242). -/
def MemFault.failDetail (f : MemFault) : Nat := if f.cause == causeUncorr then f.info.kind else f.detail

/-- Fail a tag (R242): the destination becomes undefined. -/
def Ctx.failTag (c : Ctx) (t : Slot) (dst len : Nat) (f : MemFault) : Ctx :=
  let c := (c.spoilRange dst len).setTagState t (.failed f.cause f.failDetail f.addr)
  { c with h := { c.h with held := [] } }

/-- A fault for which a transfer waits: UNCORR fails it at once (R383). -/
def MemFault.stalls (f : MemFault) : Bool := f.info.resolvable && f.cause != causeUncorr

/-- The hall has been told of the fault that a transfer waits on. -/
def State.faultKnown (s : State) (k : Nat) (src : FaultSource) : Bool :=
  s.hall.faults.any (fun f => f.hart == k && f.source == src && !f.closed)

/-- The machine in which a transfer is performed with the pages that it holds. -/
def Ctx.withPages (c : Ctx) (f : Flight) : Ctx := { c with h := { c.h with held := f.pages } }

/-- A transfer comes to rest: its tag keeps the pages it has translated. -/
def Ctx.keepPages (c : Ctx) (t : Slot) (f : Flight) : Ctx :=
  let c' := c.setTagState t (.busy { f with pages := c.h.held })
  { c' with h := { c'.h with held := [] } }

/-- Perform the copy of tag t of hart k, which stays busy until its end; one that waits for the hall's answer is not
tried again before it comes (R381). DEDUCED (log entry 31). -/
def Ctx.performTag (c : Ctx) (k : Nat) (t : Slot) (f : Flight) (dst src len : Nat) (zero : Bool) : Moved :=
  if c.s.faultKnown k (.engine t.val) then .waits
  else
    match (c.withPages f).runCopy dst src len zero with
    | .ok (_, c) => .ended (c.keepPages t { f with done := true, since := none })
    | .error (.wait _ _) => .waits
    | .error (.fault g c') => if g.stalls then .waits else .ended (c'.failTag t dst len g)

/-! ### The interlock (R260, R261) -/

/-- Two byte ranges share a byte. -/
def overlap (a n b m : Nat) : Bool := decide (a < b + m) && decide (b < a + n)

/-- The size of a value of a collective's type (R247). -/
def collSize (typ : Nat) : Nat :=
  match typ with
  | 0x0C | 0x04 | 0x08 => 8
  | _ => 4

/-- The length of a collective's result in bytes. -/
def CollDesc.dstLen (d : CollDesc) : Nat :=
  match d.op with
  | 3 => 8 * d.k
  | 4 => d.count
  | _ => collSize d.typ * d.count

/-- An access conflicts with a transfer: it touches bytes the transfer writes, or writes bytes the transfer
reads. -/
def Transfer.conflicts (a n : Nat) (store : Bool) : Transfer → Bool
  | .copy dst src len zero =>
    overlap a n dst len || (store && !zero && overlap a n src len)
  | .coll d _ =>
    overlap a n d.dst d.dstLen || overlap a n d.status 16 || (store && overlap a n d.src d.srcLen)

/-- Transfer `u` of a hart, which comes later, conflicts with `t` (R260). -/
def Transfer.after (u t : Transfer) : Bool :=
  match u with
  | .copy dst src len zero => t.conflicts dst len true || (!zero && t.conflicts src len false)
  | .coll d _ => t.conflicts d.dst d.dstLen true || t.conflicts d.status 16 true || t.conflicts d.src d.srcLen false

/-- The transfers of a hart that are not yet performed, in program order. -/
def Hart.pending (h : Hart) : List (Slot × Flight) :=
  sortBy (fun a b => decide (a.2.seq < b.2.seq)) ((List.finRange 16).filterMap (fun t =>
    match h.tags[t] with
    | .busy f => if f.done then none else some (t, f)
    | _ => none))

/-- Of transfers in program order, those that `p` picks and the earlier ones that these conflict with. -/
def needed (p : Transfer → Bool) : List (Slot × Flight) → List (Slot × Flight)
  | [] => []
  | (t, f) :: rest =>
    let later := needed p rest
    if p f.transfer || later.any (fun u => u.2.transfer.after f.transfer) then (t, f) :: later else later

/-- Perform copies of hart k in order; wait where one cannot be performed yet, and for a collective. -/
def Ctx.performAll (k : Nat) : List (Slot × Flight) → Ctx → Got (Unit × Ctx)
  | [], c => .ok ((), c)
  | (t, f) :: rest, c =>
    match f.transfer with
    | .coll _ _ => .error (.wait none c)
    | .copy dst src len zero =>
      match c.performTag k t f dst src len zero with
      | .ended c => Ctx.performAll k rest c
      | .waits => .error (.wait none c)

/-- Perform the busy copies of hart k that `p` picks, with the earlier ones they depend on, in program order; wait
where one cannot be performed yet, and where a picked collective is busy. DEDUCED (log entry 31). -/
def Ctx.settleTags (c : Ctx) (k : Nat) (p : Transfer → Bool) : Got (Unit × Ctx) :=
  Ctx.performAll k (needed p c.h.pending) c

/-- Perform what the transfer at place `seq` of hart k must not overtake (R260). -/
def Ctx.settleBefore (c : Ctx) (k seq : Nat) (u : Transfer) : Got (Unit × Ctx) :=
  Ctx.performAll k (needed u.after (c.h.pending.filter (fun x => decide (x.2.seq < seq)))) c

/-- An access of the hart waits for what it depends on of its own transfers (R261).
DESIGN CHOICE (log entry 3). DEDUCED (log entry 31). -/
def Ctx.interlock (c : Ctx) (a n : Nat) (store : Bool) : Got (Unit × Ctx) :=
  c.settleTags c.s.cur (Transfer.conflicts a n store)

/-! ### Loads and stores (R115) -/

/-- mem_n[a] read by the hart, n in bytes. -/
def Ctx.load (c : Ctx) (va n : Nat) : Got (Nat × Ctx) := do
  let (_, c) ← c.interlock va n false
  let (loc, c) ← c.checked va n .load none
  .ok (c.readLoc loc n, c)

/-- mem_n[a] := v by the hart, n in bytes; `whole` is the range that one store writes whole (R403). -/
def Ctx.store (c : Ctx) (va n v : Nat) (whole : Option (Nat × Nat)) : Got (Unit × Ctx) := do
  let (_, c) ← c.interlock va n true
  let put := fun (loc : Loc) (c : Ctx) => c.putLoc loc va n v whole
  let (loc, c) ← (c.checkedStore va n .store whole (fun _ _ => v)).mapError (c.unacked va .store put)
  .ok ((), put loc c)

/-- A transfer that has reached host memory. -/
def Flight.touchesHost (f : Flight) : Bool := f.pages.any (fun p => isHostAddr (entryAddr p.entry))

/-- A release waits for every earlier engine transfer of the hart: performed at its scope, and ended when the scope is
DOMAIN (R265) or it has accessed host memory (R276). DESIGN CHOICE (log entry 3). -/
def Ctx.releaseWait (c : Ctx) (scope : Scope) : Got (Unit × Ctx) := do
  let (_, c) ← c.settleTags c.s.cur (fun _ => true)
  let waits := c.h.tags.toList.any (fun t => match t with
    | .busy f => scope == .domain || f.touchesHost
    | _ => false)
  if waits then .error (.wait none c) else .ok ((), c)

/-- An atomic's address lies in host memory. -/
def Ctx.isHost (c : Ctx) (va : Nat) : Bool :=
  match c.resolve va .both with
  | .ok ((.phys pa, _), _) => isHostAddr pa
  | _ => false

end Sys2Proof.Machine
end

