-- ==== Sys2Proof/Machine/Ops.lean ====
section
/-!
DEFINITION. What an instruction of a hart comes to, taking a trap as one shared operation (R284, R288 to
R291) with the return from one beside it (R122, R286), and the common frame of every hart instruction:
the prefix rules (R93 to R95), VTYPE.ILL (R30) and the VFETCH that must follow LSPLIT (R228).
-/
namespace Sys2Proof.Machine

/-! ### Traps -/

/-- What the hall is told when there is no translation fault. -/
def noInfo : FaultInfo := ⟨0, 0, 0, 0xFF, false⟩

/-- A trap raised at issue, with nothing in TADDR and TELEM. -/
def Trap.plain (cause detail : Nat) : Trap := ⟨cause, detail, 0, 0, none, noInfo, false, false⟩

/-- ILLEGAL with a detail (R96). -/
def Trap.illegal (detail : Nat) : Trap := .plain causeIllegal detail
/-- ILLCFG with a detail (R288). -/
def Trap.illcfg (detail : Nat) : Trap := .plain causeIllcfg detail

/-- The trap of a memory fault at an element. -/
def MemFault.trap (f : MemFault) (elem : Nat) (idx : Option Nat) : Trap :=
  ⟨f.cause, f.detail, f.addr, elem, idx, f.info, false, false⟩

/-- FPX (R288): the detail is the FPCSR bit of the flag. -/
def Trap.fpx (flag elem : Nat) (idx : Option Nat) : Trap :=
  ⟨causeFpx, flag, 0, elem, idx, noInfo, false, false⟩

/-- Causes bound for the hall (R288): PAGE, PERM, UNCORR, SYSC. -/
def hallBound (cause : Nat) : Bool :=
  cause == causePage || cause == causePerm || cause == causeUncorr || cause == causeSysc

/-- Some valid window entry names distance d (R286). -/
def Hart.named (h : Hart) (d : Nat) : Bool := h.win.toList.any (fun w => winValid w && winDist w == d)

/-- The entries of the younger instructions of the window, and the distance of the first word not issued: the next
one when the window has not been looked at (R284). -/
def Hart.younger (h : Hart) (before : Nat) : List Word × Nat :=
  match h.drain with
  | none => ([], before + 1)
  | some d => (d.entries.map (fun (dist, idx) => winEntry dist 0 idx), d.nxt)

/-- The window registers when the instruction at the PC stays unfinished with resume index `idx`; `before` is
1 when a PFX stands before it. The younger instructions of the window follow it, or the entries of an interrupted
replay (R284, R286). DEDUCED (log entry 14). -/
def Hart.unfinished (h : Hart) (before idx : Nat) : Hart :=
  match h.replay with
  | none =>
    let (rest, nxt) := h.younger before
    { h.setWin (winEntry before nxt idx :: rest) with vstart := idx }
  | some rp =>
    let d0 := rp.d - before
    { h.setWin (winEntry before (rp.n - d0) idx :: h.entriesFrom (rp.d + 1) d0) with
      vstart := idx
      replay := none }

/-- The window registers when a word that no entry names faults during a replay: the entries still to
come stay unfinished (R286). -/
def Hart.keepEntries (h : Hart) (before : Nat) : Hart :=
  match h.replay with
  | none => h.setWin []
  | some rp =>
    let d0 := rp.d - before
    match h.nextEntry rp.d with
    | none => { h.setWin [] with replay := none }
    | some (dist, idx) =>
      { h.setWin (winEntry (dist - d0) (rp.n - d0) idx :: h.entriesFrom (dist + 1) d0) with
        vstart := if idx == winSkip then h.vstart else idx
        replay := none }

/-- A trap between LSPLIT and a VFETCH that has not started its run leaves lane-thread mode; the return to
the VFETCH comes back to it (R228, R235, R367), after VFETCH's own trap too. DEDUCED (log entry 36). -/
def Hart.leaveSplit (h : Hart) : Hart :=
  if h.split then { h with lt := false, split := false, vfetchAt := some h.pc } else h

/-- The registers a trap writes (R95, R284, R286, R288): TPC is the instruction, or its PFX; WIN0 names
the instruction when it was unfinished. DEDUCED (log entries 14, 15). -/
def Hart.takeTrap (h₀ : Hart) (t : Trap) : Hart :=
  let h := h₀.leaveSplit
  let before := if h.pfx.isSome && !t.atSelf then 1 else 0
  let tpc := h.pc - BitVec.ofNat 64 (4 * before)
  let cause := BitVec.ofNat 64 (256 * t.detail + t.cause)
  let h1 : Hart := match t.idx, h.replay with
    | some idx, _ => h.unfinished before idx
    | none, some rp => if h.named rp.d then h.unfinished before h.vstart else h.keepEntries before
    | none, none => h.setWin []
  { h1 with
    tpc := tpc
    tcause := cause
    taddr := t.addr
    telem := BitVec.ofNat 64 t.elem
    pfx := none
    waits := false
    sentAt := none
    sentPage := none
    windowed := true
    ahead := []
    drain := none }

/-- Two lists differ where both hold something. -/
def differ {α : Type} [DecidableEq α] (a b : List (Option α)) : Bool :=
  (a.zip b).any (fun (x, y) => x.isSome && y.isSome && x != y)

/-- The words of a span, as memory holds them. -/
def Ctx.spanWords (c : Ctx) (pc : Word) (n : Nat) : List (Option Nat) :=
  (List.range n).map (fun d => c.peek (pc + BitVec.ofNat 64 (4 * d)).toNat 4)

/-- Hart `h` after a stop of `c` at the resume PC `pc`: what a replay of it relies on is noted (R287). One whose span had
been changed already stays so. -/
def Ctx.noteSpan (c : Ctx) (h : Hart) (pc : Word) : Hart :=
  let rest := h.spans.filter (fun s => s.pc != pc)
  if winValid h.win[0] then
    let n := fld h.win[0].toNat 40 8
    { h with spans := ⟨pc, n, h.win.toList, c.spanWords pc n, h.x, h.v.toList.map (·.tag), h.vtype, h.vrows, h.vcols,
        h.sb, c.h.replay.isSome && c.h.span.any (·.broken)⟩ :: rest }
  else { h with spans := rest }

/-- The hart that a trap leaves: the registers it writes, and what a replay will rely on. -/
def Ctx.trapHart (c : Ctx) (t : Trap) : Hart :=
  let h := c.h.takeTrap t
  c.noteSpan h h.tpc

/-- What the launch reports of a hart that ends on a trap (R343, R345). -/
def Hart.failure (h : Hart) (status : Nat) : Failure :=
  ⟨status, fld h.tcause.toNat 0 8, h.hartid.toNat, fld h.tcause.toNat 0 12, h.tpc⟩

/-- The record STATE of a hard stop: 3 with the window open, else 2 (R367). -/
def Hart.stopState (h : Hart) : Nat := if h.cwo == 0 then 2 else 3

/-- A fault handed to the hall takes the next fault id (R381). -/
def State.addFault (s : State) (k : Nat) (src : FaultSource) (cause : Nat) (va : Word)
    (info : FaultInfo) : State :=
  s.mapHall (fun a => { a with
    faults := a.faults ++ [⟨a.nextFid, k, src, cause, va, info, false, false⟩]
    nextFid := a.nextFid + 1 })

/-- Enter a trap on hart k: the one shared operation of every exception (R290, R291). To TVEC when the
cause goes there and TVEC ≠ 0; with TVEC = 0 the hart ends with STATUS 1. Bound for the hall, the hart
stops as by a hard stop: a SYSC waits for its answer, a fault the hall can resolve parks the hart, and any
other fault ends it with STATUS 2 (R383). -/
def enterTrap (k : Nat) (c : Ctx) (t : Trap) : State :=
  let h := c.trapHart t
  if !hallBound t.cause || t.toTvec then
    if h.tvec != 0 then c.s.setHart k { h with pc := h.tvec }
    else c.s.failHart k h (h.failure 1)
  else if t.cause == causeSysc then c.s.hardStop k h .inSysc h.stopState h.tpc
  else if t.info.resolvable then
    let h := { h with fault := some t.info }
    (c.s.hardStop k h .parked 4 h.tpc).addFault k .hart t.cause t.addr t.info
  else
    (c.s.mapHall (fun a => { a with hstops := a.hstops + 1 })).failHart k h (h.failure 2)

/-- Younger instructions may have begun behind one that stays unfinished (R284): not during a replay, and only as
far as the hart's `ahead` says. DEDUCED (log entry 14). -/
def Hart.opens (h : Hart) : Bool := h.replay.isNone && !h.ahead.isEmpty && h.drain.isNone

/-- The window is looked at before a trap or a stop is taken; Machine/Window.lean does it in the same step. -/
def Hart.draining (h : Hart) (t : Option Trap) (idx : Nat) : Hart :=
  { h with drain := some ⟨t, idx, [], bool01 h.pfx.isSome + 1⟩ }

/-- Take a trap on hart k: at once, or once the window behind a window instruction has come to rest (R284). -/
def deliverTrap (k : Nat) (c : Ctx) (t : Trap) : State :=
  match t.idx with
  | some idx => if c.h.opens then c.s.setHart k (c.h.draining (some t) idx) else enterTrap k c t
  | none => enterTrap k c t

/-! ### Outcomes -/

/-- What an instruction of a hart comes to. -/
inductive HRes where
  /-- It completes; the hart goes on at PC + 4. -/
  | done (c : Ctx)
  /-- It completes with a control transfer. -/
  | goto (c : Ctx) (pc : Word)
  /-- It traps, with what it has already done. -/
  | trap (c : Ctx) (t : Trap)
  /-- It waits: the hart stays at the instruction. -/
  | hold (c : Ctx)
  /-- A PFX completes: the prefix is pending for PC + 4. -/
  | arm (c : Ctx) (word : BitVec 32)
  /-- It returns from a program trap to a PC (R122). -/
  | ret (c : Ctx) (pc : Word)
  /-- A hard stop fell inside it, at a resume index (R281, R292). -/
  | stop (c : Ctx) (idx : Nat)
  /-- The hart has been stopped or ended. -/
  | left (s : State)

/-- After an instruction of a replay: the next distance, and at the last one WIN0 to WIN3 := 0 (R286). -/
def Hart.stepReplay (h : Hart) : Hart :=
  match h.replay with
  | none => h
  | some rp =>
    if rp.n ≤ rp.d + 1 then h.closeWindow
    else { h with replay := some { rp with d := rp.d + 1 } }

/-- An instruction that has completed uses its prefix up, and waits no longer. -/
def Hart.issued (h : Hart) : Hart := { h with pfx := none, waits := false, sentAt := none, sentPage := none }

/-- The hart after an instruction that completes: PC + 4, the prefix used up. -/
def Hart.advance (h : Hart) : Hart := { h.issued with pc := h.pc + 4 }.stepReplay

/-- The hart after a control transfer; it ends a replay. -/
def Hart.jump (h : Hart) (pc : Word) : Hart :=
  match h.replay with
  | none => { h.issued with pc := pc }
  | some _ => { h.issued.closeWindow with pc := pc }

/-- The hart between a PFX and its successor (R95). -/
def Hart.armed (h : Hart) (word : BitVec 32) : Hart :=
  { h.issued with pc := h.pc + 4, pfx := some word }.stepReplay

/-- The hart at an instruction that has issued and waits: PP reads 0 (R95). -/
def Hart.waiting (h : Hart) : Hart := if h.pfx.isSome then { h with waits := true } else h

/-- The word at distance d of a replay is a PFX. -/
def Ctx.isPfxAt (c : Ctx) (base : Word) (d : Nat) : Bool :=
  match c.fetch (base + BitVec.ofNat 64 (4 * d)) with
  | .ok (w, _) => fld w 26 6 == 1
  | .error _ => false

/-- A word of the majors whose instructions enter the chain window (R277). -/
def windowMajor (m : Nat) : Bool :=
  (decide (0x16 ≤ m) && decide (m ≤ 0x21)) || (decide (0x23 ≤ m) && decide (m ≤ 0x25)) ||
    (decide (0x27 ≤ m) && decide (m ≤ 0x29)) || m == 0x2B || m == 0x2D

/-- The word at the PC is a window instruction. -/
def Ctx.atWindow (c : Ctx) : Bool :=
  match c.fetch c.h.pc with
  | .ok (w, _) => windowMajor (fld w 26 6)
  | .error _ => false

/-- Stop hart k inside the instruction at its PC, which stays unfinished at index `idx` (R284, R292). -/
def Ctx.stopInside (c : Ctx) (k idx : Nat) : State :=
  let before := bool01 c.h.pfx.isSome
  let rpc := c.h.pc - BitVec.ofNat 64 (4 * before)
  let h := { c.h.unfinished before idx with pfx := none, pc := rpc, windowed := true, ahead := [], drain := none }
  c.s.hardStop k (c.noteSpan h rpc) .stopped 3 rpc

/-- Stop hart k as a hard stop at an instruction boundary (R292): nothing is unfinished, so that WIN0 to WIN3
become 0; an interrupted replay keeps the entries it has not yet issued (R286). An instruction that has issued under
a prefix and waits has used the prefix up: a window instruction is unfinished, any other runs again without it
(R95). DEDUCED (log entry 54). -/
def Ctx.stopNow (c : Ctx) (k : Nat) : State :=
  match c.h.replay with
  | some rp =>
    let h := c.h.foldReplay (c.isPfxAt rp.base)
    c.s.hardStop k (c.noteSpan h h.pc) .stopped h.stopState h.pc
  | none =>
    if c.h.pfx.isSome && c.h.waits && c.atWindow then c.stopInside k c.h.vstart
    else
      let h := c.h.closeWindow
      let h := if h.waits then { h with pfx := none } else h
      c.s.hardStop k h .stopped 2 h.pc

/-- Write a hart back at an instruction boundary; a hard stop that waited for the boundary falls here
(R292), but not in lane-thread mode (R235). -/
def Ctx.boundary (c : Ctx) (k : Nat) : State :=
  if c.h.stopAt.isSome && !c.h.lt then c.stopNow k else c.s.setHart k c.h

/-- The machine after an instruction of hart k. DEDUCED (log entry 14). -/
def settle (k : Nat) : HRes → State
  | .done c => Ctx.boundary { c with h := c.h.advance } k
  | .goto c pc => Ctx.boundary { c with h := c.h.jump pc } k
  | .trap c t => deliverTrap k c t
  | .hold c => Ctx.boundary { c with h := c.h.waiting } k
  | .arm c w => Ctx.boundary { c with h := c.h.armed w } k
  | .ret c pc => Ctx.boundary { c with h := c.h.issued.resumeAt pc } k
  | .stop c idx => if c.h.opens then c.s.setHart k (c.h.draining none idx) else c.stopInside k idx
  | .left s => s

/-! ### The return from a trap -/

/-- The return beside `deliverTrap` (R122): to TPC, or MISALIGN when TPC is not a word's address. -/
def returnFromTrap (c : Ctx) : HRes :=
  if c.h.tpc.toNat % 4 != 0 then .trap c { Trap.plain causeMisalign 1 with addr := c.h.tpc }
  else .ret c c.h.tpc

/-! ### The frame of every hart instruction -/

/-- The hart issues instructions: it runs, and it waits for no lane-thread run (R230). -/
def Hart.canIssue (h : Hart) : Bool := h.status == .running && h.run.isNone

/-- The pending prefix admits instruction i as its successor (R94). -/
def Hart.prefixAdmits (h : Hart) (i : Instr) : Bool :=
  match h.pfx with
  | none => true
  | some w =>
    let copy := fld w.toNat 15 6
    i.takesPrefix (fld w.toNat 22 4) (bitAt w.toNat 21) (if copy == 63 then none else some copy)

/-- What an instruction comes to, with its hart changed. -/
def HRes.mapHart (g : Hart → Hart) : HRes → HRes
  | .done c => .done { c with h := g c.h }
  | .goto c pc => .goto { c with h := g c.h } pc
  | .trap c t => .trap { c with h := g c.h } t
  | .hold c => .hold { c with h := g c.h }
  | .arm c w => .arm { c with h := g c.h } w
  | .ret c pc => .ret { c with h := g c.h } pc
  | .stop c idx => .stop { c with h := g c.h } idx
  | .left s => .left s

/-- A trap that a tag can cause (R26, R410). -/
def HRes.tagTrap : HRes → Bool
  | .trap _ t => t.cause == causeIllcfg || (t.cause == causeIllegal && t.detail == 7)
  | _ => false

/-- The registers that an instruction names, and V47, whose tag is undefined. -/
def Hart.looseTags (h : Hart) (i : Instr) : List VReg :=
  (List.finRange 48).filter (fun r => h.v[r].tag.isNone && (r == scaleReg || i.vregs.contains r.val))

/-- Every choice of patterns for the undefined tags of some registers, from the ones read first. -/
def tagDraws : List VReg → List Nat
  | [] => [0]
  | r :: rs => (List.range 64).flatMap (fun n => (tagDraws rs).map (fun d => n * 64 ^ r.val + d))

/-- The instruction's own effect: an undefined tag raises no trap where it is read (R7), so that where it would, it
reads as the first pattern that does not. DESIGN CHOICE (log entry 7). -/
def withTags (i : Instr) (c : Ctx) (f : Ctx → HRes) : HRes :=
  let r := f c
  let loose := c.h.looseTags i
  if r.tagTrap && !loose.isEmpty then
    let at_ := fun (d : Nat) => f { c with h := { c.h with tagDraw := d } }
    match (tagDraws loose).find? (fun d => !(at_ d).tagTrap) with
    | some d => (at_ d).mapHart (fun h => { h with tagDraw := 0 })
    | none => r
  else r

/-- A word other than VFETCH after LSPLIT is ILLEGAL, detail 4, and clears LT (R228); NOMAT and NOOP come first
(R98). -/
def afterSplit (c : Ctx) : HRes → HRes
  | .trap c' t => if t.cause == causeNomat || t.cause == causeNoop then .trap c' t
    else .trap { c with h := { c.h with lt := false, split := false } } (.illegal 4)
  | _ => .trap { c with h := { c.h with lt := false, split := false } } (.illegal 4)

/-- Checks common to every instruction, in the order of R98: the successor rules of R94, VTYPE.ILL, and
the VFETCH after LSPLIT; then the instruction's own effect `f`. -/
def issue (i : Instr) (c : Ctx) (f : Ctx → HRes) : HRes :=
  if !c.h.prefixAdmits i then
    .trap c { Trap.illegal 3 with atSelf := true }
  else if i.usesVtype && c.h.vill then .trap c (.illcfg 0)
  else if c.h.split && !i.isVfetch then afterSplit c (f c)
  else withTags i c f

/-- An instruction of the hart whose turn it is. DEDUCED (log entry 13). -/
def runHart (i : Instr) (s : State) (f : Ctx → HRes) : Result :=
  match s.harts[s.cur]? with
  | none => .fault .noHart
  | some h => if h.canIssue then .next (settle s.cur (issue i ⟨h, s⟩ f)) else .fault .noHart

/-- An instruction that only writes registers of the hart. -/
def Ctx.put (c : Ctx) (h : Hart) : HRes := .done { c with h := h }

/-- An instruction that writes one X register. -/
def Ctx.putX (c : Ctx) (d : XReg) (w : Word) : HRes := .done { c with h := c.h.setX d w }

/-- The hart waits. Of an access that was sent to a link that is down the moment is noted (R339), and the page that it
has translated, which it keeps (R378). -/
def Ctx.sending (c : Ctx) : Option (Nat × AccKind) → Ctx
  | none => { c with h := { c.h with sentAt := none } }
  | some (va, k) =>
    let sentAt := c.h.sentAt.or (some c.s.hall.hcnt)
    match c.resolve va k with
    | .ok ((_, l), c') => ⟨{ c.h with sentAt := sentAt, sentPage := some (l.page va k) }, c'.s⟩
    | .error _ => { c with h := { c.h with sentAt := sentAt } }

/-- The instruction waits for its access. -/
def Ctx.holds (c : Ctx) (sent : Option (Nat × AccKind)) : HRes := .hold (c.sending sent)

/-- An instruction over an access: the access's faults become traps at no element. -/
def onMem {α : Type} (c : Ctx) (r : Got (α × Ctx)) (f : α → Ctx → HRes) : HRes :=
  match r with
  | .ok (a, c') => f a c'
  | .error (.wait sent _) => c.holds sent
  | .error (.fault m c') => .trap c' (m.trap 0 none)

/-! ### Events -/

/-- A turn of an event that takes `s` to `t`; an event whose conditions do not hold cannot occur, and its
turn passes with no effect. DEDUCED (log entry 13). -/
def whenEnabled (s : State) (ok : Bool) (t : State) : Result := .next (if ok then t else s)

end Sys2Proof.Machine
end

