-- ==== Sys2Proof/Machine/LoadStore.lean ====
section
/-!
DEFINITION. Scalar loads and stores, acquire loads and release stores (R115, R130, R131, R265, R266).
`eff…` is the effect on a hart or on a virtual processor (R231); `exec…` is the instruction of a hart.
-/
namespace Sys2Proof.Machine

/-- a = xa + sext(off13, 13) (R130). -/
def Hart.address (h : Hart) (a : XReg) (off : BitVec 13) : Nat := (h.getX a + sext 13 off.toNat).toNat

/-- xd := f(mem_n[va]), n in bytes; a faulting load leaves xd as it was. -/
def Ctx.loadX (c : Ctx) (d : XReg) (va n : Nat) (f : Nat → Word) : HRes :=
  onMem c (c.load va n) (fun v c => c.putX d (f v))

/-- mem_n[va] := xs. -/
def Ctx.storeX (c : Ctx) (x : XReg) (va n : Nat) : HRes :=
  onMem c (c.store va n (c.h.getU x) none) (fun _ c => .done c)

/-! ### Instructions -/

/-- LB (R130). -/
def effLb (d a : XReg) (off : BitVec 13) (c : Ctx) : HRes :=
  c.loadX d (c.h.address a off) 1 (fun v => sext 8 v)
/-- LB of a hart (R130). -/
def execLb (d a : XReg) (off : BitVec 13) (s : State) : Result := runHart (.lb d a off) s (effLb d a off)

/-- LBU (R130). -/
def effLbu (d a : XReg) (off : BitVec 13) (c : Ctx) : HRes :=
  c.loadX d (c.h.address a off) 1 (fun v => BitVec.ofNat 64 v)
/-- LBU of a hart (R130). -/
def execLbu (d a : XReg) (off : BitVec 13) (s : State) : Result := runHart (.lbu d a off) s (effLbu d a off)

/-- LH (R130). -/
def effLh (d a : XReg) (off : BitVec 13) (c : Ctx) : HRes :=
  c.loadX d (c.h.address a off) 2 (fun v => sext 16 v)
/-- LH of a hart (R130). -/
def execLh (d a : XReg) (off : BitVec 13) (s : State) : Result := runHart (.lh d a off) s (effLh d a off)

/-- LHU (R130). -/
def effLhu (d a : XReg) (off : BitVec 13) (c : Ctx) : HRes :=
  c.loadX d (c.h.address a off) 2 (fun v => BitVec.ofNat 64 v)
/-- LHU of a hart (R130). -/
def execLhu (d a : XReg) (off : BitVec 13) (s : State) : Result := runHart (.lhu d a off) s (effLhu d a off)

/-- LW (R130). -/
def effLw (d a : XReg) (off : BitVec 13) (c : Ctx) : HRes :=
  c.loadX d (c.h.address a off) 4 (fun v => sext 32 v)
/-- LW of a hart (R130). -/
def execLw (d a : XReg) (off : BitVec 13) (s : State) : Result := runHart (.lw d a off) s (effLw d a off)

/-- LWU (R130). -/
def effLwu (d a : XReg) (off : BitVec 13) (c : Ctx) : HRes :=
  c.loadX d (c.h.address a off) 4 (fun v => BitVec.ofNat 64 v)
/-- LWU of a hart (R130). -/
def execLwu (d a : XReg) (off : BitVec 13) (s : State) : Result := runHart (.lwu d a off) s (effLwu d a off)

/-- LD (R130). -/
def effLd (d a : XReg) (off : BitVec 13) (c : Ctx) : HRes :=
  c.loadX d (c.h.address a off) 8 (fun v => BitVec.ofNat 64 v)
/-- LD of a hart (R130). -/
def execLd (d a : XReg) (off : BitVec 13) (s : State) : Result := runHart (.ld d a off) s (effLd d a off)

/-- STB (R130). -/
def effStb (x a : XReg) (off : BitVec 13) (c : Ctx) : HRes :=
  c.storeX x (c.h.address a off) 1
/-- STB of a hart (R130). -/
def execStb (x a : XReg) (off : BitVec 13) (s : State) : Result := runHart (.stb x a off) s (effStb x a off)

/-- STH (R130). -/
def effSth (x a : XReg) (off : BitVec 13) (c : Ctx) : HRes :=
  c.storeX x (c.h.address a off) 2
/-- STH of a hart (R130). -/
def execSth (x a : XReg) (off : BitVec 13) (s : State) : Result := runHart (.sth x a off) s (effSth x a off)

/-- STW (R130). -/
def effStw (x a : XReg) (off : BitVec 13) (c : Ctx) : HRes :=
  c.storeX x (c.h.address a off) 4
/-- STW of a hart (R130). -/
def execStw (x a : XReg) (off : BitVec 13) (s : State) : Result := runHart (.stw x a off) s (effStw x a off)

/-- STD (R130). -/
def effStd (x a : XReg) (off : BitVec 13) (c : Ctx) : HRes :=
  c.storeX x (c.h.address a off) 8
/-- STD of a hart (R130). -/
def execStd (x a : XReg) (off : BitVec 13) (s : State) : Result := runHart (.std x a off) s (effStd x a off)

/-- The size of an acquire load or release store in bytes. -/
def accessSize (wide : Bool) : Nat := if wide then 8 else 4

/-- LDA: a load performed before every later memory instruction; LDA.W zero-extends (R131, R266). -/
def execLda (d a : XReg) (scope : Scope) (wide : Bool) (s : State) : Result :=
  runHart (.lda d a scope wide) s (fun c => c.loadX d (c.h.getU a) (accessSize wide) (BitVec.ofNat 64))

/-- STL: a store performed after every earlier memory instruction (R131, R265). -/
def execStl (x a : XReg) (scope : Scope) (wide : Bool) (s : State) : Result :=
  runHart (.stl x a scope wide) s (fun c =>
    onMem c (c.releaseWait scope) (fun _ c => c.storeX x (c.h.getU a) (accessSize wide)))

end Sys2Proof.Machine
end

