-- ==== Sys2Proof/Machine/Atomic.lean ====
section
/-!
DEFINITION. Atomics and list moves (R134 to R137, R265).
-/
namespace Sys2Proof.Machine

/-! ### Atomics -/

/-- What an atomic writes: n bits; `x` is the operand, `e` what ACAS expects (R134). -/
def atomicNew (op : AtomOp) (n old x e : Nat) : Nat :=
  let old := old % 2 ^ n
  let x := x % 2 ^ n
  match op with
  | .add => (old + x) % 2 ^ n
  | .incb => if old < x then old + 1 else old
  | .cas => if old == e % 2 ^ n then x else old
  | .swp => x
  | .min => if toSigned n x < toSigned n old then x else old
  | .max => if toSigned n old < toSigned n x then x else old
  | .and => old &&& x
  | .or => old ||| x

/-- The order asks for a release. -/
def orderReleases : Order → Bool
  | .release => true | .acqRel => true | _ => false

/-- What an atomic or LMOVE waits for before its access (R265); on host memory its scope is DOMAIN whatever its
field says (R135). DESIGN CHOICE (log entry 3). -/
def Ctx.orderWait (c : Ctx) (scope : Scope) (order : Order) (host : Bool) : Got (Unit × Ctx) :=
  if orderReleases order then c.releaseWait (if host then .domain else scope) else .ok ((), c)

/-- The read and the write of an atomic, one access that is both a load and a store. One that faults leaves memory
as it was (R135), which is one of the two states that R395 admits where no acknowledgement arrives. -/
def Ctx.modify (c : Ctx) (va n : Nat) (f : Nat → Nat) : Got (Nat × Ctx) := do
  let (_, c) ← c.interlock va n true
  let (loc, c) ← c.checkedStore va n .both none (fun c loc => f (c.readLoc loc n))
  let old := c.readLoc loc n
  .ok (old, c.writeLoc loc n (f old))

/-- An atomic: xd := the old value, zero-extended (R134). -/
def Ctx.atomic (c : Ctx) (op : AtomOp) (d a b : XReg) (scope : Scope) (order : Order) (wide : Bool) : HRes :=
  let n := accessSize wide
  onMem c (c.orderWait scope order (c.isHost (c.h.getU a))) (fun _ c =>
    onMem c (c.modify (c.h.getU a) n (fun old => atomicNew op (8 * n) old (c.h.getU b) (c.h.getU d)))
      (fun old c => c.putX d (BitVec.ofNat 64 old)))

/-- AADD (R134, R135). -/
def execAadd (d a b : XReg) (scope : Scope) (order : Order) (wide : Bool) (s : State) : Result :=
  runHart (.aadd d a b scope order wide) s (fun c => c.atomic .add d a b scope order wide)

/-- AINCB (R134, R135). -/
def execAincb (d a b : XReg) (scope : Scope) (order : Order) (wide : Bool) (s : State) : Result :=
  runHart (.aincb d a b scope order wide) s (fun c => c.atomic .incb d a b scope order wide)

/-- ACAS (R134, R135). -/
def execAcas (d a b : XReg) (scope : Scope) (order : Order) (wide : Bool) (s : State) : Result :=
  runHart (.acas d a b scope order wide) s (fun c => c.atomic .cas d a b scope order wide)

/-- ASWP (R134, R135). -/
def execAswp (d a b : XReg) (scope : Scope) (order : Order) (wide : Bool) (s : State) : Result :=
  runHart (.aswp d a b scope order wide) s (fun c => c.atomic .swp d a b scope order wide)

/-- AMIN (R134, R135). -/
def execAmin (d a b : XReg) (scope : Scope) (order : Order) (wide : Bool) (s : State) : Result :=
  runHart (.amin d a b scope order wide) s (fun c => c.atomic .min d a b scope order wide)

/-- AMAX (R134, R135). -/
def execAmax (d a b : XReg) (scope : Scope) (order : Order) (wide : Bool) (s : State) : Result :=
  runHart (.amax d a b scope order wide) s (fun c => c.atomic .max d a b scope order wide)

/-- AAND (R134, R135). -/
def execAand (d a b : XReg) (scope : Scope) (order : Order) (wide : Bool) (s : State) : Result :=
  runHart (.aand d a b scope order wide) s (fun c => c.atomic .and d a b scope order wide)

/-- AOR (R134, R135). -/
def execAor (d a b : XReg) (scope : Scope) (order : Order) (wide : Bool) (s : State) : Result :=
  runHart (.aor d a b scope order wide) s (fun c => c.atomic .or d a b scope order wide)

/-! ### List moves -/

/-- The place `k` bytes above another in the same sector. -/
def Loc.plus (k : Nat) : Loc → Loc
  | .scratch a => .scratch (a + k)
  | .sdata a => .sdata (a + k)
  | .phys pa => .phys (pa + k)
  | .packed frame off => .packed frame (off + k)

/-- Where a descriptor or a node lies: aligned to `align`, in generic memory, readable and writable (R137).
DEDUCED (log entry 29). -/
def Ctx.listPlace (c : Ctx) (va align : Nat) : Got (Loc × Ctx) := do
  if va % align != 0 then .error (.fault (plainFault causeMisalign 0 va) c)
  else
    let (_, c) ← c.interlock va align true
    let (loc, c) ← c.checked va 8 .both none
    if loc.isGeneric then .ok (loc, c) else .error (.fault (plainFault causePerm 1 va) c)

/-- The first part of a move: the head node leaves the list at `la` (R136). -/
def Ctx.unlink (c : Ctx) (la ln : Loc) : Ctx :=
  let nx := c.readLoc ln 8
  let c := c.writeLoc la 8 nx
  let c := if nx == 0 then c.writeLoc (la.plus 8) 8 0 else c
  c.writeLoc ln 8 0

/-- The machine `c'` after a move, unless the slot of a compressed sector that it wrote has come to reach into a
poisoned sector: UNCORR, with memory as in `c` (R137, R380, R403). -/
def Ctx.movedTo (c c' : Ctx) (n : Nat) : List (Nat × Loc) → Got (Nat × Ctx)
  | [] => .ok (n, c')
  | (va, loc) :: rest => do
    let (_, _) ← c.grows va .both loc none c'
    c.movedTo c' n rest

/-- The move: its words are read and written as one access; any fault leaves all memory unchanged.
DEDUCED (log entry 29). -/
def Ctx.moveNode (c : Ctx) (a b : Nat) : Got (Nat × Ctx) := do
  if a % 16 != 0 then .error (.fault (plainFault causeMisalign 0 a) c)
  else if b % 16 != 0 then .error (.fault (plainFault causeMisalign 0 b) c)
  else
    let (la, c) ← c.listPlace a 16
    let (lb, c) ← c.listPlace b 16
    let n := c.readLoc la 8
    if n == 0 then .ok (0, c)
    else
      let (ln, c) ← c.listPlace n 8
      let t := (c.unlink la ln).readLoc (lb.plus 8) 8
      if t == 0 then
        let c' := ((c.unlink la ln).writeLoc lb 8 n).writeLoc (lb.plus 8) 8 n
        c.movedTo c' n [(a, la), (n, ln), (b, lb)]
      else
        let (lt, c) ← c.listPlace t 8
        let c' := ((c.unlink la ln).writeLoc lt 8 n).writeLoc (lb.plus 8) 8 n
        c.movedTo c' n [(a, la), (n, ln), (t, lt), (b, lb)]

/-- The node that a move takes and the old tail it links it to, as far as they can be read. -/
def Ctx.movedNodes (c : Ctx) (a b : Nat) : List Nat :=
  match c.listPlace a 16 with
  | .error _ => []
  | .ok (la, c) =>
    let n := c.readLoc la 8
    match c.listPlace b 16, c.listPlace n 8 with
    | .ok (lb, c), .ok (ln, _) => if n == 0 then [] else [n, (c.unlink la ln).readLoc (lb.plus 8) 8]
    | _, _ => [n]

/-- A word of a move lies in host memory, so that it is performed at DOMAIN scope (R135, R137). -/
def Ctx.moveIsHost (c : Ctx) (a b : Nat) : Bool :=
  c.isHost a || c.isHost b || (c.movedNodes a b).any c.isHost

/-- LMOVE (R136, R137). -/
def execLmove (d a b : XReg) (scope : Scope) (order : Order) (s : State) : Result :=
  runHart (.lmove d a b scope order) s (fun c =>
    onMem c (c.orderWait scope order (c.moveIsHost (c.h.getU a) (c.h.getU b))) (fun _ c =>
      onMem c (c.moveNode (c.h.getU a) (c.h.getU b)) (fun n c => c.putX d (BitVec.ofNat 64 n))))

end Sys2Proof.Machine
end

