-- ==== Sys2Proof/Machine/Branch.lean ====
section
/-!
DEFINITION. Branches and jumps (R132, R133). `eff…` is the effect on a hart or on a virtual processor
(R231); `exec…` is the instruction of a hart.
-/
namespace Sys2Proof.Machine

/-- Branch to PC + 4 × sext(off13, 13) when `taken`. -/
def Ctx.branch (c : Ctx) (off : BitVec 13) (taken : Bool) : HRes :=
  if taken then .goto c (c.h.pc + 4 * sext 13 off.toNat) else .done c

/-- BEQ (R132). -/
def effBeq (a b : XReg) (off : BitVec 13) (c : Ctx) : HRes :=
  c.branch off (c.h.getX a == c.h.getX b)
/-- BEQ of a hart (R132). -/
def execBeq (a b : XReg) (off : BitVec 13) (s : State) : Result := runHart (.beq a b off) s (effBeq a b off)

/-- BNE (R132). -/
def effBne (a b : XReg) (off : BitVec 13) (c : Ctx) : HRes :=
  c.branch off (c.h.getX a != c.h.getX b)
/-- BNE of a hart (R132). -/
def execBne (a b : XReg) (off : BitVec 13) (s : State) : Result := runHart (.bne a b off) s (effBne a b off)

/-- BLT (R132). -/
def effBlt (a b : XReg) (off : BitVec 13) (c : Ctx) : HRes :=
  c.branch off ((c.h.getX a).slt (c.h.getX b))
/-- BLT of a hart (R132). -/
def execBlt (a b : XReg) (off : BitVec 13) (s : State) : Result := runHart (.blt a b off) s (effBlt a b off)

/-- BGE (R132). -/
def effBge (a b : XReg) (off : BitVec 13) (c : Ctx) : HRes :=
  c.branch off (!(c.h.getX a).slt (c.h.getX b))
/-- BGE of a hart (R132). -/
def execBge (a b : XReg) (off : BitVec 13) (s : State) : Result := runHart (.bge a b off) s (effBge a b off)

/-- BLTU (R132). -/
def effBltu (a b : XReg) (off : BitVec 13) (c : Ctx) : HRes :=
  c.branch off ((c.h.getX a).ult (c.h.getX b))
/-- BLTU of a hart (R132). -/
def execBltu (a b : XReg) (off : BitVec 13) (s : State) : Result := runHart (.bltu a b off) s (effBltu a b off)

/-- BGEU (R132). -/
def effBgeu (a b : XReg) (off : BitVec 13) (c : Ctx) : HRes :=
  c.branch off (!(c.h.getX a).ult (c.h.getX b))
/-- BGEU of a hart (R132). -/
def execBgeu (a b : XReg) (off : BitVec 13) (s : State) : Result := runHart (.bgeu a b off) s (effBgeu a b off)

/-- JAL (R133). -/
def execJal (off : BitVec 26) (s : State) : Result :=
  runHart (.jal off) s (fun c =>
    .goto { c with h := c.h.setX 1 (c.h.pc + 4) } (c.h.pc + 4 * sext 26 off.toNat))

/-- JALR: MISALIGN, detail 1, when the target is not a word's address (R133, R288). -/
def execJalr (d a : XReg) (imm : BitVec 16) (s : State) : Result :=
  runHart (.jalr d a imm) s (fun c =>
    let t := c.h.getX a + 4 * sext 16 imm.toNat
    if t.toNat % 4 != 0 then .trap c { Trap.plain causeMisalign 1 with addr := t }
    else .goto { c with h := c.h.setX d (c.h.pc + 4) } t)

end Sys2Proof.Machine
end

