-- ==== Sys2Proof/Machine/Vector.lean ====
section
/-!
DEFINITION. What the vector instructions share: the loop over elements with its resume index (R116, R138,
R140, R281), the uses of a tag and the order of their refusals (R26, R46, R47, R98, R139, R410), promotion
(R67), and the operations on exact values that the element entries name (R147 to R149, R156).
-/
namespace Sys2Proof.Machine

/-! ### The loop over elements -/

/-- Columns of one element group: what one cluster holds of a row (R23). -/
def Hart.groupCols (h : Hart) : Nat := 2048 / h.ew

/-- The first element group boundary at or above element n, or VL (R281). DEDUCED (log entry 14). -/
def Hart.groupCeil (h : Hart) (n : Nat) : Nat :=
  if h.vl ≤ n || h.vcols == 0 then h.vl
  else
    let c := upTo h.groupCols (n % h.vcols)
    if h.vcols ≤ c then (n / h.vcols + 1) * h.vcols else n / h.vcols * h.vcols + c

/-- One element: done, a trap at it, or a wait, with the access that has been sent to a link that is down. -/
inductive Elem where
  | ok (c : Ctx)
  | trap (c : Ctx) (t : Trap)
  | hold (sent : Option (Nat × AccKind))

/-- The active elements of a list in order, up to the first trap or wait. DEDUCED (log entry 14). -/
def runElems (act : Nat → Bool) (f : Nat → Ctx → Elem) : List Nat → Ctx → Elem
  | [], c => .ok c
  | e :: es, c =>
    if act e then
      match f e c with
      | .ok c => runElems act f es c
      | r => r
    else runElems act f es c

/-- An element-wise instruction (R138): from VSTART to VL − 1, or to a stop that falls inside it; a trap at
element e keeps what is below e and leaves the resume index e; a wait leaves the hart before the
instruction. `fin` is what happens on completion. Under VL = 0 nothing happens but VSTART := 0 (R294).
DEDUCED (log entry 16). -/
def Ctx.elementwise (c : Ctx) (act : Nat → Bool) (fin : Hart → Hart) (f : Nat → Ctx → Elem) : HRes :=
  let h := c.h
  let lim := match h.stopAt with
    | none => h.vl
    | some n => h.groupCeil n
  if h.vl == 0 then c.put { h with vstart := 0 }
  else if lim < h.vl && lim ≤ h.vstart then .hold c
  else
    match runElems act f (fromTo h.vstart lim) c with
    | .ok c' => if lim < h.vl then .stop c' lim else c'.put { fin c'.h with vstart := 0 }
    | .trap c' t => .trap c' t
    | .hold sent => c.holds sent

/-- OR an element's flags and go on, or raise FPX at it (R140). -/
def Ctx.flagged (c : Ctx) (e : Nat) (fl : Flags) (k : Ctx → Elem) : Elem :=
  let c : Ctx := { c with h := c.h.orFlags fl }
  match c.h.enabledFlag fl with
  | some b => .trap c (.fpx b e (some e))
  | none => k c

/-- An element-wise instruction over registers: element e takes the bits and raises the flags of `f e`;
`put` writes it. -/
def Ctx.compute (c : Ctx) (act : Nat → Bool) (fin : Hart → Hart) (f : Nat → Nat × Flags)
    (put : Hart → Nat → Nat → Hart) : HRes :=
  c.elementwise act fin (fun e c =>
    c.flagged e (f e).2 (fun c => .ok { c with h := put c.h e (f e).1 }))

/-- The active elements of an instruction with the given m bit, as they stand at issue. -/
def Ctx.act (c : Ctx) (m : Bool) : Nat → Bool := c.h.active c.s.tick m

/-- Active elements in VSTART .. VL − 1, for the instructions that run whole (R138). -/
def Ctx.actives (c : Ctx) (m : Bool) : List Nat := (fromTo c.h.vstart c.h.vl).filter (c.act m)

/-- A vector instruction that runs whole: a stop inside it falls before it (R281). DEDUCED (log entry 17). -/
def Ctx.whole (c : Ctx) (k : Ctx → HRes) : HRes :=
  match c.h.stopAt with
  | some n => if n < c.h.vl && n == 0 then .hold c else k c
  | none => k c

/-! ### Uses of a tag (R26, R46, R47, R139) -/

/-- Which uses of a register an entry admits. -/
structure Use where
  /-- A raw tag is admitted. -/
  raw : Bool
  /-- A scaled operand is admitted. -/
  scaled : Bool

/-- An arithmetic operand or destination. -/
def useArith : Use := ⟨false, false⟩
/-- Bits: bitwise instructions, moves and memory transfers, which take a scaled operand as bits (R47).
DEDUCED (log entry 57): R139's last bullet refuses scaled operands in arithmetic only. -/
def useBits : Use := ⟨true, true⟩
/-- Bits of an ordinary register. -/
def useRaw : Use := ⟨true, false⟩
/-- A scaled operand that the entry names. -/
def useScaled : Use := ⟨false, true⟩

/-- The ILLCFG detail of a kind under a use: 1 tag, 3 layout or BLK (R288). DEDUCED (log entry 18). -/
def Hart.kindFault (h : Hart) (u : Use) (k : Kind) : Option Nat :=
  if k == .reserved || (k == .raw && !u.raw) || decide (h.ew < h.kw k) || (k.isSliced && h.blk != 2) then
    some 1
  else if h.scaled k && !u.scaled then some 3
  else none

/-- The same for a register's tag. -/
def Hart.useFault (h : Hart) (tick : Nat) (u : Use) (r : VReg) : Option Nat := h.kindFault u (h.kind tick r)

/-- ILLCFG 1 unless a condition on a tag holds. DEDUCED (log entry 18). -/
def needTag (ok : Bool) : Option Nat := if ok then none else some 1
/-- ILLCFG 3 unless a condition on BLK or a layout holds. DEDUCED (log entry 18). -/
def needLayout (ok : Bool) : Option Nat := if ok then none else some 3

/-- A scaled operand needs V47 to carry E8M0 (R35): detail 2. DEDUCED (log entry 18). -/
def Hart.scaleFault (h : Hart) (tick : Nat) (k : Kind) : Option Nat :=
  if h.scaled k && h.kind tick scaleReg != .e8m0 then some 2 else none

/-- A pair of registers, or two ordered ones, under equal tags of width 2 × EW (R157, R160): detail 1; a scaled pair
(F16 or BF16 at EW 8) is refused with detail 3 unless `scaled` admits it. DEDUCED (log entries 18, 57). -/
def Hart.pairFault (h : Hart) (tick : Nat) (scaled : Bool) (r r' : VReg) : Option Nat :=
  let k := h.kind tick r
  if k == .reserved || k == .raw || k.isSliced || h.tag tick r != h.tag tick r' || k.width 64 != 2 * h.ew then
    some 1
  else if h.scaled k && !scaled then some 3
  else none

/-- The lowest of the details found, which comes first by R98. -/
def firstFault : List (Option Nat) → Option Nat
  | [] => none
  | none :: rest => firstFault rest
  | some d :: rest =>
    match firstFault rest with
    | none => some d
    | some e => some (min d e)

/-- The checks of R98 that follow NOMAT, NOOP and details 4 and 5: detail 7 when the instruction rounds into
a floating tag under RM = 5 (R410), then ILLCFG. DEDUCED (log entries 17, 18). -/
def Ctx.guarded (c : Ctx) (rounds : Bool) (faults : List (Option Nat)) (k : HRes) : HRes :=
  if rounds && c.h.rm == 5 then .trap c (.illegal 7)
  else
    match firstFault faults with
    | some d => .trap c (.illcfg d)
    | none => k

/-- A floating kind for R410: E8M0 included. -/
def Kind.isFloating : Kind → Bool
  | .flt _ => true | .e8m0 => true | _ => false

/-! ### Promotion (R67) -/

/-- An operand of an element instruction: its kind, and the value of element e. -/
structure Src where
  kind : Kind
  val : Nat → Val
  int : Nat → Int

/-- A vector register as an operand. -/
def Hart.src (h : Hart) (tick : Nat) (r : VReg) : Src :=
  let k := h.kind tick r
  ⟨k, h.value tick k r, fun e => k.intVal (h.elem tick k r e)⟩

/-- A scalar read as a kind (R163). -/
def scalarSrc (k : Kind) (w : Word) : Src :=
  ⟨k, fun _ => k.value w.toNat, fun _ => k.intVal w.toNat⟩

/-- An exact integer into a destination: reduced modulo 2^n, or rounded once into a floating kind; a zero is +0 whatever
the mode. DEDUCED (log entry 56). -/
def Kind.fromInt (k : Kind) (rd : Rounding) (v : Int) : Nat × Flags :=
  match k with
  | .int _ w => (ofInt w v, 0)
  | .sliced _ w => (ofInt w v, 0)
  | k => k.round rd (.ofInt v)

/-- An exact real with its flags into a destination, rounded once. -/
def Kind.fromReal (k : Kind) (rd : Rounding) (v : Val × Flags) : Nat × Flags :=
  let (bits, f) := k.round rd v.1
  (bits, v.2 ||| f)

/-- An operand at one element, as an operand that is the same at every element. DEDUCED (log entry 16). -/
def Src.at (x : Src) (e : Nat) : Src := ⟨x.kind, fun _ => x.val e, fun _ => x.int e⟩

/-- One value rounded into a kind. -/
def Src.into (a : Src) (kd : Kind) (rd : Rounding) : Nat × Flags :=
  if a.kind.isInt then kd.fromInt rd (a.int 0) else kd.fromReal rd (a.val 0, 0)

/-! ### Operations on exact values (R147, R156) -/

/-- The binary operations. -/
inductive VOp where
  | add | sub | mul | div | min | max | mulh | rem
  deriving DecidableEq, Repr

/-- The quotient rounded toward zero; by zero the value R55 gives a destination kind, `k` being the
dividend's kind. DEDUCED (log entry 22). -/
def quotient (kd k : Kind) (a b : Int) : Int :=
  if b != 0 then a.tdiv b
  else if kd.isInt || k.signed then -1
  else (2 ^ k.width 64 : Nat) - 1

/-- An operation on integers: `n` is the width of the destination, `k` the kind of a. -/
def VOp.onInts (op : VOp) (kd k : Kind) (n : Nat) (a b : Int) : Int :=
  match op with
  | .add => a + b
  | .sub => a - b
  | .mul => a * b
  | .div => quotient kd k a b
  | .min => if a ≤ b then a else b
  | .max => if a ≤ b then b else a
  | .mulh => a * b / (2 ^ n : Nat)
  | .rem => if b == 0 then a else a.tmod b

/-- An operation on reals; VMULH and VREM have none. -/
def VOp.onReals (op : VOp) (rm : Nat) (a b : Val) : Val × Flags :=
  match op with
  | .add => a.add rm b
  | .sub => a.sub rm b
  | .mul => a.mul b
  | .div => a.div b
  | .min => a.minimum b
  | .max => a.maximum b
  | _ => (.nan false, 0)

/-- An operation for integers only (R147). -/
def VOp.intOnly : VOp → Bool
  | .mulh => true | .rem => true | _ => false

/-- Element e of a binary operation into kind kd of width n. -/
def binElem (op : VOp) (kd : Kind) (n : Nat) (a b : Src) (rd : Rounding) (e : Nat) : Nat × Flags :=
  if a.kind.isInt && b.kind.isInt then kd.fromInt rd (op.onInts kd a.kind n (a.int e) (b.int e))
  else kd.fromReal rd (op.onReals rd.rm (a.val e) (b.val e))

/-- The fused operations (R156). -/
inductive FOp where
  | fma | fms | fnma
  deriving DecidableEq, Repr

/-- Element e of a fused operation; the addend has kind kd. -/
def fusedElem (op : FOp) (kd : Kind) (a b add : Src) (rd : Rounding) (e : Nat) : Nat × Flags :=
  if a.kind.isInt && b.kind.isInt && add.kind.isInt then
    let p := a.int e * b.int e
    let c := add.int e
    kd.fromInt rd (match op with | .fma => p + c | .fms => p - c | .fnma => c - p)
  else
    let x := a.val e
    let y := b.val e
    let c := add.val e
    kd.fromReal rd (match op with
      | .fma => x.fma rd.rm y c
      | .fms => x.fma rd.rm y c.negate
      | .fnma => x.negate.fma rd.rm y c)

/-! ### The estimates (R149) -/

/-- Truncate a magnitude to 12 significant bits. DEDUCED (log entry 21). -/
def truncate12 : Val → Val
  | .fin n m e _ =>
    let len := bitLength m
    if 12 < len then .fin n (m / 2 ^ (len - 12)) (e + (len - 12 : Nat)) false else .fin n m e false
  | v => v

/-- The reciprocal estimate. DEDUCED (log entry 21). -/
def Val.recipEstimate (a : Val) : Val × Flags :=
  match a with
  | .fin n m e _ => (truncate12 (divFin n 1 0 m e), 0)
  | v => Val.div (.fin false 1 0 false) v

/-- The reciprocal square root estimate. DEDUCED (log entry 21). -/
def Val.rsqrtEstimate (a : Val) : Val × Flags :=
  match a with
  | .nan s => (.nan false, flagIf s flagNV)
  | .inf false => (.zero false, 0)
  | .inf true => (.nan false, flagNV)
  | .zero n => (.inf n, flagDZ)
  | .fin true _ _ _ => (.nan false, flagNV)
  | .fin false m e _ =>
    match sqrtFin m e with
    | .fin _ r f _ => (truncate12 (divFin false 1 0 r f), 0)
    | v => (v, 0)

end Sys2Proof.Machine
end

