-- ==== Sys2Proof/Machine/Engine.lean ====
section
/-!
DEFINITION. Engine transfers as a hart issues and awaits them (major 0x2C, R238 to R242): CPY, CPYB, EWAIT,
ETST; and the end and the failure of a copy.
-/
namespace Sys2Proof.Machine

/-! ### Accepting a transfer (R238, R239) -/

/-- Busy tags of a hart. -/
def Hart.busyCount (h : Hart) : Nat := (h.tags.toList.filter TagState.isBusy).length

/-- The engine queue of the hart's core has room (R238). DEDUCED (log entry 32). -/
def Ctx.queueRoom (c : Ctx) (k : Nat) : Bool :=
  decide (total ((withIndex 0 c.s.harts).map (fun (j, o) =>
    if j != k && o.core == c.h.core then o.busyCount else 0)) + c.h.busyCount < 32)

/-- The lowest free tag. -/
def Hart.freeTag (h : Hart) : Option Slot := (List.finRange 16).find? (fun t => h.tags[t] == .free)

/-- A hart starts a transfer under a tag: the next in its program order (R260). -/
def Hart.launchTag (h : Hart) (t : Slot) (tr : Transfer) : Hart :=
  { h with tags := h.tags.set t (.busy ⟨tr, h.nextSeq, false, none, []⟩), nextSeq := h.nextSeq + 1 }

/-- Accept a copy under a tag; it keeps its place behind the transfers before it. A length of 0 frees the tag at
once. DEDUCED (log entry 31). -/
def Hart.acceptCopy (h : Hart) (t : Slot) (dst src len : Nat) (zero : Bool) : Hart :=
  if len == 0 then h else h.launchTag t (.copy dst src len zero)

/-- CPY (R239). -/
def execCpy (d a b n : XReg) (s : State) : Result :=
  runHart (.cpy d a b n) s (fun c =>
    match c.h.freeTag with
    | none => .hold c
    | some t =>
      if !c.queueRoom s.cur then .hold c
      else c.put ((c.h.acceptCopy t (c.h.getU a) (c.h.getU b) (c.h.getU n) false).setN d t.val))

/-! ### Batches (R240) -/

/-- A command of a batch. -/
structure Command where
  dst : Nat
  src : Nat
  len : Nat
  zero : Bool
  tag : Slot
  bad : Bool

/-- Command i of a register. -/
def Hart.command (h : Hart) (tick : Nat) (a : VReg) (i : Nat) : Command :=
  let e := fun (j : Nat) => h.elem tick (.int false 64) a (4 * i + j)
  ⟨e 0, e 1, fld (e 2) 0 48, bitAt (e 2) 48, ⟨e 3 % 16, Nat.mod_lt _ (by decide)⟩,
    fld (e 2) 49 15 != 0 || fld (e 3) 4 60 != 0⟩

/-- Take the active commands in order; those accepted are noted. -/
def Ctx.acceptBatch (k : Nat) : List (Nat × Command) → List Nat → Ctx → List Nat × Ctx
  | [], done, c => (done, c)
  | (i, x) :: rest, done, c =>
    if c.h.tags[x.tag] == .free && c.queueRoom k then
      Ctx.acceptBatch k rest (i :: done) { c with h := c.h.acceptCopy x.tag x.dst x.src x.len x.zero }
    else Ctx.acceptBatch k rest done c

/-- CPYB (R240): a reserved bit of an active command comes before the tag (R98). The commands are read at their
places whatever the tag. DEDUCED (log entry 32). -/
def execCpyb (d : MReg) (a : VReg) (s : State) : Result :=
  runHart (.cpyb d a) s (fun c =>
    let h := c.h
    let t := c.s.tick
    let ka := h.kind t a
    let all := (List.range (h.vl / 4)).map (fun i => (i, h.command t a i))
    let active := all.filter (fun (i, _) => h.mask t 0 (4 * i))
    if active.any (fun (_, x) => x.bad) then .trap c (.illegal 5)
    else c.guarded false
      [h.useFault t useRaw a,
       needTag (h.ew == 64 && (ka == .raw || ka == .int true 64 || ka == .int false 64))]
      (c.whole (fun c =>
        let (done, c') := Ctx.acceptBatch s.cur active [] c
        let h' := forEach all c'.h (fun (h : Hart) (i, _) => h.setMask d i (done.contains i))
        c'.put { h' with vstart := 0 })))

/-! ### Waiting and testing (R241, R242) -/

/-- The tag that an X register names. -/
def tagOf (n : Nat) : Option Slot := if h : n < 16 then some ⟨n, h⟩ else none

/-- EWAIT (R241): a failed tag traps with its cause, at TVEC whatever the code, and becomes free. -/
def execEwait (a : XReg) (s : State) : Result :=
  runHart (.ewait a) s (fun c =>
    match tagOf (c.h.getU a) with
    | none => .trap c (.illegal 5)
    | some t =>
      match c.h.tags[t] with
      | .free => .done c
      | .busy _ => .hold c
      | .failed cause detail addr =>
        .trap (c.setTagState t .free) ⟨cause, detail, addr, t.val, none, noInfo, false, true⟩)

/-- ETST (R241). -/
def execEtst (d a : XReg) (s : State) : Result :=
  runHart (.etst d a) s (fun c =>
    match tagOf (c.h.getU a) with
    | none => .trap c (.illegal 5)
    | some t =>
      c.put (c.h.setN d (match c.h.tags[t] with
        | .free => 0
        | .busy _ => 1
        | .failed cause _ _ => 0x100 + cause)))

/-! ### Ends and failures (R242, R263) -/

/-- How an attempt to finish a transfer ends. -/
inductive Attempt where
  /-- Done, with the machine after it. -/
  | ends (c : Ctx)
  /-- It meets a fault that the hall cannot resolve. -/
  | fails (c : Ctx) (f : MemFault)
  /-- It waits for the hall to resolve a fault, with the machine as the attempt left it. -/
  | stalls (c : Ctx) (f : MemFault)
  /-- It waits, with the machine as the attempt left it; `sent` is the access that waits for the link to come up. -/
  | waits (c : Ctx) (sent : Option (Nat × AccKind))

/-- An access as an attempt. -/
def attempt (r : Got (Unit × Ctx)) : Attempt :=
  match r with
  | .ok (_, c) => .ends c
  | .error (.wait sent c) => .waits c sent
  | .error (.fault f c) => if f.stalls then .stalls c f else .fails c f

/-- A stopped hart whose last transfer is over: its allocations go into its record, and are released (R364). -/
def Hart.keepLocal (h : Hart) : Hart :=
  if h.busyTag then h
  else { h with record := h.record.map (fun cr => { cr with image := cr.image.or (some (h.scratch, h.sdata)) }) }

/-- Write hart k back after one of its transfers has ended or failed: an ended hart gives its scratchpad
back, and its launch may be over (R120). -/
def Ctx.afterTransfer (c : Ctx) (k : Nat) : State :=
  let h := if c.h.over then c.h.close else c.h.keepLocal
  (c.s.setHart k h).checkLaunch c.h.launch

/-- The transfer of tag t has ended (R263). -/
def Ctx.freeTagOf (c : Ctx) (k : Nat) (t : Slot) : State :=
  let c := c.setTagState t .free
  Ctx.afterTransfer { c with h := { c.h with held := [] } } k

/-- A transfer meets a fault that the hall resolves: it is handed over, and the transfer waits for its answer, with
the pages it has translated (R242, R378, R381). -/
def Ctx.stallTag (c : Ctx) (k : Nat) (t : Slot) (f : Flight) (g : MemFault) : State :=
  let c := c.keepPages t f
  (c.s.setHart k c.h).addFault k (.engine t.val) g.cause g.addr g.info

/-- A transfer waits, with the pages it has translated (R378); when it began to wait for the link is noted (R339). -/
def Ctx.waitTag (c : Ctx) (k : Nat) (t : Slot) (f : Flight)
    (sent : Option (Nat × AccKind)) : State :=
  let since := sent.map (fun (va, k) => ((f.since.map (·.1)).getD c.s.hall.hcnt, va, k == .store))
  let held := if c.h.held.isEmpty then f.pages else c.h.held
  let c := Ctx.keepPages { c with h := { c.h with held := held } } t { f with since := since }
  c.s.setHart k c.h

/-- A transfer's destination. -/
def Transfer.dst : Transfer → Nat × Nat
  | .copy dst _ len _ => (dst, len)
  | .coll d _ => (d.dst, d.dstLen)

/-- Fail tag t of hart k (R242); a fault of it that the hall still lists waits no longer (R382).
DEDUCED (log entry 32). -/
def Ctx.failTransfer (c : Ctx) (k : Nat) (t : Slot) (tr : Transfer) (f : MemFault) : State :=
  ((c.failTag t tr.dst.1 tr.dst.2 f).afterTransfer k).mapHall (fun a =>
    a.closeFaults (fun g => g.hart == k && g.source == .engine t.val))

/-- The busy transfer of a tag. -/
def State.transferOf (s : State) (k : Nat) (t : Slot) : Option (Hart × Flight) :=
  match s.harts[k]? with
  | none => none
  | some h =>
    match h.tags[t] with
    | .busy f => some (h, f)
    | _ => none

/-- Perform a copy of hart k that is not performed yet, after what it must not overtake (R260). -/
def Ctx.finishCopy (c : Ctx) (k : Nat) (f : Flight) (dst src len : Nat) (zero : Bool) : Got (Unit × Ctx) :=
  if f.done then .ok ((), c)
  else do
    let (_, c) ← c.settleBefore k f.seq f.transfer
    (c.withPages f).runCopy dst src len zero

/-- ENGINE_TRANSFER_END (R263): a copy ends and frees its tag, or turns out to wait; one that waits for the hall's
answer does nothing before it comes. DEDUCED (log entry 31). -/
def execEngineTransferEnd (s : State) : Result :=
  match s.input with
  | .engineTransferEnd k t =>
    match s.transferOf k t with
    | some (h, f) =>
      match f.transfer with
      | .copy dst src len zero =>
        if s.faultKnown k (.engine t.val) then .next s
        else
          match attempt (Ctx.finishCopy ⟨h, s⟩ k f dst src len zero) with
          | .ends c => .next (c.freeTagOf k t)
          | .stalls c g => .next (c.stallTag k t f g)
          | .waits c sent => .next (c.waitTag k t f sent)
          | .fails _ _ => .next s
      | .coll _ _ => .next s
    | none => .next s
  | _ => .next s

/-! ### Sparse streams (R251) -/

/-- A stream's header. -/
structure Stream where
  magic : Nat
  vtag : Nat
  flags : Nat
  fill : Nat
  nent : Nat
  ibase : Nat
  irange : Nat
  deriving DecidableEq, Repr

/-- A header from its 32 bytes. -/
def streamHead (bytes : List Byte) : Stream :=
  let v := leValue (bytes.take 32)
  ⟨fld v 0 16, fld v 16 8, fld v 24 8, fld v 32 16, fld v 64 32, fld v 128 64, fld v 192 32⟩

/-- The value's size z, and the entry's size E. -/
def Stream.z (h : Stream) : Nat := (kindOf (h.vtag % 64)).width 64 / 8
/-- The size of a sparse entry. -/
def Stream.e (h : Stream) : Nat := 2 * h.z
/-- The stream is dense. -/
def Stream.dense (h : Stream) : Bool := bitAt h.flags 0

/-- The length of a stream in bytes. -/
def Stream.length (h : Stream) : Nat := 32 + (if h.dense then h.irange * h.z else h.nent * h.e)

/-- A header that names a stream (R251). DEDUCED (log entry 33): an unknown VTAG or an IRANGE of 0 names none; reserved
fields, pad bytes and the alignment are not looked at. -/
def Stream.headOk (h : Stream) : Bool :=
  h.magic == 0x5A53 && [0x0B, 0x0C, 0x03, 0x04, 0x07, 0x08].contains h.vtag && h.irange != 0

/-- The longest stream that a header can name: what a contribution may touch while its header cannot be read. -/
def longestStream : Nat := 32 + 2 ^ 32 * 16

/-- The length of a contribution: for SSUM the header says. While the header cannot be read the contribution counts
as any that could stand there (R261). DEDUCED (log entry 31). -/
def Ctx.collSrcLen (c : Ctx) (d : CollDesc) : Nat :=
  match d.op with
  | 3 => 8 * d.count
  | 4 =>
    match c.readRange d.src 32 with
    | .ok (bs, _) => let h := streamHead bs; if h.headOk then h.length else 32
    | .error _ => longestStream
  | _ => collSize d.typ * d.count

/-! ### Failures -/

/-- What a transfer of hart k meets when it is performed; a collective, until every member has joined: its own
contribution. -/
def Ctx.tryTransfer (c : Ctx) (k : Nat) (f : Flight) : Attempt :=
  match f.transfer with
  | .copy dst src len zero => attempt (c.finishCopy k f dst src len zero)
  | .coll d _ => attempt (do
    let (_, c) ← c.settleBefore k f.seq f.transfer
    let (_, c) ← (c.withPages f).readRange d.src (c.collSrcLen d)
    .ok ((), c))

/-- The transfer of tag t meets a fault that the hall cannot resolve. -/
def State.transferFails (s : State) (k : Nat) (t : Slot) : Option (Ctx × Transfer × MemFault) :=
  match s.transferOf k t with
  | none => none
  | some (h, f) =>
    if s.faultKnown k (.engine t.val) then none
    else
      match Ctx.tryTransfer ⟨h, s⟩ k f with
      | .fails c g => some (c, f.transfer, g)
      | _ => none

/-- ENGINE_TRANSFER_FAILURE (R242). -/
def execEngineTransferFailure (s : State) : Result :=
  match s.input with
  | .engineTransferFailure k t =>
    match s.transferFails k t with
    | some (c, tr, f) => .next (c.failTransfer k t tr f)
    | none => .next s
  | _ => .next s

end Sys2Proof.Machine
end

