-- ==== Sys2Proof/Machine/Collective.lean ====
section
/-!
DEFINITION. Collectives (major 0x2C, R247 to R254): COLL, the merge with what the other members bring, the
sparse streams, the status (R254, R271, R400), and a collective's end and timeout.
-/
namespace Sys2Proof.Machine

/-! ### The descriptor (R247) -/

/-- A descriptor from the 64 bytes that stand at its address. -/
def collDesc (v : Nat) : CollDesc where
  op := fld v 0 8
  typ := fld v 8 8
  cls := fld v 16 8
  k := fld v 32 16
  group := BitVec.ofNat 128 (fld v 64 128)
  src := fld v 192 64
  dst := fld v 256 64
  count := fld v 320 64
  status := fld v 384 64
  srcLen := 0

/-- A type that an operation admits. -/
def collTypeOk (op typ : Nat) : Bool :=
  match op with
  | 3 => typ == 0x0B || typ == 0x03
  | 4 => typ == 0
  | _ => [0x0B, 0x0C, 0x03, 0x04, 0x07, 0x08].contains typ

/-- A descriptor with no reserved value and no reserved bit, that names device `ord` and a class no lower
than the launch's. DEDUCED (log entry 32). -/
def collOk (v : Nat) (d : CollDesc) (ord cls : Nat) : Bool :=
  decide (d.op ≤ 4) && collTypeOk d.op d.typ && decide (d.cls ≤ 2) && decide (cls ≤ d.cls) &&
  fld v 24 8 == 0 && fld v 48 16 == 0 && fld v 448 64 == 0 &&
  (if d.op == 3 then decide (1 ≤ d.k) && decide (d.k ≤ 64) else d.k == 0) &&
  bitAt d.group.toNat ord && d.status % 16 == 0

/-- The descriptor's 64 bytes, doubleword by doubleword (R115). -/
def Ctx.loadDoubles (c : Ctx) (a : Nat) : Nat → Got (Nat × Ctx)
  | 0 => .ok (0, c)
  | n + 1 => do
    let (v, c) ← c.load a 8
    let (w, c) ← c.loadDoubles (a + 8) n
    .ok (v + 2 ^ 64 * w, c)

/-! ### The entries of a sparse stream (R251) -/

/-- The n bytes of a list at an offset, as a number. -/
def bytesAt (bytes : List Byte) (off n : Nat) : Nat := leValue ((bytes.drop off).take n)

/-- The (index, value) entries of a stream. -/
def Stream.entries (h : Stream) (bytes : List Byte) : List (Nat × Nat) :=
  if h.dense then (List.range h.irange).map (fun i => (i, bytesAt bytes (32 + h.z * i) h.z))
  else (List.range h.nent).map (fun i =>
    (bytesAt bytes (32 + h.e * i) 4, bytesAt bytes (32 + h.e * i + h.e / 2) h.z))

/-- Indices ascend strictly below a limit, from `lo` upward. -/
def ascends (limit : Nat) : (lo : Nat) → List (Nat × Nat) → Bool
  | _, [] => true
  | lo, (i, _) :: rest => decide (lo ≤ i) && decide (i < limit) && ascends limit (i + 1) rest

/-- A well-formed stream (R251, R253). -/
def streamOk (bytes : List Byte) : Bool :=
  let h := streamHead bytes
  h.headOk && ascends h.irange 0 (h.entries bytes)

/-! ### COLL (R247) -/

/-- An SSUM's header is read after the hart's earlier copies of its bytes (R260). -/
def Ctx.settleHeader (c : Ctx) (k : Nat) (d : CollDesc) : Got (Unit × Ctx) :=
  if d.op == 4 then c.settleTags k (Transfer.conflicts d.src 32 false) else .ok ((), c)

/-- The port counters as they stand. -/
def State.portCounts (s : State) : List PortCounts :=
  s.fab.ports.toList.map (fun p => ⟨p.preplay, p.pdown, p.plost⟩)

/-- The lowest member of a group that DMEMB lacks; every member while DEN = 0 but this device. -/
def State.missingMember (s : State) (g : BitVec 128) : Option Nat :=
  (List.range 128).find? (fun d => bitAt g.toNat d &&
    !(bitAt s.fab.dmemb.toNat d && (s.fab.den || d == s.fab.dord)))

/-- A transfer holds a merge engine of this device's router. -/
def TagState.merges : TagState → Bool
  | .busy f => match f.transfer with | .coll _ st => !st.spilled | _ => false
  | _ => false

/-- Merge engines of this router that this device's own collectives hold; `c` is taken out of the machine. -/
def Ctx.enginesHeld (c : Ctx) : Nat :=
  total ((c.s.setHart c.s.cur c.h).harts.map (fun h => (h.tags.toList.filter TagState.merges).length))

/-- A collective claims a merge engine in every member's router (R399): this device's own claims here are counted;
whether those of other devices here, or the claims in another member's router, leave none free is a free value.
DESIGN CHOICE (log entry 11). -/
def Ctx.spills (c : Ctx) : Bool := decide (16 ≤ c.enginesHeld) || Config.choice c.s.tick 399 % 2 == 1

/-- The lowest other member whose route names no port that is up (R400). DEDUCED (log entry 33). -/
def State.unroutedMember (s : State) (g : BitVec 128) : Option Nat :=
  (List.range 128).find? (fun d => bitAt g.toNat d && d != s.fab.dord && !s.routeUp d)

/-- The case of R400 that holds for a group as the fabric stands: CODE, REASON, PORT and the ordinal.
DEDUCED (log entry 33). -/
def State.standingCase (s : State) (g : BitVec 128) : Option (Nat × Nat × Nat × Option Nat) :=
  match s.missingMember g, s.unroutedMember g with
  | some o, _ => some (5, 1, 0x1F, some o)
  | none, some o => some (5, 3, 0x1F, some o)
  | none, none => none

/-- Start a collective under a tag. -/
def Ctx.startColl (c : Ctx) (t : Slot) (d : CollDesc) : Ctx :=
  let sp := c.spills
  let st : CollStart :=
    ⟨c.s.hall.hcnt, c.s.portCounts, c.s.missingMember d.group, c.s.standingCase d.group, sp⟩
  let fab := if sp then { c.s.fab with mspill := c.s.fab.mspill + 1 } else c.s.fab
  { c with s := { c.s with fab := fab }, h := c.h.launchTag t (.coll d st) }

/-- COLL (R247). -/
def execColl (d a : XReg) (s : State) : Result :=
  runHart (.coll d a) s (fun c =>
    let at_ := c.h.getU a
    if at_ % 64 != 0 then .trap c { Trap.plain causeMisalign 0 with addr := BitVec.ofNat 64 at_ }
    else onMem c (c.loadDoubles at_ 8) (fun v c' =>
      let x := collDesc v
      if !collOk v x c'.s.fab.dord (c'.s.classOf c'.h) then .trap c' (.illegal 5)
      else
        match c'.h.freeTag with
        | none => .hold c
        | some t =>
          if !c'.queueRoom s.cur then .hold c
          else onMem c (c'.settleHeader s.cur x) (fun _ c' =>
            let c' := c'.startColl t { x with srcLen := c'.collSrcLen x }
            c'.put (c'.h.setN d t.val))))

/-! ### The merge (R248 to R253) -/

/-- A value on its way through the merge: its bits, the flags raised, and whether it saturated. -/
structure Part where
  bits : Nat
  flags : Flags
  ovf : Bool
  deriving DecidableEq, Repr

/-- The bounds of an integer kind. -/
def Kind.bounds : Kind → Int × Int
  | .int true w => (-(2 ^ (w - 1) : Nat), (2 ^ (w - 1) : Nat) - 1)
  | .int false w => (0, (2 ^ w : Nat) - 1)
  | _ => (0, 0)

/-- The sum of two values: rounded under RNE, or saturating (R249). -/
def sumParts (k : Kind) (a b : Part) : Part :=
  let f := a.flags ||| b.flags
  if k.isInt then
    let (lo, hi) := k.bounds
    let v := k.intVal a.bits + k.intVal b.bits
    let w := max lo (min hi v)
    ⟨ofInt (k.width 64) w, f, a.ovf || b.ovf || v != w⟩
  else
    let (x, g) := k.fromReal ⟨0, false, 0⟩ ((k.value a.bits).add 0 (k.value b.bits))
    ⟨x, f ||| g, a.ovf || b.ovf⟩

/-- The combination of an operation: 0 SUM, 1 MAX, 2 MIN (R249). -/
def combineParts (op : Nat) (k : Kind) (a b : Part) : Part :=
  let f := a.flags ||| b.flags
  match op with
  | 0 => sumParts k a b
  | op =>
    if k.isInt then
      let aFirst := decide (k.intVal a.bits ≤ k.intVal b.bits)
      ⟨if (op == 2) == aFirst then a.bits else b.bits, f, a.ovf || b.ovf⟩
    else
      let x := k.value a.bits
      let y := k.value b.bits
      let (v, g) := k.fromReal ⟨0, false, 0⟩ (if op == 1 then x.maximum y else x.minimum y)
      ⟨v, f ||| g, a.ovf || b.ovf⟩

/-- One stage of the tree: neighbours combine, a last one without a neighbour passes (R248). -/
def mergeStage {α : Type} (f : α → α → α) : List α → List α
  | a :: b :: rest => f a b :: mergeStage f rest
  | l => l

/-- The tree over at most 128 ranks. DEDUCED (log entry 33). -/
def treeMerge {α : Type} (f : α → α → α) (l : List α) : Option α :=
  let st := mergeStage f
  (st (st (st (st (st (st (st l))))))).head?

/-- What a merge gives: the code, the bytes for DST with `spoil` when it becomes undefined instead, and the
status fields (R254). -/
structure Merged where
  code : Nat
  out : List Byte
  spoil : Bool
  nout : Nat
  refused : Nat
  dense : Bool
  ovf : Bool
  flags : Flags
  deriving DecidableEq, Repr

/-- A collective that ends with a code and writes nothing at DST. -/
def Merged.ended (code : Nat) (spoil : Bool) : Merged := ⟨code, [], spoil, 0, 0, false, false, 0⟩

/-- All the parts' flags and saturation. -/
def partsFlags (ps : List Part) : Flags × Bool :=
  forEach ps (0, false) (fun a p => (a.1 ||| p.flags, a.2 || p.ovf))

/-- SUM, MAX and MIN of the members' elements, in rank order (R249). -/
def mergeElements (d : CollDesc) (members : List (List Byte)) : Merged :=
  let k := kindOf d.typ
  let z := collSize d.typ
  let outs := (List.range d.count).map (fun i =>
    (treeMerge (combineParts d.op k) (members.map (fun bs => ⟨bytesAt bs (z * i) z, 0, false⟩))).getD
      ⟨0, 0, false⟩)
  let (f, o) := partsFlags outs
  ⟨0, outs.flatMap (fun p => leBytes z p.bits), false, d.count, 0, false, o, f⟩

/-- The rank of two pairs of an ASSAY (R222, R250). -/
def pairRank (k : Kind) (a b : Nat × Nat) : Bool :=
  let r := (k.value a.1).rank (k.value b.1)
  decide (0 < r) || (r == 0 && decide (a.2 < b.2))

/-- The first K pairs of the whole multiset, and the count of NaN values (R250). -/
def mergeAssay (d : CollDesc) (members : List (List Byte)) : Merged :=
  let k := kindOf d.typ
  let all := members.flatMap (fun bs => (List.range (bs.length / 8)).map (fun i =>
    (bytesAt bs (8 * i) 4, bytesAt bs (8 * i + 4) 4)))
  let (nans, good) := all.partition (fun p => (k.value p.1).isNan)
  let best := (sortBy (pairRank k) good).take d.k
  let empty := if d.typ == 0x03 then 0x80000000 else 0xFF800000
  let rows := (List.range d.k).map (fun i => (best[i]?).getD (empty, 0xFFFFFFFF))
  ⟨0, rows.flatMap (fun p => leBytes 4 p.1 ++ leBytes 4 p.2), false, best.length, min 255 nans.length,
    false, false, 0⟩

/-- The values of an index present in streams, in rank order. -/
def valuesAt (streams : List (List (Nat × Nat))) (i : Nat) : List Nat :=
  streams.filterMap (fun es => (es.find? (fun e => e.1 == i)).map (·.2))

/-- The sum of an index: one at a time in ascending rank; one value alone stays unrounded (R252). -/
def sumIndex (k : Kind) (vs : List Nat) : Option Part :=
  match vs with
  | [] => none
  | v :: rest => some (forEach rest ⟨v, 0, false⟩ (fun p x => sumParts k p ⟨x, 0, false⟩))

/-- The bytes of a stream (R251). -/
def streamBytes (h : Stream) (dense ovf : Bool) (entries : List (Nat × Nat)) : List Byte :=
  let head := leBytes 2 0x5A53 ++ leBytes 1 h.vtag ++ leBytes 1 (bool01 dense + 2 * bool01 ovf) ++
    leBytes 2 h.fill ++ leBytes 2 0 ++ leBytes 4 (if dense then 0 else entries.length) ++ leBytes 4 0 ++
    leBytes 8 h.ibase ++ leBytes 4 h.irange ++ leBytes 4 0
  head ++ (if dense then
      (List.range h.irange).flatMap (fun i =>
        leBytes h.z (((entries.find? (fun e => e.1 == i)).map (·.2)).getD 0))
    else entries.flatMap (fun e => leBytes (h.e / 2) e.1 ++ leBytes h.z e.2))

/-- SSUM of the members' streams (R252, R253). DEDUCED (log entry 33): a member judges code 4 by its own COUNT, and it
leaves its DST as it was. -/
def mergeStreams (d : CollDesc) (members : List (List Byte)) : Merged :=
  let heads := members.map streamHead
  if members.any (fun bs => !streamOk bs) then .ended 1 true
  else
    match heads with
    | [] => .ended 1 true
    | h :: rest =>
      if rest.any (fun x => x.vtag != h.vtag || x.fill != h.fill || x.ibase != h.ibase || x.irange != h.irange)
      then .ended 2 false
      else
        let streams := members.map (fun bs => (streamHead bs).entries bs)
        let indices := (List.range h.irange).filter (fun i => streams.any (fun es => es.any (fun e => e.1 == i)))
        let parts := indices.filterMap (fun i => (sumIndex (kindOf h.vtag) (valuesAt streams i)).map (fun p => (i, p)))
        let m := parts.length
        let entries := parts.map (fun p => (p.1, p.2.bits))
        let (f, o) := partsFlags (parts.map (·.2))
        let dense := decide (h.fill * h.irange * h.z ≤ 256 * m * h.e) || decide (d.count < 32 + m * h.e)
        if dense && d.count < 32 + h.irange * h.z then .ended 4 false
        else ⟨0, streamBytes h dense o entries, false, m, 0, dense, o, f⟩

/-- The merge of what the members bring, in rank order, this device's part among them: a mismatch of what
they exchanged ends it (R248). DEDUCED (log entry 33). -/
def merge (d : CollDesc) (peers : List CollMember) (members : List (List Byte)) : Merged :=
  if peers.any (fun p => p.op != d.op || p.typ != d.typ || p.cls != d.cls || p.k != d.k ||
      (d.op < 3 && p.count != d.count))
  then .ended 2 false
  else
    match d.op with
    | 3 => mergeAssay d members
    | 4 => mergeStreams d members
    | _ => mergeElements d members

/-! ### The end (R254, R271, R400) -/

/-- The fabric detail of a status: REASON, PORT, and the ordinal concerned. -/
structure FabricDetail where
  reason : Nat
  port : Nat
  ord : Option Nat

/-- No fabric detail. -/
def noDetail : FabricDetail := ⟨0, 0x1F, none⟩

/-- Flit replays on this device's ports since a collective started, saturating. DEDUCED (log entry 34). -/
def State.replaysSince (s : State) (st : CollStart) : Nat :=
  let now := total (s.portCounts.map (fun p => p.replays.toNat))
  let then_ := total (st.ports.map (fun p => p.replays.toNat))
  min (2 ^ 32 - 1) (now - then_)

/-- The second status doubleword. DEDUCED (log entry 34). -/
def State.statusHigh (s : State) (st : CollStart) (f : FabricDetail) : Nat :=
  s.replaysSince st * 2 ^ 32 + f.reason * 2 ^ 16 + f.port * 2 ^ 8 + bool01 f.ord.isSome * 2 ^ 7 + f.ord.getD 0

/-- The first status doubleword. -/
def Merged.status (m : Merged) : Nat :=
  m.nout * 2 ^ 32 + m.refused * 2 ^ 24 + bool01 m.dense * 2 ^ 22 + bool01 m.ovf * 2 ^ 21 +
    m.flags.toNat * 2 ^ 16 + m.code

/-- The writes of an end, once all of them can be done: DST, the second status doubleword, then the first as a release
(R271). -/
def Ctx.writeColl (c : Ctx) (d : CollDesc) (m : Merged) (high : Nat) : Got (Unit × Ctx) := do
  let out := if m.code == 0 then m.out else []
  let (_, c) ← c.checkRange d.dst out
  let (_, c) ← c.checkRange d.status (leBytes 8 m.status ++ leBytes 8 high)
  let c := if m.spoil then c.spoilRange d.dst d.dstLen else c
  let (_, c) ← c.writeRange d.dst out
  let (_, c) ← c.writeRange (d.status + 8) (leBytes 8 high)
  c.writeRange d.status (leBytes 8 m.status)

/-- Count an end (R392). -/
def State.countEnd (s : State) (code : Nat) : State :=
  match code with
  | 1 => { s with fab := { s.fab with sfault := s.fab.sfault + 1 } }
  | 3 => { s with fab := { s.fab with ctout := s.fab.ctout + 1 } }
  | _ => s

/-- End the collective of tag t of hart k; one whose writes meet a fault that the hall cannot resolve fails (R242).
DEDUCED (log entry 33). -/
def endColl (k : Nat) (t : Slot) (c : Ctx) (f : Flight) (d : CollDesc) (st : CollStart) (m : Merged)
    (fd : FabricDetail) : State :=
  match attempt ((c.withPages f).writeColl d m (c.s.statusHigh st fd)) with
  | .ends c => (c.freeTagOf k t).countEnd m.code
  | .stalls c g => c.stallTag k t f g
  | .waits c sent => c.waitTag k t f sent
  | .fails c g => c.failTransfer k t f.transfer g

/-- The end of a collective by a case of R400: with CODE 5 DST becomes undefined, with CODE 3 it stays. -/
def caseEnd (m : Nat × Nat × Nat × Option Nat) : Merged × FabricDetail :=
  (.ended m.1 (m.1 == 5), ⟨m.2.1, m.2.2.1, m.2.2.2⟩)

/-- A collective that has met no case of R400 yet meets this one. -/
def CollStart.meet (st : CollStart) (m : Option (Nat × Nat × Nat × Option Nat)) : CollStart :=
  { st with met := st.met.or m }

/-- A transfer after something has happened to the fabric: a collective meets the case that `f` finds. -/
def Flight.meet (fl : Flight) (f : CollDesc → Option (Nat × Nat × Nat × Option Nat)) : Flight :=
  match fl.transfer with
  | .coll d st => { fl with transfer := .coll d (st.meet (f d)) }
  | _ => fl

/-- Something has happened to the fabric: every collective under way that has met no case of R400 meets the one that
`f` finds (R400: the first one met is reported). -/
def State.meetAll (s : State) (f : Nat → CollDesc → Option (Nat × Nat × Nat × Option Nat)) : State :=
  { s with harts := (withIndex 0 s.harts).map (fun (k, h) => { h with
    tags := Vector.ofFn (fun (t : Fin 16) => match h.tags[t] with
      | .busy fl => .busy (fl.meet (f (16 * k + t.val)))
      | x => x) }) }

/-- The routes or the ports have changed. -/
def State.meetStanding (s : State) : State :=
  s.meetAll (fun _ d => (s.unroutedMember d.group).map (fun o => (5, 3, 0x1F, some o)))

/-- Port p has gone down, with flits lost: whether it concerned a collective is a free value, for which paths the
fabric uses is not the model's. DESIGN CHOICE (log entry 11). DEDUCED (log entries 33, 34). -/
def State.meetPort (s : State) (p : Nat) (lost : Bool) : State :=
  (s.meetAll (fun n _ =>
    if lost && Config.choice s.tick (40000 + n) % 2 == 1 then some (5, 5, p, none)
    else if Config.choice s.tick (50000 + n) % 2 == 1 then some (5, 4, p, none) else none)).meetStanding

/-- The other members of a group, each once, with this collective's GROUP and a contribution of the length
its fields say. -/
def peersOk (ord : Nat) (d : CollDesc) (peers : List CollMember) : Bool :=
  (List.range 128).all (fun o =>
    let n := (peers.filter (fun p => p.ordinal == o)).length
    if bitAt d.group.toNat o && o != ord then n == 1 else n == 0) &&
  peers.all (fun p => decide (p.ordinal < 128) && p.group == d.group &&
    (match p.op with
      | 3 => p.bytes.length == 8 * p.count
      | 4 => true
      | _ => p.bytes.length == collSize p.typ * p.count))

/-- The contributions in rank order. -/
def byRank (ord : Nat) (own : List Byte) (peers : List CollMember) : List (List Byte) :=
  (sortBy (fun a b => decide (a.1 < b.1)) ((ord, own) :: peers.map (fun p => (p.ordinal, p.bytes)))).map (·.2)

/-- A failure at another device that R400 lets end a collective with CODE 5, or a view of the domain there that lacks
a member (R393). -/
def collFaultCase (d : CollDesc) (e : CollFault) : Option (Nat × Nat × Nat × Option Nat) :=
  if (e.reason == 1 || (3 ≤ e.reason && e.reason ≤ 5)) && decide (e.port < 32) &&
      e.ord.all (fun o => decide (o < 128) && bitAt d.group.toNat o)
  then some (5, e.reason, e.port, e.ord) else none

/-- The merge of what every member brings, or the wait for this device's own part. -/
def joinColl (k : Nat) (t : Slot) (c : Ctx) (f : Flight) (d : CollDesc) (st : CollStart)
    (peers : List CollMember) : State :=
  match (do
    let (_, c) ← c.settleBefore k f.seq f.transfer
    (c.withPages f).readRange d.src (c.collSrcLen d)) with
  | .ok (own, c) =>
    endColl k t c { f with pages := c.h.held } d st (merge d peers (byRank c.s.fab.dord own peers)) noDetail
  | .error (.wait sent c) => c.waitTag k t f sent
  | .error (.fault g c) => if g.stalls then c.stallTag k t f g else c.failTransfer k t f.transfer g

/-- End the collective of tag t of hart k by a case of R400, after what it must not overtake (R260). -/
def caseColl (k : Nat) (t : Slot) (c : Ctx) (f : Flight) (d : CollDesc) (st : CollStart)
    (m : Nat × Nat × Nat × Option Nat) : State :=
  match attempt (c.settleBefore k f.seq f.transfer) with
  | .ends c => endColl k t c f d st (caseEnd m).1 (caseEnd m).2
  | .waits c sent => c.waitTag k t f sent
  | .stalls c _ | .fails c _ => c.waitTag k t f none

/-- End the collective of tag t of hart k by the case it has met, if it has met one; `other` is what happens else. -/
def collectiveStep (k : Nat) (t : Slot) (c : Ctx) (f : Flight) (d : CollDesc) (st : CollStart)
    (other : Option State) : State :=
  if c.s.faultKnown k (.engine t.val) then c.s
  else
    (match st.met with
      | some m => some (caseColl k t c { f with transfer := .coll d st } d st m)
      | none => other).getD c.s

/-- COLLECTIVE_END (R271): every member has joined, or the fabric has failed this one, here or elsewhere. -/
def execCollectiveEnd (s : State) : Result :=
  match s.input with
  | .collectiveEnd k t peers elsewhere =>
    match s.transferOf k t with
    | some (h, f) =>
      match f.transfer with
      | .coll d st =>
        let c : Ctx := ⟨h, s⟩
        .next (collectiveStep k t c f d (st.meet (elsewhere.bind (collFaultCase d)))
          (if peersOk s.fab.dord d peers then some (joinColl k t c f d st peers) else none))
      | .copy _ _ _ _ => .next s
    | none => .next s
  | _ => .next s

/-- COLLECTIVE_TIMEOUT (R254, R400): CTO has passed since this member's start, and it has met no case before; the
event names no member, so ORD is not valid. -/
def execCollectiveTimeout (s : State) : Result :=
  match s.input with
  | .collectiveTimeout k t =>
    match s.transferOf k t with
    | some (h, f) =>
      match f.transfer with
      | .coll d st =>
        if (s.hall.hcnt - st.hcnt).toNat < s.fab.cto then .next s
        else .next (collectiveStep k t ⟨h, s⟩ f d (st.meet (some (3, 2, 0x1F, none))) none)
      | .copy _ _ _ _ => .next s
    | none => .next s
  | _ => .next s

end Sys2Proof.Machine
end

