-- ==== Sys2Proof/Machine/Results.lean ====
section
/-!
DEFINITION. What an instruction of the chain window, a scalar register instruction or a scalar load writes, which X
registers it reads, and what it stores: tables over the instructions' fields, for the replay of a span that has been
changed since the stop (R287).
-/
namespace Sys2Proof.Machine

/-- What an instruction writes in its hart: vector registers element by element, under its mask where `m` says so;
vector registers as a whole; masks; X registers; bins; ATHR. -/
structure Results where
  elems : List VReg := []
  m : Bool := false
  regs : List VReg := []
  masks : List MReg := []
  x : List XReg := []
  bins : List Bin := []
  athr : Bool := false

end Sys2Proof.Machine

namespace Sys2Proof
open Sys2Proof.Machine

/-- The results of an instruction that a stop can leave in a span (R277, R284). -/
def Instr.results : Instr → Results
  | .add d _ _ => { x := [d] }
  | .sub d _ _ => { x := [d] }
  | .and d _ _ => { x := [d] }
  | .or d _ _ => { x := [d] }
  | .xor d _ _ => { x := [d] }
  | .sll d _ _ => { x := [d] }
  | .srl d _ _ => { x := [d] }
  | .sra d _ _ => { x := [d] }
  | .slt d _ _ => { x := [d] }
  | .sltu d _ _ => { x := [d] }
  | .min d _ _ => { x := [d] }
  | .max d _ _ => { x := [d] }
  | .minu d _ _ => { x := [d] }
  | .maxu d _ _ => { x := [d] }
  | .mul d _ _ => { x := [d] }
  | .mulh d _ _ => { x := [d] }
  | .mulhu d _ _ => { x := [d] }
  | .div d _ _ => { x := [d] }
  | .divu d _ _ => { x := [d] }
  | .rem d _ _ => { x := [d] }
  | .remu d _ _ => { x := [d] }
  | .clz d _ => { x := [d] }
  | .ctz d _ => { x := [d] }
  | .cnt d _ => { x := [d] }
  | .sel d _ _ _ => { x := [d] }
  | .addi d _ _ => { x := [d] }
  | .andi d _ _ => { x := [d] }
  | .ori d _ _ => { x := [d] }
  | .xori d _ _ => { x := [d] }
  | .slli d _ _ => { x := [d] }
  | .srli d _ _ => { x := [d] }
  | .srai d _ _ => { x := [d] }
  | .slti d _ _ => { x := [d] }
  | .sltiu d _ _ => { x := [d] }
  | .lui d _ => { x := [d] }
  | .addpc d _ => { x := [d] }
  | .fadd d _ _ _ => { x := [d] }
  | .fsub d _ _ _ => { x := [d] }
  | .fmul d _ _ _ => { x := [d] }
  | .fdiv d _ _ _ => { x := [d] }
  | .fsqrt d _ _ => { x := [d] }
  | .fmin d _ _ _ => { x := [d] }
  | .fmax d _ _ _ => { x := [d] }
  | .fma d _ _ _ _ => { x := [d] }
  | .fnma d _ _ _ _ => { x := [d] }
  | .feq d _ _ _ => { x := [d] }
  | .flt d _ _ _ => { x := [d] }
  | .fle d _ _ _ => { x := [d] }
  | .fcvtDL d _ _ => { x := [d] }
  | .fcvtLD d _ _ => { x := [d] }
  | .fcvtDS d _ => { x := [d] }
  | .fcvtSD d _ => { x := [d] }
  | .fabs d _ _ => { x := [d] }
  | .fneg d _ _ => { x := [d] }
  | .fkind d _ _ => { x := [d] }
  | .lb d _ _ => { x := [d] }
  | .lbu d _ _ => { x := [d] }
  | .lh d _ _ => { x := [d] }
  | .lhu d _ _ => { x := [d] }
  | .lw d _ _ => { x := [d] }
  | .lwu d _ _ => { x := [d] }
  | .ld d _ _ => { x := [d] }
  | .vadd d _ _ m _ _ => { elems := [d], m := m }
  | .vsub d _ _ m _ _ => { elems := [d], m := m }
  | .vmul d _ _ m _ _ => { elems := [d], m := m }
  | .vdiv d _ _ m _ _ => { elems := [d], m := m }
  | .vsqrt d _ m _ => { elems := [d], m := m }
  | .vmin d _ _ m _ _ => { elems := [d], m := m }
  | .vmax d _ _ m _ _ => { elems := [d], m := m }
  | .vabs d _ m _ => { elems := [d], m := m }
  | .vneg d _ m _ => { elems := [d], m := m }
  | .vand d _ _ m _ _ => { elems := [d], m := m }
  | .vor d _ _ m _ _ => { elems := [d], m := m }
  | .vxor d _ _ m _ _ => { elems := [d], m := m }
  | .vnot d _ m _ => { elems := [d], m := m }
  | .vsll d _ _ m _ _ => { elems := [d], m := m }
  | .vsrl d _ _ m _ _ => { elems := [d], m := m }
  | .vsra d _ _ m _ _ => { elems := [d], m := m }
  | .vmulh d _ _ m _ _ => { elems := [d], m := m }
  | .vrem d _ _ m _ _ => { elems := [d], m := m }
  | .vclz d _ m _ => { elems := [d], m := m }
  | .vcnt d _ m _ => { elems := [d], m := m }
  | .vrcpe d _ m _ => { elems := [d], m := m }
  | .vrsqe d _ m _ => { elems := [d], m := m }
  | .vmv d _ m _ => { elems := [d], m := m }
  | .vmerge d _ _ _ _ => { elems := [d] }
  | .vcvt d _ _ m _ => { elems := [d], m := m }
  | .vfma d _ _ m _ _ => { elems := [d], m := m }
  | .vfms d _ _ m _ _ => { elems := [d], m := m }
  | .vfnma d _ _ m _ _ => { elems := [d], m := m }
  | .vwadd d _ _ _ _ _ => { regs := [d, pairReg d 1] }
  | .vwsub d _ _ _ _ _ => { regs := [d, pairReg d 1] }
  | .vwmul d _ _ _ _ _ => { regs := [d, pairReg d 1] }
  | .vwfma d _ _ _ _ _ => { regs := [d, pairReg d 1] }
  | .vnarrow d _ _ _ => { regs := [d] }
  | .vilv d _ _ _ _ _ => { regs := [d, pairReg d 1] }
  | .vdilv d _ _ _ => { regs := [d, pairReg d 1] }
  | .vscale d _ _ _ _ _ => { regs := [d, pairReg d 1] }
  | .vquant d _ b _ _ => { regs := [d, b] }
  | .vaddX d _ _ m _ => { elems := [d], m := m }
  | .vsubX d _ _ m _ => { elems := [d], m := m }
  | .vmulX d _ _ m _ => { elems := [d], m := m }
  | .vminX d _ _ m _ => { elems := [d], m := m }
  | .vmaxX d _ _ m _ => { elems := [d], m := m }
  | .vandX d _ _ m _ => { elems := [d], m := m }
  | .vorX d _ _ m _ => { elems := [d], m := m }
  | .vxorX d _ _ m _ => { elems := [d], m := m }
  | .vsllX d _ _ m _ => { elems := [d], m := m }
  | .vsrlX d _ _ m _ => { elems := [d], m := m }
  | .vsraX d _ _ m _ => { elems := [d], m := m }
  | .vfmaX d _ _ m _ => { elems := [d], m := m }
  | .vbcst d _ m => { elems := [d], m := m }
  | .vidx d m => { elems := [d], m := m }
  | .vcmpEq d _ _ _ _ => { masks := [d] }
  | .vcmpNe d _ _ _ _ => { masks := [d] }
  | .vcmpLt d _ _ _ _ => { masks := [d] }
  | .vcmpLe d _ _ _ _ => { masks := [d] }
  | .vcmpGt d _ _ _ _ => { masks := [d] }
  | .vcmpGe d _ _ _ _ => { masks := [d] }
  | .vcmpUn d _ _ _ _ => { masks := [d] }
  | .vcmpOr d _ _ _ _ => { masks := [d] }
  | .mand d _ _ _ => { masks := [d] }
  | .mor d _ _ _ => { masks := [d] }
  | .mxor d _ _ _ => { masks := [d] }
  | .mandn d _ _ _ => { masks := [d] }
  | .mnot d _ _ => { masks := [d] }
  | .mcnt d _ _ => { x := [d] }
  | .mffs d _ _ => { x := [d] }
  | .mtox d _ _ _ => { x := [d] }
  | .mxtom d _ _ _ => { masks := [d] }
  | .mpref d _ _ => { regs := [d] }
  | .msbf d _ _ => { masks := [d] }
  | .vreds d _ _ _ => { regs := [d] }
  | .vdots d _ _ _ _ _ => { regs := [d] }
  | .vfold d _ _ _ => { x := [d] }
  | .vredmax d _ _ _ _ => { x := [d] }
  | .vredmin d _ _ _ _ => { x := [d] }
  | .vredand d _ _ _ _ => { x := [d] }
  | .vredor d _ _ _ _ => { x := [d] }
  | .vld d _ m => { elems := [d], m := m }
  | .vlds d _ _ m => { elems := [d], m := m }
  | .vldx d _ _ m _ => { elems := [d], m := m }
  | .vldO d _ m => { elems := [d], m := m }
  | .vldsO d _ _ m => { elems := [d], m := m }
  | .vldxO d _ _ m _ => { elems := [d], m := m }
  | .vldt d _ _ m _ => { elems := [d], m := m }
  | .vldsp d _ m => { elems := [d], m := m }
  | .vldsh d _ m => { elems := [d], m := m }
  | .vcompress d _ _ _ => { regs := [d] }
  | .vexpand d _ _ _ => { regs := [d] }
  | .vconf d _ _ _ => { regs := [d] }
  | .vrank d _ _ _ _ _ => { regs := [d] }
  | .vselb d _ _ _ _ _ => { regs := [d] }
  | .vpush d _ _ _ _ _ => { regs := [d] }
  | .vpull d _ _ _ _ _ => { regs := [d] }
  | .vsldn d _ _ _ _ => { regs := [d] }
  | .vslup d _ _ _ _ => { regs := [d] }
  | .vrnd d _ m => { elems := [d], m := m }
  | .vrndf d _ m => { elems := [d], m := m }
  | .vacc d _ _ _ => { masks := [d] }
  | .pass d c _ _ _ _ _ => { regs := [d, c], masks := [10, 11] }
  | .passk d c _ _ => { regs := [d, c], masks := [10, 11] }
  | .vmergek d c _ _ _ => { regs := [d, c] }
  | .mzro bin _ => { bins := [bin] }
  | .masy bin _ => { bins := [bin] }
  | .mrd d _ _ => { regs := [d] }
  | .mwr bin _ _ => { bins := [bin] }
  | .maget d c _ _ => { regs := [d, c] }
  | .mthr d _ _ => { x := [d], athr := true }
  | .mopa bin _ _ _ _ _ => { bins := [bin] }
  | .mops bin _ _ _ _ _ _ _ => { bins := [bin] }
  | .masv bin _ _ _ _ _ _ => { bins := [bin] }
  | .mdrn bin _ _ => { bins := [bin] }
  | .vxfdRle d _ _ _ => { regs := [d] }
  | .vxfdDelta d _ _ _ => { regs := [d] }
  | .vxfdPlane d _ _ _ => { regs := [d] }
  | .vxfdSect d _ _ _ => { regs := [d] }
  | .vxfeRle d _ _ _ => { regs := [d] }
  | .vxfeDelta d _ _ _ => { regs := [d] }
  | .vxfePlane d _ _ _ => { regs := [d] }
  | .vxfeSect d _ _ _ => { regs := [d] }
  | _ => {}

/-- The X register of a comparison's second operand. -/
def CmpOperand.xreads : CmpOperand → List XReg
  | .scalar x => [x]
  | _ => []

/-- The X registers that an instruction of a span reads. -/
def Instr.xreads : Instr → List XReg
  | .add _ a b => [a, b]
  | .sub _ a b => [a, b]
  | .and _ a b => [a, b]
  | .or _ a b => [a, b]
  | .xor _ a b => [a, b]
  | .sll _ a b => [a, b]
  | .srl _ a b => [a, b]
  | .sra _ a b => [a, b]
  | .slt _ a b => [a, b]
  | .sltu _ a b => [a, b]
  | .min _ a b => [a, b]
  | .max _ a b => [a, b]
  | .minu _ a b => [a, b]
  | .maxu _ a b => [a, b]
  | .mul _ a b => [a, b]
  | .mulh _ a b => [a, b]
  | .mulhu _ a b => [a, b]
  | .div _ a b => [a, b]
  | .divu _ a b => [a, b]
  | .rem _ a b => [a, b]
  | .remu _ a b => [a, b]
  | .clz _ a => [a]
  | .ctz _ a => [a]
  | .cnt _ a => [a]
  | .sel _ a b c => [a, b, c]
  | .addi _ a _ => [a]
  | .andi _ a _ => [a]
  | .ori _ a _ => [a]
  | .xori _ a _ => [a]
  | .slli _ a _ => [a]
  | .srli _ a _ => [a]
  | .srai _ a _ => [a]
  | .slti _ a _ => [a]
  | .sltiu _ a _ => [a]
  | .fadd _ a b _ => [a, b]
  | .fsub _ a b _ => [a, b]
  | .fmul _ a b _ => [a, b]
  | .fdiv _ a b _ => [a, b]
  | .fsqrt _ a _ => [a]
  | .fmin _ a b _ => [a, b]
  | .fmax _ a b _ => [a, b]
  | .fma _ a b c _ => [a, b, c]
  | .fnma _ a b c _ => [a, b, c]
  | .feq _ a b _ => [a, b]
  | .flt _ a b _ => [a, b]
  | .fle _ a b _ => [a, b]
  | .fcvtDL _ a _ => [a]
  | .fcvtLD _ a _ => [a]
  | .fcvtDS _ a => [a]
  | .fcvtSD _ a => [a]
  | .fabs _ a _ => [a]
  | .fneg _ a _ => [a]
  | .fkind _ a _ => [a]
  | .lb _ a _ => [a]
  | .lbu _ a _ => [a]
  | .lh _ a _ => [a]
  | .lhu _ a _ => [a]
  | .lw _ a _ => [a]
  | .lwu _ a _ => [a]
  | .ld _ a _ => [a]
  | .vaddX _ _ b _ _ => [b]
  | .vsubX _ _ b _ _ => [b]
  | .vmulX _ _ b _ _ => [b]
  | .vminX _ _ b _ _ => [b]
  | .vmaxX _ _ b _ _ => [b]
  | .vandX _ _ b _ _ => [b]
  | .vorX _ _ b _ _ => [b]
  | .vxorX _ _ b _ _ => [b]
  | .vsllX _ _ b _ _ => [b]
  | .vsrlX _ _ b _ _ => [b]
  | .vsraX _ _ b _ _ => [b]
  | .vfmaX _ _ b _ _ => [b]
  | .vbcst _ b _ => [b]
  | .vcmpEq _ _ b _ _ => b.xreads
  | .vcmpNe _ _ b _ _ => b.xreads
  | .vcmpLt _ _ b _ _ => b.xreads
  | .vcmpLe _ _ b _ _ => b.xreads
  | .vcmpGt _ _ b _ _ => b.xreads
  | .vcmpGe _ _ b _ _ => b.xreads
  | .vcmpUn _ _ b _ _ => b.xreads
  | .vcmpOr _ _ b _ _ => b.xreads
  | .mtox _ _ b _ => [b]
  | .mxtom _ a b _ => [a, b]
  | .vfold _ _ b _ => [b]
  | .vredmax _ _ b _ _ => [b]
  | .vredmin _ _ b _ _ => [b]
  | .vredand _ _ b _ _ => [b]
  | .vredor _ _ b _ _ => [b]
  | .vld _ base _ => [base]
  | .vlds _ base stride _ => [base, stride]
  | .vldx _ base _ _ _ => [base]
  | .vldO _ base _ => [base]
  | .vldsO _ base stride _ => [base, stride]
  | .vldxO _ base _ _ _ => [base]
  | .vst _ base _ _ => [base]
  | .vsts _ base stride _ _ => [base, stride]
  | .vstx _ base _ _ _ => [base]
  | .vstO _ base _ _ => [base]
  | .vstsO _ base stride _ _ => [base, stride]
  | .vstxO _ base _ _ _ => [base]
  | .vldt _ _ b _ _ => [b]
  | .vstt _ _ b _ _ => [b]
  | .vldsp _ base _ => [base]
  | .vldsh _ base _ => [base]
  | .vpref base => [base]
  | .vsldn _ _ b _ _ => [b]
  | .vslup _ _ b _ _ => [b]
  | .vrnd _ b _ => [b]
  | .vrndf _ b _ => [b]
  | .vacc _ _ b _ => [b]
  | .vmergek _ _ k _ _ => [k]
  | .masy _ k => [k]
  | .mrd _ _ r => [r]
  | .mwr _ _ r => [r]
  | .maget _ _ _ r => [r]
  | .mthr _ _ r => [r]
  | .masv _ _ _ r _ _ _ => [r]
  | .mdrn _ _ base => [base]
  | .vxfdRle _ _ b _ => [b]
  | .vxfdDelta _ _ b _ => [b]
  | .vxfdPlane _ _ b _ => [b]
  | .vxfdSect _ _ b _ => [b]
  | .vxfeRle _ _ b _ => [b]
  | .vxfeDelta _ _ b _ => [b]
  | .vxfePlane _ _ b _ => [b]
  | .vxfeSect _ _ b _ => [b]
  | _ => []

/-- An instruction reads SB: the strip reductions and the random numbers, and everything that rounds by RM = 5 (R63,
R68, R191). -/
def Instr.readsSb (i : Instr) (rm : Nat) : Bool :=
  rm == 5 || match i with
    | .vreds _ _ _ _ | .vdots _ _ _ _ _ _ | .vrnd _ _ _ | .vrndf _ _ _ => true
    | _ => false

/-- The vector register that a store writes to memory or to the lane tables. -/
def Instr.stored : Instr → Option VReg
  | .vst r _ _ _ | .vsts r _ _ _ _ | .vstx r _ _ _ _ => some r
  | .vstO r _ _ _ | .vstsO r _ _ _ _ | .vstxO r _ _ _ _ => some r
  | .vstt r _ _ _ _ => some r
  | _ => none

/-- The same store of another register. -/
def Instr.storing (q : VReg) : Instr → Instr
  | .vst _ base m ca => .vst q base m ca
  | .vsts _ base stride m ca => .vsts q base stride m ca
  | .vstx _ base idx m ca => .vstx q base idx m ca
  | .vstO _ base m ca => .vstO q base m ca
  | .vstsO _ base stride m ca => .vstsO q base stride m ca
  | .vstxO _ base idx m ca => .vstxO q base idx m ca
  | .vstt _ a b m ca => .vstt q a b m ca
  | i => i

end Sys2Proof
end

