-- ==== Sys2Proof/Machine/Fetch.lean ====
section
/-!
DEFINITION. What happens around an instruction: time passing (R43, R351), the event that an input names,
fetching and decoding the word at a hart's PC with the order of checks of R98 and R409, and the replay of an
interrupted window (R286).
-/
namespace Sys2Proof.Machine

/-! ### Time -/

/-- A step's time: the step counter, HCNT and every core's CYC move on, the two clocks by amounts the spec
does not fix. After a thermal trip the clocks stand (R407). DESIGN CHOICE (log entry 8). -/
def State.passTime (s : State) : State :=
  if s.rel.tripped then { s with tick := s.tick + 1 }
  else
    { s with
      tick := s.tick + 1
      hall := { s.hall with hcnt := s.hall.hcnt + BitVec.ofNat 64 (Config.hallTicks s.tick) }
      cyc := Vector.ofFn (fun (c : Fin 128) => s.cyc[c] + BitVec.ofNat 64 (Config.cycles s.tick c.val)) }

/-! ### Events -/

/-- The event of opcode_table.json whose operands an input carries. -/
def eventOf : Input → Option Instr
  | .idle => none
  | .stallChangeRequest _ _ => some .stallChangeRequest
  | .stallAdoption _ => some .stallAdoption
  | .setvlYield _ => some .setvlYield
  | .hartEnd _ => some .hartEnd
  | .barrierCompletion _ => some .barrierCompletion
  | .engineTransferEnd _ _ => some .engineTransferEnd
  | .engineTransferFailure _ _ => some .engineTransferFailure
  | .hardStop _ _ => some .hardStop
  | .contextRestore _ _ => some .contextRestore
  | .yieldRequest _ => some .yieldRequest
  | .yieldWindowExpiry _ => some .yieldWindowExpiry
  | .narrowingTimeout _ => some .narrowingTimeout
  | .matrixArbitration _ => some .matrixArbitration
  | .laneBlockReady _ _ => some .laneBlockReady
  | .laneRunJoin _ => some .laneRunJoin
  | .malformedAccess _ _ _ => some .malformedAccess
  | .hostRead _ _ _ _ => some .hostRead
  | .hostWrite _ _ _ => some .hostWrite
  | .hostAtomic _ _ _ _ _ _ => some .hostAtomic
  | .hostLmove _ _ _ => some .hostLmove
  | .hostRegisterWrite _ _ _ _ => some .hostRegisterWrite
  | .linkHold _ _ => some .linkHold
  | .linkHoldRelease _ _ => some .linkHoldRelease
  | .linkDown => some .linkDown
  | .linkUp => some .linkUp
  | .linkAccessTimeout _ _ => some .linkAccessTimeout
  | .queueEnable _ _ => some .queueEnable
  | .queueReset _ => some .queueReset
  | .queueResetDone _ => some .queueResetDone
  | .launchAccept _ => some .launchAccept
  | .gangPlacement _ _ => some .gangPlacement
  | .completionPost => some .completionPost
  | .preemption _ => some .preemption
  | .agingExpiry _ => some .agingExpiry
  | .syscNull _ => some .syscNull
  | .syscTime _ => some .syscTime
  | .syscBudget _ => some .syscBudget
  | .syscPrefault _ => some .syscPrefault
  | .syscUnknown _ => some .syscUnknown
  | .devicePageMap _ _ => some .devicePageMap
  | .faultRecordPost => some .faultRecordPost
  | .frespRetry _ => some .frespRetry
  | .frespEnd _ => some .frespEnd
  | .invalidate _ => some .invalidate
  | .invalidationComplete => some .invalidationComplete
  | .deviceReset => some .deviceReset
  | .recoveryGo => some .recoveryGo
  | .firmwareFlashWrite _ _ _ => some .firmwareFlashWrite
  | .attestRequest => some .attestRequest
  | .attestReportComplete => some .attestReportComplete
  | .domainEnable _ => some .domainEnable
  | .fabricAckTimeout _ _ => some .fabricAckTimeout
  | .flitCrcReplay _ _ _ _ => some .flitCrcReplay
  | .portTrain _ _ _ => some .portTrain
  | .collectiveTimeout _ _ => some .collectiveTimeout
  | .collectiveEnd _ _ _ _ => some .collectiveEnd
  | .hbmScrub _ _ => some .hbmScrub
  | .governorTick _ => some .governorTick
  | .thermalThrottle _ => some .thermalThrottle
  | .thermalThrottleEnd _ => some .thermalThrottleEnd
  | .thermalTrip _ => some .thermalTrip
  | .remoteAccess _ => some .remoteAccess
  | .dmembWrite _ _ => some .dmembWrite
  | .powerLoss _ => some .powerLoss

/-! ### Fetch and decode -/

/-- What the fetch of a hart's next word comes to: an instruction to run, or nothing more this step. -/
inductive Fetched where
  | run (i : Instr) (s : State)
  | rest (s : State)

/-- The detail of a refused word, the rules of R94 included (R409): they come before details 4 and 6. -/
def illegalDetail (h : Hart) (d : Nat) (fields : Option Instr) : Nat :=
  match fields with
  | some i => if 3 < d && !h.prefixAdmits i then 3 else d
  | none => d

/-- Decode a fetched word: run it, or trap ILLEGAL (R96); a word other than VFETCH after LSPLIT clears LT
(R228). -/
def decodeFetched (k : Nat) (c : Ctx) (w : Nat) : Fetched :=
  match decodeWord w with
  | .instr i => .run i (c.s.setHart k c.h)
  | .illegal d fields =>
    let d := illegalDetail c.h d fields
    let h := if c.h.split then { c.h with lt := false, split := false } else c.h
    .rest (deliverTrap k { c with h := h } { Trap.illegal d with atSelf := d == 3 })

/-- Fetch the word at the PC and go on with it; a fetch fault comes before every other cause (R98, R296). -/
def fetchThen (k : Nat) (c : Ctx) (f : Ctx → Nat → Fetched) : Fetched :=
  match c.fetch c.h.pc with
  | .error (.wait sent _) => .rest ((c.sending sent).boundary k)
  | .error (.fault m c) => .rest (deliverTrap k c (m.trap 0 none))
  | .ok (w, c) => f c w

/-- The entry that names distance d: whether it is WIN0, and its IDX (R286). -/
def Hart.entryAt (h : Hart) (d : Nat) : Option (Bool × Nat) :=
  if winValid h.win[0] && winDist h.win[0] == d then some (true, winIdx h.win[0])
  else ((h.win.toList.drop 1).find? (fun w => winValid w && winDist w == d)).map (fun w => (false, winIdx w))

/-- Something that an entry relies on has changed since the stop (R287): the words of the span, the WIN entries but for
WIN0.IDX, VTYPE, VROWS, VCOLS; and of what the entries read, an X register, a tag or SB. -/
def Ctx.spanChanged (c : Ctx) (sp : SpanSeen) : Bool :=
  let h := c.h
  let entry := fun (w : Word) => w.toNat / 2 ^ 17
  let ins := (h.win.toList.filter winValid).filterMap (fun w =>
    (c.peek (sp.pc + BitVec.ofNat 64 (4 * winDist w)).toNat 4).bind (fun w =>
      match decodeWord w with
      | .instr i => some i
      | .illegal _ _ => none))
  let tags := h.v.toList.map (·.tag)
  sp.broken || differ sp.words (c.spanWords sp.pc sp.nxt) || sp.win.drop 1 != h.win.toList.drop 1 ||
    sp.win.head?.map entry != some (entry h.win[0]) || sp.vtype != h.vtype || sp.vrows != h.vrows ||
    sp.vcols != h.vcols || ins.any (fun i => i.xreads.any (fun r => sp.x[r] != h.x[r]) ||
      (i.readsSb h.rm && sp.sb != h.sb) ||
      ((if h.blk == 0 then [] else [47]) ++ i.vregs).any (fun r => sp.tags[r]? != tags[r]?))

/-- At the start of a replay: whether what the span relies on has changed is noted. -/
def Ctx.checkSpan (c : Ctx) : Ctx :=
  { c with h := { c.h with span := c.h.span.map (fun sp => { sp with broken := c.spanChanged sp }) } }

/-- One distance of a replay (R286): issue the word an entry names, from VSTART for WIN0 and from its IDX
for another; re-issue a PFX that stands before such a word; skip every other word. DEDUCED (log 30): an
instruction a handler skips by WIN0.IDX leaves VSTART = 0 as a completed one does, so that what follows does not
depend on whether it had issued before the trap. -/
def replayWord (k d : Nat) (c : Ctx) : Fetched :=
  let c := if d == 0 then c.checkSpan else c
  let skip := Fetched.rest (Ctx.boundary { c with h := c.h.advance } k)
  match c.h.entryAt d with
  | some (first, idx) =>
    if first && idx == winSkip then
      .rest (Ctx.boundary { c with h := { c.h.advance with vstart := 0 } } k)
    else
      let h := if first then c.h else { c.h with vstart := idx }
      fetchThen k { c with h := h } (decodeFetched k)
  | none =>
    if c.h.named (d + 1) then
      fetchThen k c (fun c w =>
        if fld w 26 6 == 1 then decodeFetched k c w
        else .rest (Ctx.boundary { c with h := c.h.advance } k))
    else skip

/-- The next instruction of hart k. -/
def fetchHart (k : Nat) (s : State) : Fetched :=
  match s.harts[k]? with
  | none => .rest s
  | some h =>
    if !h.canIssue then .rest s
    else
      match h.replay with
      | none => fetchThen k ⟨h, s⟩ (decodeFetched k)
      | some rp => replayWord k rp.d ⟨h, s⟩

end Sys2Proof.Machine
end

