-- ==== Sys2Proof/Machine/Matrix.lean ====
section
/-!
DEFINITION. The matrix unit: rows (R209 to R214, R220), outer products (majors 0x27 and 0x28, R75 to R77,
R215 to R219), and assay lists (major 0x29, R221 to R226).
-/
namespace Sys2Proof.Machine

/-! ### Checks (R98, R210) -/

/-- A matrix function of an attached hart; NOMAT comes first. -/
def Ctx.attached (c : Ctx) (k : HRes) : HRes :=
  if c.h.ma then k else .trap c (.plain causeNomat 0)

/-- A matrix function on the row that an X register names. -/
def Ctx.onRow (c : Ctx) (r : XReg) (k : Nat → HRes) : HRes :=
  c.attached (if c.h.getU r < c.h.mgrant then k (c.h.getU r) else .trap c (.illegal 5))

/-- A matrix instruction that completes leaves VSTART = 0 (R116). DEDUCED (log entry 26). -/
def Ctx.putWhole (c : Ctx) (h : Hart) : HRes := c.put { h with vstart := 0 }

/-! ### Cells (R210) -/

/-- The 32 bits of cell (i, j) of a bin. DESIGN CHOICE (log entry 7). -/
def Hart.cellWord (h : Hart) (tick : Nat) (bin : Bin) (i j : Nat) : Nat :=
  match h.bins[bin].cells.get (128 * i + j) with
  | some w => w.toNat
  | none => (Config.undefWord tick (0x2000000 + 0x10000 * bin.val + 128 * i + j)).toNat % 2 ^ 32

/-- Change a bin's rows. -/
def Hart.mapBin (h : Hart) (bin : Bin) (f : BinRows → BinRows) : Hart :=
  { h with bins := h.bins.set bin (f h.bins[bin]) }

/-- Write the 32 bits of cell (i, j) of a bin. -/
def Hart.setCellWord (h : Hart) (bin : Bin) (i j v : Nat) : Hart :=
  h.mapBin bin (fun b => { b with cells := b.cells.set (128 * i + j) (BitVec.ofNat 32 v) })

/-- The other bin of a pair. -/
def otherBin : Bin → Bin
  | 0 => 1 | 1 => 0 | 2 => 3 | 3 => 2

/-- The type of a hart's rows of a bin. -/
def Hart.rowType (h : Hart) (bin : Bin) : RowType := h.bins[bin].typ

/-- The kind of a plain row's cells. -/
def RowType.kind : RowType → Kind
  | .f32 => .flt fmtF32
  | .i32 => .int true 32
  | .f64 => .flt fmtF64
  | .assayF32 => .flt fmtF32
  | .assayI32 => .int true 32

/-- The bits of cell (i, j), of both bins for an F64 pair. -/
def Hart.cell (h : Hart) (tick : Nat) (bin : Bin) (i j : Nat) : Nat :=
  let lo := h.cellWord tick bin i j
  if h.rowType bin == .f64 then lo + 2 ^ 32 * h.cellWord tick (otherBin bin) i j else lo

/-- Write cell (i, j). -/
def Hart.setCell (h : Hart) (bin : Bin) (i j v : Nat) : Hart :=
  let h' := h.setCellWord bin i j v
  if h.rowType bin == .f64 then h'.setCellWord (otherBin bin) i j (v / 2 ^ 32) else h'

/-- A plain row, read and written through the bin named: an F64 pair through its even bin (R220). -/
def Hart.plainRow (h : Hart) (bin : Bin) : Bool :=
  match h.rowType bin with
  | .f32 => true
  | .i32 => true
  | .f64 => bin.val % 2 == 0
  | _ => false

/-- The row rounds into a floating type (R410). -/
def RowType.floats : RowType → Bool
  | .f32 => true | .f64 => true | _ => false

/-! ### Attaching (R211, R212) -/

/-- The answer to a MATT request of hart k, once it is its turn (R211, R355). DEDUCED (log entry 52). -/
def answerMatt (k : Nat) (d a b : XReg) (c : Ctx) : HRes :=
  let n := c.h.getU a
  let cols := c.h.getU b
  if c.h.ma then .trap c (.illegal 4)
  else if n % 16 != 0 || 128 < n || cols < 1 || 128 < cols then .trap c (.illegal 5)
  else
    let h : Hart := { c.h with mattAt := c.h.mattAt.or (some c.s.hall.hcnt) }
    let g := c.s.rowGrant k c.h.core n
    if c.s.matrixWaits k h then .hold { c with h := h }
    else c.put { c.h.setN d g with
      mattAt := none
      mgrant := g
      mvl := cols
      ma := true
      bins := Vector.replicate 4 BinRows.reset }

/-- MATT (R211). DEDUCED (log entry 26). -/
def execMatt (d a b : XReg) (s : State) : Result :=
  runHart (.matt d a b) s (answerMatt s.cur d a b)

/-- MDET (R212). -/
def execMdet (s : State) : Result :=
  runHart .mdet s (fun c =>
    if c.h.ma then c.put { c.h with ma := false, mgrant := 0, bins := Vector.replicate 4 BinRows.reset }
    else .done c)

/-! ### Typing rows (R213, R221) -/

/-- Rows of a type that hold zeros. -/
def BinRows.zeros (typ : RowType) : BinRows := ⟨typ, 0, .const 0, []⟩

/-- Type and zero the rows of a bin. -/
def Hart.zeroBin (h : Hart) (bin : Bin) (typ : ZeroTyp) : Hart :=
  let alone := fun (h : Hart) => if h.rowType bin == .f64 then h.mapBin (otherBin bin) (fun _ => .reset) else h
  match typ with
  | .f64 => (h.mapBin bin (fun _ => .zeros .f64)).mapBin (otherBin bin) (fun _ => .zeros .f64)
  | .f32 => (alone h).mapBin bin (fun _ => .zeros .f32)
  | .i32 => (alone h).mapBin bin (fun _ => .zeros .i32)

/-- MZRO (R213). -/
def execMzro (bin : Bin) (typ : ZeroTyp) (s : State) : Result :=
  runHart (.mzro bin typ) s (fun c => c.attached (c.put (c.h.zeroBin bin typ)))

/-- The list type that MASY gives rows of a type; none for an F64 pair. -/
def RowType.assay : RowType → Option RowType
  | .f32 => some .assayF32
  | .assayF32 => some .assayF32
  | .i32 => some .assayI32
  | .assayI32 => some .assayI32
  | .f64 => none

/-- MASY (R221). -/
def execMasy (bin : Bin) (k : XReg) (s : State) : Result :=
  runHart (.masy bin k) s (fun c => c.attached (
    let n := c.h.getU k
    if n < 1 || 64 < n then .trap c (.illegal 5)
    else
      match (c.h.rowType bin).assay with
      | none => .trap c (.illcfg 1)
      | some t => c.put (c.h.mapBin bin (fun _ =>
          ⟨t, n, .undefined, List.replicate c.h.mgrant ⟨[], 0⟩⟩))))

/-! ### Reading and writing rows (R220) -/

/-- The columns that MRD and MWR move. -/
def Hart.rowCols (h : Hart) : List Nat := List.range (min h.mvl h.vl)

/-- Results of the columns in order, up to and with the first that raises an enabled flag: FPX at it with
nothing written and no window entry, for MRD and MWR are serialising (R277); else every write. DEDUCED (log
entry 26). -/
def Ctx.columns (c : Ctx) (f : Nat → Nat × Flags) (put : Hart → Nat → Nat → Hart) : HRes :=
  let outs := c.h.rowCols.map (fun j => (j, f j))
  match outs.find? (fun o => (c.h.enabledFlag o.2.2).isSome) with
  | some (j, o) =>
    let h := forEach (outs.filter (fun o => decide (o.1 ≤ j))) c.h (fun (h : Hart) o => h.orFlags o.2.2)
    .trap { c with h := h } (.fpx ((c.h.enabledFlag o.2).getD 0) j none)
  | none => c.putWhole (forEach outs c.h (fun (h : Hart) o => put (h.orFlags o.2.2) o.1 o.2.1))

/-- MRD (R220). -/
def execMrd (d : VReg) (bin : Bin) (r : XReg) (s : State) : Result :=
  runHart (.mrd d bin r) s (fun c => c.onRow r (fun i =>
    let h := c.h
    let t := c.s.tick
    let typ := h.rowType bin
    let kd := h.kind t d
    c.guarded kd.isFloating
      [h.useFault t useArith d, needTag (h.plainRow bin && (kd.isIN || (typ != .i32 && kd.isFloating)))]
      (c.whole (fun c => c.columns
        (fun j =>
          let x := h.cell t bin i j
          if typ == .i32 then kd.fromInt (h.vecRounding j) (typ.kind.intVal x)
          else kd.fromReal (h.vecRounding j) (typ.kind.value x, 0))
        (fun h' j v => h'.setElem t kd d j v)))))

/-- MWR (R220). -/
def execMwr (bin : Bin) (vs : VReg) (r : XReg) (s : State) : Result :=
  runHart (.mwr bin vs r) s (fun c => c.onRow r (fun i =>
    let h := c.h
    let t := c.s.tick
    let typ := h.rowType bin
    let ks := h.kind t vs
    c.guarded typ.floats
      [h.useFault t useArith vs,
       needTag (h.plainRow bin && (if typ == .i32 then ks.isIN else ks.isFloating))]
      (c.whole (fun c => c.columns
        (fun j => ((h.src t vs).at j).into typ.kind (h.vecRounding j))
        (fun h' j v => h'.setCell bin i j v)))))

/-! ### Outer products (R75 to R77, R215 to R219) -/

/-- The exact sum of products, whatever their order (R75). DEDUCED (log entry 23). -/
def exactSum (rm : Nat) (ps : List (Val × Flags)) : Val × Flags :=
  let f := forEach ps (0 : Flags) (fun a p => a ||| p.2)
  let vs := ps.map (·.1)
  if vs.any (· == .inf false) && vs.any (· == .inf true) then (.nan false, f ||| flagNV)
  else if vs.any Val.isNan then (.nan false, f)
  else ((Val.sum rm vs).1, f)

/-- The new cell: cell + S rounded once, or the integer sum modulo 2^32 (R75, R77). DEDUCED (log entry 23). -/
def Hart.accumulate (h : Hart) (tick : Nat) (bin : Bin) (i j : Nat) (s : Val × Flags) : Nat × Flags :=
  let k := (h.rowType bin).kind
  let (v, f) := (k.value (h.cell tick bin i j)).add h.rm s.1
  let (x, g) := k.round ⟨h.rm, h.sat, 0⟩ v
  (x, s.2 ||| f ||| g)

/-- A step: every cell's new value, then its flags, FPX with no cell written, or the writes (R218). -/
def Ctx.step (c : Ctx) (bin : Bin) (cells : List (Nat × Nat)) (f : Nat → Nat → Nat × Flags) : HRes :=
  let outs := cells.map (fun (i, j) => ((i, j), f i j))
  let fl := forEach outs (0 : Flags) (fun a o => a ||| o.2.2)
  let h := c.h.orFlags fl
  match c.h.enabledFlag fl with
  | some b => .trap { c with h := h } (.fpx b 0 (some 0))
  | none => c.putWhole (forEach outs h (fun (h : Hart) o => h.setCell bin o.1.1 o.1.2 o.2.1))

/-- Operand kinds admitted by a row type (R217). -/
def Hart.mopaKind (h : Hart) (bin : Bin) (k : Kind) : Bool :=
  match h.rowType bin with
  | .f32 => (k.isFlt && decide (k.width 64 ≤ 32)) || k.isSliced
  | .f64 => bin.val % 2 == 0 && k.isFlt
  | .i32 => k.isSliced || (k.isIN && decide (k.width 64 ≤ 16))
  | _ => false

/-- Refusals of an operand of MOPA: F64 pairs admit no scaled operand, and I32 rows read no scale. -/
def Hart.mopaFaults (h : Hart) (tick : Nat) (bin : Bin) (r : VReg) : List (Option Nat) :=
  let k := h.kind tick r
  [h.useFault tick (if h.rowType bin == .f64 then useArith else useScaled) r, needTag (h.mopaKind bin k),
   if h.rowType bin == .i32 then none else h.scaleFault tick k]

/-- The rows that take part (R215). -/
def Ctx.mopaRows (c : Ctx) (m : Bool) : List Nat := (List.range c.h.mgrant).filter (c.act m)

/-- Every (row, column) of two lists. -/
def cross (is js : List Nat) : List (Nat × Nat) := is.flatMap (fun i => js.map (fun j => (i, j)))

/-- S of the plain form (R215). -/
def plainProduct (a b : Src) (i j : Nat) : Val × Flags := (a.val i).mul (b.val j)

/-- S of the blocked form (R76, R216). DEDUCED (log entry 23): a scale of 0xFF on either side raises no flag, whatever
the elements are, signalling NaNs of the other side included. -/
def Hart.blockProduct (h : Hart) (tick : Nat) (a b : VReg) (i j : Nat) : Val × Flags :=
  let ka := h.kind tick a
  let kb := h.kind tick b
  let sa := h.scaleCode tick i
  let sb := h.scaleCode tick (128 + j)
  if sa == 255 || sb == 255 then (.nan false, 0)
  else
    let (v, f) := exactSum h.rm ((List.range 32).map (fun t =>
      (ka.value (h.elem tick ka a (32 * i + t))).mul (kb.value (h.elem tick kb b (32 * j + t)))))
    (v.scale ((sa : Int) - 127 + ((sb : Int) - 127)), f)

/-- The integer sum of a cell's products (R77). -/
def Hart.intProduct (h : Hart) (tick : Nat) (blocked : Bool) (a b : VReg) (i j : Nat) : Int :=
  let ka := h.kind tick a
  let kb := h.kind tick b
  let at_ := fun (x y : Nat) => ka.intVal (h.elem tick ka a x) * kb.intVal (h.elem tick kb b y)
  if blocked then forEach (List.range 32) 0 (fun (v : Int) t => v + at_ (32 * i + t) (32 * j + t)) else at_ i j

/-- MOPA (R215 to R218). -/
def execMopa (bin : Bin) (a b : VReg) (m ca cb : Bool) (s : State) : Result :=
  runHart (.mopa bin a b m ca cb) s (fun c => c.attached (
    let h := c.h
    let t := c.s.tick
    let ka := h.kind t a
    let kb := h.kind t b
    let blocked := h.blocked ka
    c.guarded (h.rowType bin).floats
      (h.mopaFaults t bin a ++ h.mopaFaults t bin b ++ [needLayout (h.blocked ka == h.blocked kb)])
      (c.whole (fun c =>
        let fits := fun (i : Nat) => if blocked then decide (32 * i + 31 < h.vl) else decide (i < h.vl)
        let cells := cross ((c.mopaRows m).filter fits) ((List.range h.mvl).filter fits)
        if h.rowType bin == .i32 then
          c.step bin cells (fun i j =>
            (ofInt 32 (toSigned 32 (h.cell t bin i j) + h.intProduct t blocked a b i j), 0))
        else
          c.step bin cells (fun i j =>
            h.accumulate t bin i j
              (if blocked then h.blockProduct t a b i j else plainProduct (h.src t a) (h.src t b) i j))))))

/-- Operand kinds of MOPS (R219). -/
def mopsKind (k : Kind) : Bool :=
  k == .flt fmtF16 || k == .flt fmtBF16 || k == .flt fmtE4M3 || k == .flt fmtE5M2

/-- idx0 and idx1 of row i's selector (R219). -/
def Hart.selector (h : Hart) (tick : Nat) (vm : VReg) (i : Nat) : Nat × Nat :=
  let w := h.elem tick (.int false 32) vm (i / 8)
  (fld w (4 * (i % 8)) 2, fld w (4 * (i % 8) + 2) 2)

/-- MOPS (R219). -/
def execMops (bin : Bin) (a b vmeta : VReg) (m ca cb cm : Bool) (s : State) : Result :=
  runHart (.mops bin a b vmeta m ca cb cm) s (fun c => c.attached (
    let h := c.h
    let t := c.s.tick
    c.guarded (h.rowType bin).floats
      [h.useFault t useScaled a, h.useFault t useScaled b, h.useFault t useScaled vmeta,
       needTag (h.rowType bin == .f32), needTag (mopsKind (h.kind t a)), needTag (mopsKind (h.kind t b)),
       needTag (h.kind t vmeta == .int false 32), needLayout (h.blk == 0)]
      (c.whole (fun c =>
        let rows := (c.mopaRows m).filter (fun i => decide (i / 8 < h.vl))
        let bad := fun (i : Nat) => let (x, y) := h.selector t vmeta i; decide (y ≤ x)
        match rows.find? bad with
        | some i => .trap c { Trap.plain causeSparsemeta 0 with elem := i, idx := some 0 }
        | none =>
          let va := h.src t a
          let vb := h.src t b
          let cells := cross (rows.filter (fun i => decide (2 * i + 1 < h.vl)))
            ((List.range h.mvl).filter (fun j => decide (3 * h.mvl + j < h.vl)))
          c.step bin cells (fun i j =>
            let (x, y) := h.selector t vmeta i
            h.accumulate t bin i j (exactSum h.rm
              [(va.val (2 * i)).mul (vb.val (x * h.mvl + j)),
               (va.val (2 * i + 1)).mul (vb.val (y * h.mvl + j))]))))))

/-! ### Assay lists (R222) -/

/-- The rank of two pairs: value descending with +0 above −0, then the lower index. DEDUCED (log entry 27). -/
def assayBefore (k : Kind) (a b : BitVec 32 × BitVec 32) : Bool :=
  let r := (k.value a.1.toNat).rank (k.value b.1.toNat)
  decide (0 < r) || (r == 0 && decide (a.2.toNat < b.2.toNat))

/-- Offer one pair to a list of capacity k. -/
def AssayList.offer (l : AssayList) (kd : Kind) (k v i : Nat) : AssayList :=
  let p := (BitVec.ofNat 32 v, BitVec.ofNat 32 i)
  if (kd.value v).isNan then { l with refused := min 255 (l.refused + 1) }
  else { l with pairs := (insertBy (assayBefore kd) p l.pairs).take k }

/-- Offer pairs in order to list `row` of a bin. -/
def Hart.offerAll (h : Hart) (bin : Bin) (row : Nat) (ps : List (Nat × Nat)) : Hart :=
  let kd := (h.rowType bin).kind
  h.mapBin bin (fun b =>
    { b with lists := b.lists.modify row (fun l => forEach ps l (fun l p => l.offer kd b.k p.1 p.2)) })

/-- The list of row i. -/
def BinRows.list (b : BinRows) (i : Nat) : AssayList := (b.lists[i]?).getD ⟨[], 0⟩

/-- Rows that are lists. -/
def RowType.isAssay : RowType → Bool
  | .assayF32 => true | .assayI32 => true | _ => false

/-- A value lies below ATHR of the list's type (R223). DEDUCED (log entry 27). -/
def Hart.belowAthr (h : Hart) (typ : RowType) (v : Nat) : Bool :=
  let mine := bitAt h.athr.toNat 32 == (typ == .assayI32)
  let x := typ.kind.value v
  let y := typ.kind.value (fld h.athr.toNat 0 32)
  mine && !x.isNan && !y.isNan && decide (x.cmp y < 0)

/-- MASV (R223). -/
def execMasv (bin : Bin) (a ci : VReg) (r : XReg) (m ca cb : Bool) (s : State) : Result :=
  runHart (.masv bin a ci r m ca cb) s (fun c => c.onRow r (fun i =>
    let h := c.h
    let t := c.s.tick
    let typ := h.rowType bin
    let ka := h.kind t a
    let kc := h.kind t ci
    c.guarded false
      [needTag typ.isAssay, h.useFault t useArith a, h.useFault t useArith ci, needTag (ka == typ.kind),
       needTag (kc == .int true 32 || kc == .int false 32)]
      (c.whole (fun c =>
        let es := ((List.range h.vl).filter (c.act m)).filter (fun e => !h.belowAthr typ (h.elem t ka a e))
        c.putWhole (h.offerAll bin i (es.map (fun e => (h.elem t ka a e, h.elem t kc ci e))))))))

/-- MDRN (R224). DEDUCED (log entry 26). -/
def execMdrn (bin src : Bin) (base : XReg) (s : State) : Result :=
  runHart (.mdrn bin src base) s (fun c => c.attached (
    let h := c.h
    let t := c.s.tick
    let typ := h.rowType bin
    c.guarded false [needTag (typ.isAssay && (h.rowType src).assay == some typ && !(h.rowType src).isAssay)]
      (c.whole (fun c =>
        c.putWhole (forEach (List.range h.mgrant) h (fun (h' : Hart) i =>
          h'.offerAll bin i ((List.range h.mvl).map (fun j =>
            (h.cellWord t src i j, (h.getU base + j) % 2 ^ 32)))))))))

/-- The value of an empty place of a list (R225). -/
def RowType.emptyValue : RowType → Nat
  | .assayI32 => 0x80000000
  | _ => 0xFF800000

/-- MAGET (R225). -/
def execMaget (d ci : VReg) (bin : Bin) (r : XReg) (s : State) : Result :=
  runHart (.maget d ci bin r) s (fun c => c.onRow r (fun i =>
    let h := c.h
    let t := c.s.tick
    let b := h.bins[bin]
    let typ := b.typ
    c.guarded false [needTag typ.isAssay, needTag (decide (32 ≤ h.ew))]
      (c.whole (fun c =>
        if h.vl == 0 then c.putWhole h
        else
          let l := b.list i
          let n := l.pairs.length
          let h0 := (h.setTag d (if typ == .assayI32 then 0x03 else 0x0B)).setTag ci 0x07
          c.putWhole (forEach (List.range (min h.vl (b.k + 1))) h0 (fun (h' : Hart) e =>
            let (v, x) :=
              if e == b.k then ((typ.kind.fromInt ⟨0, false, 0⟩ n).1, l.refused)
              else match l.pairs[e]? with
                | some (v, x) => (v.toNat, x.toNat)
                | none => (typ.emptyValue, 0xFFFFFFFF)
            (h'.setElem t typ.kind d e v).setElem t (.int false 32) ci e x))))))

/-- MTHR (R226). -/
def execMthr (d : XReg) (bin : Bin) (r : XReg) (s : State) : Result :=
  runHart (.mthr d bin r) s (fun c => c.onRow r (fun i =>
    let b := c.h.bins[bin]
    if !b.typ.isAssay then .trap c (.illcfg 1)
    else
      let l := b.list i
      let v := match l.pairs.getLast? with
        | some (v, _) => if l.pairs.length == b.k then v.toNat else b.typ.emptyValue
        | none => b.typ.emptyValue
      let w := BitVec.ofNat 64 (v + 2 ^ 32 * bool01 (b.typ == .assayI32))
      c.put { c.h.setX d w with athr := w }))

end Sys2Proof.Machine
end

