-- ==== Sys2Proof/Machine/VConfig.lean ====
section
/-!
DEFINITION. The configuration group (R141 to R146): set-length with yield and stall adoption (R16, R31),
SETSHAPE, SETVT, VTAG, SETSB and SETPSEQ.
-/
namespace Sys2Proof.Machine

/-! ### VTYPE (R29, R144) -/

/-- A value written to VTYPE is ill-formed (R29). -/
def vtypeIll (v : Nat) : Bool :=
  let ew := fld v 0 3
  let blk := fld v 3 2
  decide (3 < ew) || blk == 3 || decide (5 < fld v 5 3) || fld v 9 54 != 0 || bitAt v 63 ||
    (blk == 2 && ew != 1)

/-- Round columns down to whole blocks (R31, R33, R47). -/
def Hart.wholeBlocks (h : Hart) (cols : Nat) : Nat := downTo h.blockSize cols

/-- Write VTYPE: ILL for an ill-formed value, whose reserved bits [62:9] read as zero (R5, R39); a well-formed
one adjusts VCOLS (R29, R144). -/
def Hart.writeVtype (h : Hart) (v : Word) : Hart :=
  if vtypeIll v.toNat then { h with vtype := BitVec.ofNat 64 (fld v.toNat 0 9 + 2 ^ 63) }
  else
    let h : Hart := { h with vtype := v }
    { h with vcols := h.wholeBlocks (min h.vcols h.w) }

/-- Columns that SETSHAPE and SWR may set (R33). -/
def Hart.colsOk (h : Hart) (cols : Nat) : Bool := decide (cols ≤ h.w) && cols % h.blockSize == 0

/-! ### The grant (R31) -/

/-- VROWS and VCOLS granted for the request n. -/
def Hart.granted (h : Hart) (n : Nat) : Nat × Nat :=
  let (rows, cols) :=
    if h.w ≤ n then (min 16 (n / h.w), h.w)
    else (1, if 32 ≤ n then downTo 32 n else n)
  (rows, h.wholeBlocks cols)

/-- Adopt a pending stall, or the stall of a restored hart whose size differs from the shape width (R16,
R18). -/
def Hart.adopt (h : Hart) (tick : Nat) : Hart :=
  match h.pend with
  | some p =>
    let h : Hart := { h with base := p.base.toNat, size := p.size.toNat, pend := none, pendAt := none }
    h.carry tick (2 ^ p.size.toNat)
  | none => if 2 ^ h.size == h.width then h else h.carry tick (2 ^ h.size)

/-- The grant of a length, after any adoption (R141). -/
def Hart.grant (h : Hart) (d : XReg) (n : Nat) : Hart :=
  let (rows, cols) := h.granted n
  { h.setN d (rows * cols) with vrows := rows, vcols := cols, spc := h.pc, wp := false }

/-- SETVL and SETVLX of hart k for the request n: the yield, the adoption, the grant (R141). -/
def setLength (k : Nat) (d : XReg) (n : Nat) (c : Ctx) : HRes :=
  if c.h.yreq then .left (c.s.yieldStop k c.h)
  else c.put ((c.h.adopt c.s.tick).grant d n)

/-- SETVL (R141). -/
def execSetvl (d a : XReg) (s : State) : Result :=
  runHart (.setvl d a) s (fun c => setLength s.cur d (c.h.getU a) c)

/-- SETVLX: the request is the smaller of xa and xb (R142). -/
def execSetvlx (d a b : XReg) (s : State) : Result :=
  runHart (.setvlx d a b) s (fun c => setLength s.cur d (min (c.h.getU a) (c.h.getU b)) c)

/-- SETSHAPE (R33, R143). -/
def execSetshape (d a b : XReg) (s : State) : Result :=
  runHart (.setshape d a b) s (fun c =>
    let rows := c.h.getU a
    let cols := c.h.getU b
    if 1 ≤ rows && rows ≤ 16 && c.h.colsOk cols then
      c.put { c.h.setN d (rows * cols) with vrows := rows, vcols := cols }
    else .trap c (.illegal 5))

/-- SETVT: VTYPE as stored goes to xd (R144). -/
def execSetvt (d a : XReg) (s : State) : Result :=
  runHart (.setvt d a) s (fun c =>
    let h := c.h.writeVtype (c.h.getX a)
    c.put (h.setX d h.vtype))

/-- A format code that R45 reserves. -/
def codeReserved (code : Nat) : Bool := decide (0x13 ≤ code) && decide (code ≤ 0x1F)

/-- VTAG: a reserved code is written with ILL = 1 (R27, R145). -/
def execVtag (d : VReg) (code : BitVec 6) (s : State) : Result :=
  runHart (.vtag d code) s (fun c =>
    c.put (c.h.setTag d (code.toNat + 64 * bool01 (codeReserved code.toNat))))

/-- SETSB (R146). -/
def execSetsb (a : XReg) (s : State) : Result :=
  runHart (.setsb a) s (fun c => c.put { c.h with sb := c.h.getX a })

/-- A value SETPSEQ admits: a count of 1 to 8 and no nibble at or above it (R146). -/
def pseqOk (v : Nat) : Bool :=
  let n := fld v 32 4
  fld v 36 28 == 0 && decide (1 ≤ n) && decide (n ≤ 8) && fld v 0 32 / 2 ^ (4 * n) == 0

/-- SETPSEQ (R146). -/
def execSetpseq (a : XReg) (s : State) : Result :=
  runHart (.setpseq a) s (fun c =>
    if pseqOk (c.h.getU a) then c.put { c.h with pseq := c.h.getX a } else .trap c (.illegal 5))

end Sys2Proof.Machine
end

