-- ==== Sys2Proof/Machine/System.lean ====
section
/-!
DEFINITION. The system group and PFX (R93, R119 to R124): halting, yielding, calls to the hall, the return
from a trap, system registers (R39, R40), fences and the gang barrier.
-/
namespace Sys2Proof.Machine

/-- NOP (R119). -/
def execNop (s : State) : Result := runHart .nop s .done

/-! ### HALT (R120) -/

/-- HALT: the hart ends at once when none of its transfers is under way; else it waits, issuing nothing.
DEDUCED (log entry 28). -/
def execHalt (s : State) : Result :=
  runHart .halt s (fun c =>
    if c.h.busyTag then .left (c.s.setHart s.cur { c.h with status := .halting })
    else .left (c.s.haltHart s.cur c.h))

/-! ### Calls to the hall (R121) -/

/-- YIELD: with YREQ = 1 the hart stops at PC + 4, width-pinned. -/
def execYield (s : State) : Result :=
  runHart .yield s (fun c =>
    if c.h.yreq then
      let h := c.h.advance.closeWindow
      .left (c.s.hardStop s.cur h .stopped h.stopState h.pc)
    else .done c)

/-- SYSC. -/
def execSysc (s : State) : Result := runHart .sysc s (fun c => .trap c (.plain causeSysc 0))

/-- BKPT. -/
def execBkpt (s : State) : Result := runHart .bkpt s (fun c => .trap c (.plain causeBkpt 0))

/-- TRET (R122, R286). -/
def execTret (s : State) : Result := runHart .tret s returnFromTrap

/-! ### System registers (R39, R40, R122) -/

/-- SRD; its own prefix is used up when it issues (R95). -/
def execSrd (d : XReg) (num : BitVec 12) (s : State) : Result :=
  runHart (.srd d num) s (fun c =>
    c.putX d ({ c.h with pfx := none }.sysRead (c.s.cycOf c.h.core) num.toNat))

/-- A value SWR may write to a register; false is ILLEGAL, detail 5 (R33, R40, R282). RO registers admit
none. -/
def Hart.swrOk (h : Hart) (num v : Nat) : Bool :=
  match num with
  | 0x01 => true
  | 0x02 => decide (1 ≤ v) && decide (v ≤ 16)
  | 0x03 => h.colsOk v
  | 0x05 => decide (v < h.vlmax)
  | 0x06 => true
  | 0x07 => true
  | 0x08 => true
  | 0x09 => fld v 36 28 == 0
  | 0x0A => fld v 13 51 == 0 && decide (fld v 10 3 ≤ 4)
  | 0x0B => fld v 33 31 == 0
  | 0x0D => decide (1 ≤ v) && decide (v ≤ 128)
  | 0x0E => true
  | 0x0F => fld v 48 16 == 0
  | 0x10 => v % 4 == 0
  | 0x11 => true
  | 0x12 => true
  | 0x13 => true
  | 0x14 => true
  | 0x16 => fld v 56 7 == 0 && fld v 17 23 == 0
  | 0x17 => fld v 56 7 == 0 && fld v 17 23 == 0
  | 0x18 => fld v 56 7 == 0 && fld v 17 23 == 0
  | 0x19 => fld v 56 7 == 0 && fld v 17 23 == 0
  | _ => false

/-- Bits of PASSST that are no reserved bits (R207). -/
def passstKeep (v : Nat) : Nat := fld v 16 32 * 2 ^ 16 + fld v 0 9

/-- The register after SWR: VTYPE by R29, reserved bits of PASSST and TCAUSE cleared (R40, R207). -/
def Hart.swrPut (h : Hart) (num : Nat) (v : Word) : Hart :=
  match num with
  | 0x01 => h.writeVtype v
  | 0x08 => { h with passst := BitVec.ofNat 64 (passstKeep v.toNat) }
  | 0x12 => { h with tcause := BitVec.ofNat 64 (fld v.toNat 0 12) }
  | n => h.sysPut n v

/-- SWR. -/
def execSwr (num : BitVec 12) (a : XReg) (s : State) : Result :=
  runHart (.swr num a) s (fun c =>
    if c.h.swrOk num.toNat (c.h.getU a) then c.put (c.h.swrPut num.toNat (c.h.getX a))
    else .trap c (.illegal 5))

/-! ### Ordering (R123, R124) -/

/-- FENCE: an engine transfer is both a load and a store, so every order bit waits for those under way;
every other earlier access of the hart has been performed (R264). DESIGN CHOICE (log entry 3). -/
def execFence (scope : Scope) (bits : BitVec 4) (s : State) : Result :=
  runHart (.fence scope bits) s (fun c => onMem c (c.releaseWait scope) (fun _ c => .done c))

/-- Hart `o` is past, at, or beyond the need of barrier n (R120, R124). DEDUCED (log entry 28). -/
def Hart.reached (o : Hart) (n : Nat) : Bool :=
  o.over || decide (n < o.barriers) || (o.barriers == n && o.arrived)

/-- Every other hart of the gang has arrived at barrier n, or has ended. -/
def State.othersAt (s : State) (k l n : Nat) : Bool :=
  (withIndex 0 s.harts).all (fun (j, o) => j == k || o.launch != l || o.reached n)

/-- GBAR: a release on arrival; a stopped hart that executes it again counts no second arrival (R124).
DESIGN CHOICE (log entry 3). DEDUCED (log entry 28). -/
def execGbar (scope : Scope) (s : State) : Result :=
  runHart (.gbar scope) s (fun c =>
    onMem c (c.releaseWait scope) (fun _ c =>
      if c.s.othersAt s.cur c.h.launch c.h.barriers then
        c.put { c.h with barriers := c.h.barriers + 1, arrived := false }
      else .hold { c with h := { c.h with arrived := true } }))

/-! ### PFX (R92, R93) -/

/-- The word of a PFX. -/
def pfxWord (mask : PfxMask) (inv : Bool) (copy : PfxCopy) (slices : BitVec 3) : BitVec 32 :=
  let code := match copy with | some v => v.val | none => 63
  BitVec.ofNat 32 (2 ^ 26 + mask.val * 2 ^ 22 + bool01 inv * 2 ^ 21 + code * 2 ^ 15 + slices.toNat * 2 ^ 12)

/-- PFX: the prefix is pending for the next instruction. -/
def execPfx (mask : PfxMask) (inv : Bool) (copy : PfxCopy) (slices : BitVec 3) (s : State) : Result :=
  runHart (.pfx mask inv copy slices) s (fun c => .arm c (pfxWord mask inv copy slices))

end Sys2Proof.Machine
end

