-- ==== Sys2Proof/Machine/HartEvents.lean ====
section
/-!
DEFINITION. What the hall does to running harts (R15, R16, R120, R124, R141, R355, R356, R362 to R364, R370):
stall changes, yields, barriers, stops and restores; and the SYSC services (R366).
-/
namespace Sys2Proof.Machine

/-- HCNT has moved by n ticks or more since `t`. -/
def State.ticksSince (s : State) (t : Word) (n : Nat) : Bool := decide (n ≤ (s.hall.hcnt - t).toNat)

/-- An event over a hart: `none` is an event that cannot occur, and nothing happens. DEDUCED (log entry 13). -/
def onHart (k : Nat) (s : State) (f : Hart → Option State) : Result :=
  .next ((s.harts[k]?.bind f).getD s)

/-- NARROW of a launch (R340). -/
def LaunchRec.narrow (r : LaunchRec) : Bool := bitAt r.flags 0

/-! ### Stall changes (R15, R16, R356) -/

/-- The hall may give hart h the stall p in place (R356). DEDUCED (log entry 38). -/
def State.stallOk (s : State) (k : Nat) (h : Hart) (p : PendingStall) : Bool :=
  match s.launchOf h with
  | none => false
  | some L =>
    let base := p.base.toNat
    let size := p.size.toNat
    let w := 2 ^ size
    let new : Claim := { s.claim h with base := base, count := w }
    base % w == 0 && decide (w ≤ L.req.maxw) && (L.req.narrow || decide (h.startSize ≤ size)) &&
    (!h.wp || decide (h.width ≤ w)) &&
    let fits := new.fitsAll (s.barriersFor h.launch L.req.cls (fun j _ => j == k))
    (if h.size < size then downTo w h.base == base && fits
    else decide (size < h.size) && L.req.narrow && (downTo (2 ^ h.size) base == h.base || fits))

/-- STALL_CHANGE_REQUEST (R15): a later request replaces an earlier one; a withdrawal clears PEND. -/
def execStallChangeRequest (s : State) : Result :=
  match s.input with
  | .stallChangeRequest k p =>
    onHart k s (fun h =>
      if h.status != .running then none
      else
        match p with
        | none =>
          if h.pend.isSome then some (s.setHart k { h with pend := none, pendAt := none }) else none
        | some p =>
          if s.stallOk k h p then some (s.setHart k { h with pend := some p, offer := p, pendAt := some s.hall.hcnt })
          else none)
  | _ => .next s

/-- The next instruction of hart k, when `pick` gives it a meaning here. -/
def runNext (k : Nat) (s : State) (ok : Hart → Bool) (pick : Instr → State → Option Result) : Result :=
  match s.harts[k]? with
  | some h =>
    if h.canIssue && ok h then
      match fetchHart k { s with cur := k } with
      | .run i t => (pick i t).getD (.next s)
      | .rest _ => .next s
    else .next s
  | none => .next s

/-- SETVL or SETVLX. -/
def runSetLength (i : Instr) (s : State) : Option Result :=
  match i with
  | .setvl d a => some (execSetvl d a s)
  | .setvlx d a b => some (execSetvlx d a b s)
  | _ => none

/-- STALL_ADOPTION (R16): the SETVL or SETVLX that stands next adopts the pending stall. -/
def execStallAdoption (s : State) : Result :=
  match s.input with
  | .stallAdoption k => runNext k s (fun h => h.pend.isSome && !h.yreq) runSetLength
  | _ => .next s

/-- SETVL_YIELD (R141): the SETVL or SETVLX that stands next finds YREQ = 1. -/
def execSetvlYield (s : State) : Result :=
  match s.input with
  | .setvlYield k => runNext k s (fun h => h.yreq) runSetLength
  | _ => .next s

/-- MATRIX_ARBITRATION (R355): the MATT that stands next has its request answered. -/
def execMatrixArbitration (s : State) : Result :=
  match s.input with
  | .matrixArbitration k =>
    runNext k s (fun h => !h.ma) (fun i s =>
      match i with
      | .matt d a b => some (execMatt d a b s)
      | _ => none)
  | _ => .next s

/-! ### Ends and barriers (R120, R124) -/

/-- HART_END (R120): a halting hart whose transfers have ended releases what it holds. -/
def execHartEnd (s : State) : Result :=
  match s.input with
  | .hartEnd k =>
    onHart k s (fun h =>
      if h.status == .halting && !h.busyTag then some (s.haltHart k h) else none)
  | _ => .next s

/-- A barrier at which some hart of launch l waits and which every hart of it has reached.
DEDUCED (log entry 28). -/
def State.fullBarrier (s : State) (l : Nat) : Option Nat :=
  let gang := s.harts.filter (fun (h : Hart) => h.launch == l)
  (gang.find? (fun (h : Hart) => h.status == .running && h.arrived &&
    gang.all (fun (o : Hart) => o.reached h.barriers))).map (fun (h : Hart) => h.barriers)

/-- BARRIER_COMPLETION (R124): every GBAR that waits at the barrier completes. -/
def execBarrierCompletion (s : State) : Result :=
  match s.input with
  | .barrierCompletion l =>
    match s.fullBarrier l with
    | none => .next s
    | some n =>
      let ks := s.gangWhere l (fun h => h.status == .running && h.arrived && h.barriers == n)
      .next (forEach ks s (fun (s : State) k =>
        match s.harts[k]? with
        | some h => settle k (.done ⟨{ h with barriers := n + 1, arrived := false }, s⟩)
        | none => s))
  | _ => .next s

/-! ### Stopping (R292, R359, R362 to R364) -/

/-- Classes of the launches whose pre-emptions name hart k. -/
def State.requesters (s : State) (k : Nat) : List Nat :=
  (s.hall.preemptions.filter (fun p => p.victims.any (fun (j, _) => j == k))).filterMap (fun p =>
    (s.hall.launches[p.launch]?).map (fun L => L.req.cls))

/-- NARROW of a hart's launch. DEDUCED (log entry 38). -/
def State.narrows (s : State) (h : Hart) : Bool :=
  match s.launchOf h with
  | some L => L.req.narrow
  | none => false

/-- Hart k is stopped at once: a class 0 requester and NARROW = 0 (R362). -/
def State.stopsAtOnce (s : State) (k : Nat) (h : Hart) : Bool := (s.requesters k).contains 0 && !s.narrows h

/-- Hart k is asked to yield (R362). -/
def State.asksYield (s : State) (k : Nat) (h : Hart) : Bool :=
  (s.requesters k).any (fun c => c == 1 || (c == 0 && s.narrows h))

/-- The yield window of hart h has passed (R352, R363). -/
def State.windowPassed (s : State) (h : Hart) : Bool :=
  match h.yieldAt with
  | some t => s.ticksSince t s.hall.ywin
  | none => false

/-- A hard stop of running hart k: at once at an instruction boundary, or with `at_` inside its next
instruction; in lane-thread mode once the run has joined, within the window (R235, R292). -/
def State.stopHart (s : State) (k : Nat) (h : Hart) (at_ : Option Nat) : State :=
  if h.lt then
    s.setHart k { h with stopAt := some (at_.getD 0), yieldAt := h.yieldAt.or (some s.hall.hcnt) }
  else
    match at_ with
    | some n => s.setHart k { h with stopAt := some n }
    | none => Ctx.stopNow ⟨h, s⟩ k

/-- HARD_STOP (R292, R362). DEDUCED (log entry 14). -/
def execHardStop (s : State) : Result :=
  match s.input with
  | .hardStop k at_ =>
    onHart k s (fun h =>
      if h.status == .running && h.stopAt.isNone && s.stopsAtOnce k h then some (s.stopHart k h at_) else none)
  | _ => .next s

/-- YIELD_REQUEST (R363): YREQ and the window start at one hall tick. -/
def execYieldRequest (s : State) : Result :=
  match s.input with
  | .yieldRequest k =>
    onHart k s (fun h =>
      if h.status == .running && !h.yreq && s.asksYield k h then
        some (s.setHart k { h with yreq := true, yieldAt := some s.hall.hcnt })
      else none)
  | _ => .next s

/-- YIELD_WINDOW_EXPIRY (R235, R362): a hard stop; a lane-thread run that has not joined ends the hart.
DEDUCED (log entry 36). -/
def execYieldWindowExpiry (s : State) : Result :=
  match s.input with
  | .yieldWindowExpiry k =>
    onHart k s (fun h =>
      if h.status == .running && (h.yreq || h.stopAt.isSome) && s.windowPassed h then
        if h.run.isSome then
          some ((s.mapHall (fun a => { a with hstops := a.hstops + 1 })).failHart k h (h.failure 2))
        else some (s.stopHart k h none)
      else none)
  | _ => .next s

/-! ### Restoring (R365, R370, R371) -/

/-- Restore hart k from its record onto a stall. -/
def State.restoreHart (s : State) (k : Nat) (st : Stall) : State :=
  match s.harts[k]? with
  | some h =>
    match h.record with
    | some cr => s.setHart k (h.restore s.tick cr st)
    | none => s
  | none => s

/-- Harts that resume are victims no longer: what they held stays with the pre-emption that freed it.
DEDUCED (log entry 39). -/
def Preemption.without (p : Preemption) (ks : List Nat) : Preemption :=
  { p with
    victims := p.victims.filter (fun v => !ks.contains v.1)
    freed := p.freed ++ (p.victims.filter (fun v => ks.contains v.1)).map (·.2) }

/-- Resume the stopped harts of launch l on stalls, one each in the order of `stoppedHarts`.
DEDUCED (log entry 40). -/
def State.resumeGang (s : State) (l : Nat) (stalls : List Stall) : State :=
  let ks := s.gangWhere l (fun h => h.resumable && h.busyTag) ++ s.gangWhere l (fun h => h.resumable && !h.busyTag)
  let s := s.mapHall (fun a => { a with preemptions := a.preemptions.map (fun p => p.without ks) })
  (forEach (ks.zip stalls) s (fun (s : State) (k, st) => s.restoreHart k st)).dropPreemption l

/-- The stalls are one for each stopped hart of launch l, and R371 and the free resources admit them.
DEDUCED (log entry 40). -/
def State.resumeAdmits (s : State) (l : Nat) (stalls : List Stall) : Bool :=
  match s.hall.launches[l]? with
  | some L =>
    let hs := s.stoppedHarts l
    hs.length == stalls.length &&
    resumeOk (s.quadOpen L.req.cls) L.req (hs.zip stalls) (s.resumeBeside l L.req.cls)
  | none => false

/-- CONTEXT_RESTORE (R370): the one stopped hart of a launch that is next resumes. -/
def execContextRestore (s : State) : Result :=
  match s.input with
  | .contextRestore k st =>
    onHart k s (fun h =>
      if h.resumable && h.record.isSome && s.hallNext == some h.launch && s.resumeAdmits h.launch [st] then
        some (s.resumeGang h.launch [st])
      else none)
  | _ => .next s

/-! ### SYSC (R366) -/

/-- The hall answers hart k's SYSC: x5 in its record, the resume PC at TPC + 4; the hart then waits for
resumption like any stopped hart. -/
def State.answerSysc (s : State) (k : Nat) (h : Hart) (x5 : Word) : State :=
  s.setHart k { h with
    status := .stopped
    pc := h.tpc + 4
    record := h.record.map (fun cr => { cr with x := cr.x.set 5 x5, rpc := h.tpc + 4 }) }

/-- The service number and arguments of a hart in a SYSC. -/
def Hart.sysc (h : Hart) : Option (Nat × Nat × Nat) :=
  if h.status == .inSysc then h.record.map (fun cr => (cr.x[5].toNat, cr.x[6].toNat, cr.x[7].toNat)) else none

/-- SYSC service 0, NULL. -/
def execSyscNull (s : State) : Result :=
  match s.input with
  | .syscNull k =>
    onHart k s (fun h =>
      match h.sysc with
      | some (0, _, _) => some (s.answerSysc k h 0)
      | _ => none)
  | _ => .next s

/-- SYSC service 1, TIME. -/
def execSyscTime (s : State) : Result :=
  match s.input with
  | .syscTime k =>
    onHart k s (fun h =>
      match h.sysc with
      | some (1, _, _) => some (s.answerSysc k h s.hall.hcnt)
      | _ => none)
  | _ => .next s

/-- The answer of BUDGET. DEDUCED (log entry 42). -/
def State.budget (s : State) (h : Hart) : Word :=
  match (s.launchOf h).bind Launch.due with
  | some d => BitVec.ofNat 64 (d - s.hall.hcnt.toNat)
  | none => BitVec.allOnes 64

/-- SYSC service 2, BUDGET. -/
def execSyscBudget (s : State) : Result :=
  match s.input with
  | .syscBudget k =>
    onHart k s (fun h =>
      match h.sysc with
      | some (2, _, _) => some (s.answerSysc k h (s.budget h))
      | _ => none)
  | _ => .next s

/-- What PREFAULT finds at a page. -/
inductive Prefaulted where
  /-- It goes on. -/
  | passed (s : State)
  /-- The page could not be mapped. -/
  | fails (s : State) (cause entry reason level : Nat)
  /-- The hall waits for the link (R339). -/
  | waits

/-- PREFAULT at a page. One that is no placeholder lies in no device-managed region. DEDUCED (log entry 42). -/
def State.prefaultPage (s : State) (h : Hart) (va : Nat) : Prefaulted :=
  if va < genericBase || 2 ^ 56 ≤ va then .passed s
  else
    match s.walk (h.core / 4) (s.asidOf h) va ⟨s.dmPaging h, false, s.linkOpen (s.classOf h)⟩ with
    | (.leaf _ _, s) => .passed s
    | (.unacked _ _, s) => .passed s
    | (.linkDown _ _, _) => .waits
    | (.fault cause e reason level, s) =>
      if reason == 2 || cause == causeUncorr || (level == 4 && entryMeaning 4 e == .placeholder) then
        .fails s cause e reason level
      else .passed s

/-- PREFAULT over pages from `va` upward: the cause code of the first page that cannot be mapped, which is
also reported with SRC = 3 (R381); none while the hall waits for the link. DEDUCED (log entry 42). -/
def State.prefault (k : Nat) (h : Hart) : (pages va : Nat) → State → Option (State × Nat)
  | 0, _, s => some (s, 0)
  | n + 1, va, s =>
    match s.prefaultPage h va with
    | .passed s => State.prefault k h n (va + 0x10000) s
    | .fails s cause e reason level =>
      some (s.addFault k .prefault cause (BitVec.ofNat 64 va) ⟨0, BitVec.ofNat 64 e, reason, level, true⟩, cause)
    | .waits => none

/-- SYSC service 3, PREFAULT. -/
def execSyscPrefault (s : State) : Result :=
  match s.input with
  | .syscPrefault k =>
    onHart k s (fun h =>
      match h.sysc with
      | some (3, a, n) =>
        let lo := downTo 0x10000 a
        let pages := if n == 0 then 0 else upTo 0x10000 (a - lo + n) / 0x10000
        (State.prefault k h pages lo s).map (fun (s, x5) => s.answerSysc k h (BitVec.ofNat 64 x5))
      | _ => none)
  | _ => .next s

/-- Any other SYSC service. -/
def execSyscUnknown (s : State) : Result :=
  match s.input with
  | .syscUnknown k =>
    onHart k s (fun h =>
      match h.sysc with
      | some (n, _, _) => if 3 < n then some (s.answerSysc k h (BitVec.allOnes 64)) else none
      | none => none)
  | _ => .next s

end Sys2Proof.Machine
end

