-- ==== Sys2Proof/Machine/Hall.lean ====
section
/-!
DEFINITION. The hall's queues and launches (R340 to R348, R353 to R359): accepting records, starting and
resuming gangs, posting completions, queue control, pre-emption and aging.
-/
namespace Sys2Proof.Machine

/-! ### List moves over physical memory (R136) -/

/-- The head node n leaves the list at `a`. -/
def State.physUnlink (s : State) (a n : Nat) : State :=
  let nx := s.physRead n 8
  let s := s.physWrite a 8 nx
  let s := if nx == 0 then s.physWrite (a + 8) 8 0 else s
  s.physWrite n 8 0

/-- Move the head node of the list at `a` to the tail of the list at `b`: the node, or 0 for an empty list. -/
def State.physMove (s : State) (a b : Nat) : Nat × State :=
  let n := s.physRead a 8
  if n == 0 then (0, s)
  else
    let s := s.physUnlink a n
    let t := s.physRead (b + 8) 8
    let s := s.physWrite (if t == 0 then b else t) 8 n
    (n, s.physWrite (b + 8) 8 n)

/-- The hall can use the word at an address: the link or the fabric reaches it, and its data is good (R338, R339, R395,
R403). -/
def State.hallReaches (s : State) (cls pa : Nat) : Bool :=
  (if isHostAddr pa then s.linkOpen cls else s.reaches pa) && !s.poisoned pa

/-- The hall can move the head node of the list at `a` to the tail of the list at `b`: there is one, and it can use every
word that the move names (R136, R137). -/
def State.canMove (s : State) (cls a b : Nat) : Bool :=
  let n := s.physRead a 8
  let t := (s.physUnlink a n).physRead (b + 8) 8
  s.hallReaches cls a && s.hallReaches cls b && n != 0 && s.hallReaches cls n && (t == 0 || s.hallReaches cls t)

/-! ### Launch records (R340, R341) -/

/-- A launch record from the 128 bytes that stand at its address. -/
def launchRec (v : Nat) : LaunchRec where
  hseq := fld v 0x40 64
  cls := fld v 0x80 8
  flags := fld v 0x88 8
  minw := fld v 0x90 8
  maxw := fld v 0x98 8
  gang := fld v 0xA0 16
  mrows := fld v 0xB0 16
  deadline := fld v 0xC0 64
  scratch := fld v 0x100 32
  sdata := fld v 0x120 32
  entry := fld v 0x140 64
  arg := BitVec.ofNat 64 (fld v 0x180 64)
  asid := fld v 0x1C0 16
  rsv0 := fld v 0x1D0 48
  cpl := fld v 0x200 64
  dq0 := fld v 0x240 16
  dq1 := fld v 0x250 16
  dvalid := fld v 0x260 8
  rsv1 := fld v 0x268 24
  dseq0 := fld v 0x280 64
  dseq1 := fld v 0x2C0 64

/-- A width that R340 admits. -/
def widthOk (w : Nat) : Bool := w == 1 || w == 2 || w == 4 || w == 8

/-- Check 7 of R341 for one dependence. -/
def depOk (q hseq dq dseq : Nat) : Bool := decide (dq < 1024) && (dq != q || decide (dseq < hseq))

/-- An ASID is configured (R373). -/
def State.asidOk (s : State) (asid : Nat) : Bool :=
  let d := s.hall.atbase.toNat + 64 * asid
  asid != 0 && decide (asid < s.hall.atlim) && s.physRead (d + 0x18) 8 == 1 && s.physRead (d + 0x28) 24 == 0

/-- The checks of R341 and R353 over a record of queue q, each with its DETAIL. -/
def State.recordChecks (s : State) (q : Nat) (r : LaunchRec) : List (Nat × Bool) :=
  [(1, r.hseq == (s.hall.queue q).accepted + 1),
   (2, decide (r.cls ≤ 2) && r.flags / 4 == 0 && r.rsv0 == 0 && r.dvalid / 4 == 0 && r.rsv1 == 0),
   (3, widthOk r.minw && widthOk r.maxw && decide (r.minw ≤ r.maxw)),
   (4, decide (1 ≤ r.gang) && decide (r.gang ≤ 1024)),
   (5, decide (r.scratch ≤ 0x200000) && decide (r.sdata ≤ 0x10000) && decide (r.mrows ≤ 128) &&
     r.mrows % 16 == 0),
   (6, r.entry % 4 == 0 && decide (0x1000000 ≤ r.entry)),
   (7, (!bitAt r.dvalid 0 || depOk q r.hseq r.dq0 r.dseq0) && (!bitAt r.dvalid 1 || depOk q r.hseq r.dq1 r.dseq1)),
   (8, r.cpl % 32 == 0),
   (9, s.asidOk r.asid),
   (10, !r.tooLarge)]

/-- The DETAIL of the first check that fails. -/
def State.refusal (s : State) (q : Nat) (r : LaunchRec) : Option Nat :=
  ((s.recordChecks q r).find? (fun x => !x.2)).map (·.1)

/-! ### Completed launches (R345, R347, R358) -/

/-- The launch of queue q with a sequence number. -/
def Hall.launchAt (a : Hall) (q n : Nat) : Option Launch :=
  a.launches.find? (fun L => L.queue == q && L.req.hseq == n)

/-- Accepted launches not yet completed (R335, R345). -/
def Hall.inflight (a : Hall) (p : Launch → Bool) : Nat :=
  (a.launches.filter (fun L => p L && L.phase != .done)).length

/-- A class 0 launch with a deadline has completed after its effective deadline (R358). -/
def State.missed (s : State) (L : Launch) : Bool :=
  L.req.cls == 0 && match L.due with
    | some d => decide (d < s.hall.hcnt.toNat)
    | none => false

/-- Count a completion against DLMISS. -/
def State.countMiss (s : State) (L : Launch) : State :=
  if s.missed L then s.mapHall (fun a => { a with dlmiss := a.dlmiss + 1 }) else s

/-- The note on a launch refused with DETAIL 8. -/
def refusedUnposted : Failure := ⟨3, 8, 0, 8, 0⟩

/-- A record refused with DETAIL 8: its completion is not posted (R341). -/
def Launch.unposted (L : Launch) : Bool := L.failure == some refusedUnposted

/-- Advance COMPLETED over launches that are done (R345); one refused with DETAIL 8 counts for DLMISS as
COMPLETED passes it. -/
def State.advance (q : Nat) : (fuel : Nat) → State → State
  | 0, s => s
  | fuel + 1, s =>
    let n := (s.hall.queue q).completed + 1
    match s.hall.launchAt q n with
    | none => s
    | some L =>
      if L.phase == .done then
        let s := if L.unposted then s.countMiss L else s
        State.advance q fuel (s.mapQueue q (fun b => { b with completed := n }))
      else s

/-- Advance COMPLETED of queue q. -/
def State.advanceQueue (s : State) (q : Nat) : State := s.advance q s.hall.launches.length

/-- A dependence is met by a launch that completed with a non-zero STATUS (R347). -/
def State.depFailed (s : State) (valid : Bool) (dq dseq : Nat) : Bool :=
  valid && decide (dseq ≤ (s.hall.queue dq).completed) &&
  (match s.hall.launchAt dq dseq with
    | some D => D.status != 0
    | none => false)

/-- Launches that wait on a failed dependence complete with STATUS 4. -/
def State.failDependents (s : State) : State :=
  forEach (List.range s.hall.launches.length) s (fun (s : State) l =>
    match s.hall.launches[l]? with
    | none => s
    | some L =>
      if L.phase != .waiting then s
      else if s.depFailed (bitAt L.req.dvalid 0) L.req.dq0 L.req.dseq0 then s.finishLaunch l 4 0
      else if s.depFailed (bitAt L.req.dvalid 1) L.req.dq1 L.req.dseq1 then s.finishLaunch l 4 1
      else s)

/-- LERR and LETPC of queue q (R345). DEDUCED (log entry 41). -/
def State.setLerr (s : State) (q hartid tcause hseq : Nat) (tpc : Word) : State :=
  s.mapQueue q (fun b => { b with
    lerr := BitVec.ofNat 64 (hartid % 2 ^ 16 + tcause % 2 ^ 12 * 2 ^ 16 + hseq % 2 ^ 32 * 2 ^ 32)
    letpc := tpc })

/-! ### Acceptance (R346) -/

/-- A launch as accepted. -/
def State.accepted (s : State) (q : Nat) (r : LaunchRec) : Launch where
  queue := q
  req := r
  accepted := s.hall.hcnt
  phase := .waiting
  aged := false
  target := none
  failure := none
  status := 0
  startedAt := 0

/-- Add a launch to the hall's list and set ACCEPTED. -/
def State.addLaunch (s : State) (q : Nat) (L : Launch) : State :=
  (s.mapHall (fun a => { a with launches := a.launches ++ [L] })).mapQueue q (fun b =>
    { b with accepted := L.req.hseq })

/-- Act on an accepted or refused record (R341, R346). DEDUCED (log entry 41). -/
def State.acceptRecord (s : State) (q : Nat) (r : LaunchRec) : State :=
  let l := s.hall.launches.length
  let L := s.accepted q r
  match s.refusal q r with
  | none => (s.addLaunch q L).failDependents
  | some 1 =>
    if r.cpl % 32 != 0 then s.setLerr q 0 1 r.hseq 0
    else s.mapHall (fun a => { a with due := a.due ++ [⟨r.cpl, .refusal q r.hseq r.cls 1⟩] })
  | some 8 =>
    let s := s.addLaunch q { L with phase := .done, status := 3, failure := some refusedUnposted }
    let s := s.mapQueue q (fun b => startedMax b r.hseq)
    ((s.setLerr q 0 8 r.hseq 0).advanceQueue q).failDependents
  | some d => (s.addLaunch q L).finishLaunch l 3 d

/-- LAUNCH_ACCEPT (R346). -/
def execLaunchAccept (s : State) : Result :=
  match s.input with
  | .launchAccept q =>
    let b := s.hall.queue q
    let n := s.physRead b.qlist.toNat 8
    if q < 1024 && b.en && decide (s.hall.inflight (fun _ => true) < 4096) &&
        s.canMove 0 b.qlist.toNat b.done.toNat then
      let r := launchRec (s.physRead n 128)
      let (_, s) := s.physMove b.qlist.toNat b.done.toNat
      .next (s.acceptRecord q r)
    else .next s
  | _ => .next s

/-! ### Starting and resuming (R20, R354, R365) -/

/-- A hart of launch l as it starts on a stall (R20, R354). -/
def startHart (l : Nat) (L : Launch) (hartid : Nat) (c : Claim) : Hart :=
  { Hart.reset with
    launch := l
    status := .running
    core := c.core
    base := c.base
    size := sizeOf c.count
    startSize := sizeOf c.count
    pc := BitVec.ofNat 64 L.req.entry
    x := (Vector.replicate 32 0).set 10 L.req.arg
    width := c.count
    scratchSize := c.scratch
    sdataSize := c.sdata
    hartid := BitVec.ofNat 64 hartid
    gangid := BitVec.ofNat 64 (L.queue * 2 ^ 32 + L.req.hseq % 2 ^ 32)
    gangn := BitVec.ofNat 64 L.req.gang }

/-- Claims in ascending core number, then ascending BASE. -/
def sortClaims (cs : List Claim) : List Claim :=
  sortBy (fun a b => decide (a.core < b.core) || (a.core == b.core && decide (a.base < b.base))) cs

/-- Start launch l on its placement. -/
def State.startGang (s : State) (l : Nat) (L : Launch) (cs : List Claim) : State :=
  let s := s.setLaunch l { L with phase := .started, startedAt := s.hall.starts, target := none }
  let s := { s with harts := s.harts ++ (withIndex 0 (sortClaims cs)).map (fun (i, c) => startHart l L i c) }
  let s := s.mapHall (fun a => { a with starts := a.starts + 1 })
  let s := s.mapQueue L.queue (fun b => startedMax b L.req.hseq)
  (s.dropPreemption l).classZeroMoved l

/-- GANG_PLACEMENT (R354, R358, R365): the launch that is next starts, or its stopped harts resume on the
stalls given. -/
def execGangPlacement (s : State) : Result :=
  match s.input with
  | .gangPlacement l stalls =>
    match s.hall.launches[l]? with
    | some L =>
      if s.hallNext != some l then .next s
      else if s.eligible L then
        match s.startPlace l with
        | some cs => .next (s.startGang l L cs)
        | none => .next s
      else whenEnabled s (s.resumeAdmits l stalls) (s.resumeGang l stalls)
    | none => .next s
  | _ => .next s

/-! ### Posting (R343 to R345) -/

/-- A channel takes a posting now: FREE holds a node, and every word of the posting is reached (R339, R344). -/
def State.channelReady (s : State) (ch cls : Nat) : Bool := s.canMove cls ch (ch + 16)

/-- STATUS 5 is posted in ascending HSEQ (R348): a cancelled launch waits for the cancelled ones of its
queue before it. DEDUCED (log entry 41). -/
def State.cancelsFirst (s : State) (L : Launch) : Bool :=
  s.hall.launches.any (fun M => M.queue == L.queue && decide (M.req.hseq < L.req.hseq) && M.phase != .done &&
    (M.status == 5 || (M.failure.map (·.status)) == some 5))

/-- A due posting can be made now; invalidations are posted in IVSEQ order (R378). -/
def State.canPost (s : State) (p : Posting) : Bool :=
  match p.kind with
  | .completion l status _ =>
    match s.hall.launches[l]? with
    | some L => s.channelReady p.channel L.req.cls && (status != 5 || !s.cancelsFirst L)
    | none => false
  | .refusal _ _ cls _ => s.channelReady p.channel cls
  | .invalidation seq => s.channelReady p.channel 0 && !s.hall.due.any (fun o => match o.kind with
    | .invalidation n => decide (n < seq)
    | _ => false)

/-- Write a node's fields and move it from FREE to POSTED (R343). -/
def State.postNode (s : State) (ch hseq status detail queue : Nat) : State :=
  let n := s.physRead ch 8
  let d := s.hall.dseql + 1
  let s := s.mapHall (fun a => { a with dseql := d })
  let s := s.physWrite (n + 8) 8 hseq
  let s := s.physWrite (n + 16) 8 s.hall.hcnt.toNat
  let s := s.physWrite (n + 24) 4 d.toNat
  let s := s.physWrite (n + 28) 1 status
  let s := s.physWrite (n + 29) 1 detail
  let s := s.physWrite (n + 30) 2 queue
  (s.physMove ch (ch + 16)).2

/-- LERR and LETPC for a completion of STATUS 1, 2, 3 or 6 (R345). -/
def State.noteFailure (s : State) (L : Launch) (status detail : Nat) : State :=
  match status, L.failure with
  | 3, _ => s.setLerr L.queue 0 detail L.req.hseq 0
  | 1, some f => s.setLerr L.queue f.hartid f.tcause L.req.hseq f.tpc
  | 2, some f => s.setLerr L.queue f.hartid f.tcause L.req.hseq f.tpc
  | 6, some f => s.setLerr L.queue f.hartid f.tcause L.req.hseq f.tpc
  | _, _ => s

/-- Post one due posting and do what follows from it. DEDUCED (log entry 41). -/
def State.post (s : State) (p : Posting) : State :=
  match p.kind with
  | .completion l status detail =>
    match s.hall.launches[l]? with
    | none => s
    | some L =>
      let s := s.postNode p.channel L.req.hseq status detail L.queue
      let s := (s.setLaunch l { L with phase := .done }).noteFailure L status detail
      ((s.countMiss L).advanceQueue L.queue).failDependents
  | .refusal q hseq _ detail => (s.postNode p.channel hseq 3 detail q).setLerr q 0 detail hseq 0
  | .invalidation seq => s.postNode p.channel seq 7 0 0xFFFF

/-- COMPLETION_POST (R343, R344): the first due posting whose channel takes it. -/
def execCompletionPost (s : State) : Result :=
  match s.hall.due.findIdx? s.canPost with
  | none => .next s
  | some i =>
    match s.hall.due[i]? with
    | none => .next s
    | some p => .next ((s.mapHall (fun a => { a with due := a.due.eraseIdx i })).post p)

/-- QCTL.CPEND: a completion of queue q waits for a free node (R344). -/
def State.cpend (s : State) (q : Nat) : Bool :=
  s.hall.due.any (fun p => s.physRead p.channel 8 == 0 &&
    match p.kind with
    | .completion l _ _ => (s.hall.launches[l]?).any (fun L => L.queue == q)
    | .refusal r _ _ _ => r == q
    | .invalidation _ => false)

/-! ### Queue control (R345, R348) -/

/-- The host can send a transaction: the link is up, and it holds some class open (R338, R339).
DESIGN CHOICE (log entry 50). -/
def State.hostCan (s : State) : Bool := s.link.up && s.link.holdIn.toList.any (fun b => !b)

/-- QUEUE_ENABLE (R345): before STAGE 5 the write is ignored (R385). -/
def execQueueEnable (s : State) : Result :=
  match s.input with
  | .queueEnable q en =>
    if !s.hostCan || 1024 ≤ q then .next s
    else if s.sec.stage != 5 then .next s
    else
      .next (s.mapQueue q (fun b =>
        let ok := b.qlist != 0 && b.qlist.toNat % 16 == 0 && b.done != 0 && b.done.toNat % 16 == 0 && !b.resetting
        if !en then { b with en := false } else { b with en := ok, cfgerr := !ok }))
  | _ => .next s

/-- Cancel an accepted, uncompleted launch (R348). DEDUCED (log entry 41). -/
def State.cancel (s : State) (l : Nat) : State :=
  match s.hall.launches[l]? with
  | none => s
  | some L =>
    match L.phase with
    | .waiting => s.finishLaunch l 5 0
    | .started => (s.setLaunch l { L with failure := L.failure.or (some ⟨5, 0, 0, 0, 0⟩) }).endGang l
    | _ => s

/-- QUEUE_RESET (R348): launches are cancelled in ascending HSEQ, which is the order of acceptance. -/
def execQueueReset (s : State) : Result :=
  match s.input with
  | .queueReset q =>
    if !s.hostCan || 1024 ≤ q then .next s
    else if s.sec.stage != 5 then .next s
    else
      let s := s.mapQueue q (fun b => { b with en := false, resetting := true })
      let ls := ((withIndex 0 s.hall.launches).filter (fun (_, L) => L.queue == q)).map (·.1)
      .next (forEach ls s State.cancel)
  | _ => .next s

/-- QUEUE_RESET_DONE (R348). -/
def execQueueResetDone (s : State) : Result :=
  match s.input with
  | .queueResetDone q =>
    let b := s.hall.queue q
    whenEnabled s (b.resetting && b.completed == b.accepted)
      (s.mapQueue q (fun b => { b with resetting := false }))
  | _ => .next s

/-! ### Pre-emption (R359) -/

/-- Gangs that launch l may take resources from, in the order of choice: class 2 before class 1, then the
most recently started. A gang that another pre-emption stops already is not among them. -/
def State.victimGangs (s : State) (cls : Nat) : List Nat :=
  let can := (withIndex 0 s.hall.launches).filter (fun (l, L) =>
    cls < 2 && decide (cls < L.req.cls) && !(s.gangWhere l Hart.placed).isEmpty &&
    !s.hall.preemptions.any (fun p => p.victims.any (fun (k, _) => (s.harts[k]?).any (fun h => h.launch == l))))
  (sortBy (fun a b => decide (b.2.req.cls < a.2.req.cls) ||
    (a.2.req.cls == b.2.req.cls && decide (b.2.startedAt < a.2.startedAt))) can).map (·.1)

/-- The placement of launch l, new or resumed, with the gangs of `vs` stopped. DEDUCED (log entry 39). -/
def State.planWith (s : State) (l : Nat) (L : Launch) (vs : List Nat) : Option (List Claim) :=
  let gone := fun (h : Hart) => vs.contains h.launch
  if s.eligible L then s.placement l (fun _ h => gone h)
  else
    let hs := s.stoppedHarts l
    (resumeFit (s.quadOpen L.req.cls) L.req hs
      (s.barriersFor l L.req.cls (fun _ h => gone h || (h.launch == l && h.resumable)))).map (fun sts =>
        (hs.zip sts).map (fun (h, st) => h.resumeClaim L.req st))

/-- A plan still fits with only the gangs of `vs` stopped. DEDUCED (log entry 39). -/
def State.planHolds (s : State) (l cls : Nat) (vs : List Nat) (plan : List Claim) : Bool :=
  fitTogether plan (s.barriersFor l cls (fun _ h => vs.contains h.launch || (h.launch == l && h.resumable)))

/-- The fewest gangs, in the order of choice, that let launch l be placed, without those whose stop its
placement does not need. DEDUCED (log entry 39). -/
def State.victims (s : State) (l : Nat) (L : Launch) : Option (List Nat × List Claim) :=
  let all := s.victimGangs L.req.cls
  match (fromTo 1 (all.length + 1)).findSome? (fun n => (s.planWith l L (all.take n)).map (fun p => (all.take n, p))) with
  | none => none
  | some (vs, plan) =>
    some (forEach vs.reverse vs (fun ws v =>
      let fewer := ws.filter (· != v)
      if s.planHolds l L.req.cls fewer plan then fewer else ws), plan)

/-- Launch l pre-empts, where its victims' gangs are such as `ok` admits (R359). -/
def State.preempt (s : State) (l : Nat) (ok : List Nat → Bool) : Option State :=
  match s.hall.launches[l]? with
  | some L =>
    if s.waits l && !s.canRun l && !s.hall.preemptions.any (fun p => p.launch == l) then
      match s.victims l L with
      | some (vs, plan) =>
        let hs := ((withIndex 0 s.harts).filter (fun (_, h) => vs.contains h.launch && h.placed)).map
          (fun (k, h) => (k, s.claim h))
        if ok vs then some (s.mapHall (fun a => { a with preemptions := a.preemptions ++ [⟨l, hs, [], plan⟩] })) else none
      | none => none
    else none
  | none => none

/-- PREEMPTION (R359). -/
def execPreemption (s : State) : Result :=
  match s.input with
  | .preemption l => .next ((s.preempt l (fun _ => true)).getD s)
  | _ => .next s

/-- A pending narrowing has stood for YWIN (R356). DEDUCED (log entry 38). -/
def State.narrowingLate (s : State) (h : Hart) : Bool :=
  match h.pend, h.pendAt with
  | some p, some t => decide (p.size.toNat < h.size) && s.ticksSince t s.hall.ywin
  | _, _ => false

/-- The harts of a running gang are hard-stopped. -/
def State.stopGang (s : State) (l : Nat) : State :=
  forEach (s.gangWhere l (fun o => o.status == .running)) s (fun (s : State) j =>
    match s.harts[j]? with
    | some o => s.stopHart j o none
    | none => s)

/-- The pre-emption for which the hall takes what a late narrowing of hart k was to free: one under way that names the
hart, or the one of the first launch in order that may take from its gang (R356, R359). DEDUCED (log entry 38). -/
def State.preemptInstead (s : State) (k : Nat) (h : Hart) : Option State :=
  if (s.requesters k).isEmpty then s.hallOrder.findSome? (fun l => s.preempt l (fun vs => vs.contains h.launch))
  else some s

/-- NARROWING_TIMEOUT (R356, R364): PEND is cleared, and where the hall then pre-empts the gang is stopped whole. -/
def execNarrowingTimeout (s : State) : Result :=
  match s.input with
  | .narrowingTimeout k =>
    onHart k s (fun h =>
      if h.status == .running && s.narrowingLate h then
        let s := s.setHart k { h with pend := none, pendAt := none }
        some (match s.preemptInstead k h with
          | some s => s.stopGang h.launch
          | none => s)
      else none)
  | _ => .next s

/-! ### Aging (R357, R358) -/

/-- AGING_EXPIRY (R358): a launch that has waited for placement longer than AGE gets its target. -/
def execAgingExpiry (s : State) : Result :=
  match s.input with
  | .agingExpiry l =>
    match s.hall.launches[l]? with
    | some L =>
      whenEnabled s
        (s.eligible L && !L.aged && s.ticksSince L.accepted (s.hall.age + 1))
        (s.setLaunch l { L with aged := true, target := s.targetOf l })
    | none => .next s
  | _ => .next s

end Sys2Proof.Machine
end

