-- ==== Sys2Proof/Machine/Float.lean ====
section
/-!
DEFINITION. Scalar floating point (R128, R129), with flags and FPX (R42, R50, R288). `eff…` is the effect on
a hart or on a virtual processor (R231); `exec…` is the instruction of the hart whose turn it is.
-/
namespace Sys2Proof.Machine

/-! ### Operands and results (R19) -/

/-- The selected format T. -/
def scalarFmt (single : Bool) : Fmt := if single then fmtF32 else fmtF64
/-- Its width. -/
def fpWidth (single : Bool) : Nat := if single then 32 else 64
/-- The bits of an operand: an F32 operand is read from the low half. -/
def Hart.fpBits (h : Hart) (single : Bool) (r : XReg) : Nat := h.getU r % 2 ^ fpWidth single
/-- The value of an operand. -/
def Hart.fpArg (h : Hart) (single : Bool) (r : XReg) : Val := (scalarFmt single).value (h.fpBits single r)

/-- Write a number to an X register. -/
def Ctx.putN (c : Ctx) (d : XReg) (n : Nat) : HRes := c.putX d (BitVec.ofNat 64 n)

/-- Write a result with its flags: every flag raised is set; an enabled one raises FPX and leaves xd as it
was (R128, R288). -/
def Ctx.fpPut (c : Ctx) (d : XReg) (r : Nat × Flags) : HRes :=
  let h := c.h.orFlags r.2
  match c.h.enabledFlag r.2 with
  | some k => .trap { c with h := h } (.fpx k 0 none)
  | none => Ctx.putN { c with h := h } d r.1

/-- Round an exact result into T. -/
def Ctx.fpRound (c : Ctx) (d : XReg) (single : Bool) (v : Val × Flags) : HRes :=
  let (bits, f) := (scalarFmt single).round c.h.scalarRounding v.1
  c.fpPut d (bits, f ||| v.2)

/-- xd := round(f(xa), T). -/
def Ctx.fp1 (c : Ctx) (d a : XReg) (single : Bool) (f : Val → Val × Flags) : HRes :=
  c.fpRound d single (f (c.h.fpArg single a))
/-- xd := round(f(xa, xb), T). -/
def Ctx.fp2 (c : Ctx) (d a b : XReg) (single : Bool) (f : Rounding → Val → Val → Val × Flags) : HRes :=
  c.fpRound d single (f c.h.scalarRounding (c.h.fpArg single a) (c.h.fpArg single b))
/-- xd := round(f(xa, xb, xc), T). -/
def Ctx.fp3 (c : Ctx) (d a b e : XReg) (single : Bool) (f : Rounding → Val → Val → Val → Val × Flags) :
    HRes :=
  c.fpRound d single
    (f c.h.scalarRounding (c.h.fpArg single a) (c.h.fpArg single b) (c.h.fpArg single e))

/-- A comparison: 0 on a NaN, with NV for any NaN, or for a signalling one only when `quiet` (R50). -/
def Ctx.fpCompare (c : Ctx) (d a b : XReg) (single quiet : Bool) (f : Val → Val → Bool) : HRes :=
  let x := c.h.fpArg single a
  let y := c.h.fpArg single b
  let nan := x.isNan || y.isNan
  let invalid := if quiet then x.isSnan || y.isSnan else nan
  c.fpPut d (bool01 (!nan && f x y), flagIf invalid flagNV)

/-- The kind word of a pattern (R129). -/
def kindWord (f : Fmt) (bits : Nat) : Nat :=
  let neg := bitAt bits (f.width - 1)
  let kind := match f.value bits with
    | .zero _ => 0
    | .fin _ m e _ => if exponentOf m e < f.qmin + (f.p - 1 : Nat) then 1 else 2
    | .inf _ => 3
    | .nan false => 4
    | .nan true => 5
  let ex := match f.value bits with
    | .fin _ m e _ => ofInt 16 (exponentOf m e)
    | _ => 0
  kind + 8 * bool01 neg + 65536 * ex

/-! ### Instructions -/

/-- FADD, or FADD.S when `single` (R128). -/
def effFadd (d a b : XReg) (single : Bool) (c : Ctx) : HRes :=
  c.fp2 d a b single (fun rd a b => a.add rd.rm b)
/-- FADD, or FADD.S when `single` of a hart (R128). -/
def execFadd (d a b : XReg) (single : Bool) (s : State) : Result := runHart (.fadd d a b single) s (effFadd d a b single)

/-- FSUB, or FSUB.S when `single` (R128). -/
def effFsub (d a b : XReg) (single : Bool) (c : Ctx) : HRes :=
  c.fp2 d a b single (fun rd a b => a.sub rd.rm b)
/-- FSUB, or FSUB.S when `single` of a hart (R128). -/
def execFsub (d a b : XReg) (single : Bool) (s : State) : Result := runHart (.fsub d a b single) s (effFsub d a b single)

/-- FMUL, or FMUL.S when `single` (R128). -/
def effFmul (d a b : XReg) (single : Bool) (c : Ctx) : HRes :=
  c.fp2 d a b single (fun _ a b => a.mul b)
/-- FMUL, or FMUL.S when `single` of a hart (R128). -/
def execFmul (d a b : XReg) (single : Bool) (s : State) : Result := runHart (.fmul d a b single) s (effFmul d a b single)

/-- FDIV, or FDIV.S when `single` (R128). -/
def effFdiv (d a b : XReg) (single : Bool) (c : Ctx) : HRes :=
  c.fp2 d a b single (fun _ a b => a.div b)
/-- FDIV, or FDIV.S when `single` of a hart (R128). -/
def execFdiv (d a b : XReg) (single : Bool) (s : State) : Result := runHart (.fdiv d a b single) s (effFdiv d a b single)

/-- FMIN, or FMIN.S when `single` (R128). -/
def effFmin (d a b : XReg) (single : Bool) (c : Ctx) : HRes :=
  c.fp2 d a b single (fun _ a b => a.minimum b)
/-- FMIN, or FMIN.S when `single` of a hart (R128). -/
def execFmin (d a b : XReg) (single : Bool) (s : State) : Result := runHart (.fmin d a b single) s (effFmin d a b single)

/-- FMAX, or FMAX.S when `single` (R128). -/
def effFmax (d a b : XReg) (single : Bool) (c : Ctx) : HRes :=
  c.fp2 d a b single (fun _ a b => a.maximum b)
/-- FMAX, or FMAX.S when `single` of a hart (R128). -/
def execFmax (d a b : XReg) (single : Bool) (s : State) : Result := runHart (.fmax d a b single) s (effFmax d a b single)

/-- FSQRT, or FSQRT.S when `single` (R128). -/
def effFsqrt (d a : XReg) (single : Bool) (c : Ctx) : HRes := c.fp1 d a single (fun a => a.sqrt)
/-- FSQRT, or FSQRT.S when `single` of a hart (R128). -/
def execFsqrt (d a : XReg) (single : Bool) (s : State) : Result := runHart (.fsqrt d a single) s (effFsqrt d a single)

/-- FMA, or FMA.S when `single`, rounded once (R128). -/
def effFma (d a b c' : XReg) (single : Bool) (c : Ctx) : HRes :=
  c.fp3 d a b c' single (fun rd a b c => a.fma rd.rm b c)
/-- FMA, or FMA.S when `single`, rounded once of a hart (R128). -/
def execFma (d a b c' : XReg) (single : Bool) (s : State) : Result := runHart (.fma d a b c' single) s (effFma d a b c' single)

/-- FNMA: xc − xa × xb, rounded once (R128). -/
def effFnma (d a b c' : XReg) (single : Bool) (c : Ctx) : HRes :=
  c.fp3 d a b c' single (fun rd a b c => a.negate.fma rd.rm b c)
/-- FNMA of a hart (R128). -/
def execFnma (d a b c' : XReg) (single : Bool) (s : State) : Result := runHart (.fnma d a b c' single) s (effFnma d a b c' single)

/-- FEQ, or FEQ.S when `single` (R128). -/
def effFeq (d a b : XReg) (single : Bool) (c : Ctx) : HRes :=
  c.fpCompare d a b single true (fun a b => a.cmp b == 0)
/-- FEQ, or FEQ.S when `single` of a hart (R128). -/
def execFeq (d a b : XReg) (single : Bool) (s : State) : Result := runHart (.feq d a b single) s (effFeq d a b single)

/-- FLT, or FLT.S when `single` (R128). -/
def effFlt (d a b : XReg) (single : Bool) (c : Ctx) : HRes :=
  c.fpCompare d a b single false (fun a b => decide (a.cmp b < 0))
/-- FLT, or FLT.S when `single` of a hart (R128). -/
def execFlt (d a b : XReg) (single : Bool) (s : State) : Result := runHart (.flt d a b single) s (effFlt d a b single)

/-- FLE, or FLE.S when `single` (R128). -/
def effFle (d a b : XReg) (single : Bool) (c : Ctx) : HRes :=
  c.fpCompare d a b single false (fun a b => decide (a.cmp b ≤ 0))
/-- FLE, or FLE.S when `single` of a hart (R128). -/
def execFle (d a b : XReg) (single : Bool) (s : State) : Result := runHart (.fle d a b single) s (effFle d a b single)

/-- FCVT.D.L, or FCVT.S.L when `single` (R128). -/
def effFcvtDL (d a : XReg) (single : Bool) (c : Ctx) : HRes :=
  c.fpPut d ((scalarFmt single).round c.h.scalarRounding (.ofInt (c.h.getX a).toInt))
/-- FCVT.D.L, or FCVT.S.L when `single` of a hart (R128). -/
def execFcvtDL (d a : XReg) (single : Bool) (s : State) : Result := runHart (.fcvtDL d a single) s (effFcvtDL d a single)

/-- FCVT.L.D, or FCVT.L.S when `single` (R63, R128). -/
def effFcvtLD (d a : XReg) (single : Bool) (c : Ctx) : HRes :=
  c.fpPut d (roundInt true 64 c.h.scalarRounding (c.h.fpArg single a))
/-- FCVT.L.D, or FCVT.L.S when `single` of a hart (R128). -/
def execFcvtLD (d a : XReg) (single : Bool) (s : State) : Result := runHart (.fcvtLD d a single) s (effFcvtLD d a single)

/-- FCVT.D.S (R128). -/
def effFcvtDS (d a : XReg) (c : Ctx) : HRes :=
  c.fpPut d (fmtF64.round c.h.scalarRounding (c.h.fpArg true a))
/-- FCVT.D.S of a hart (R128). -/
def execFcvtDS (d a : XReg) (s : State) : Result := runHart (.fcvtDS d a) s (effFcvtDS d a)

/-- FCVT.S.D (R128). -/
def effFcvtSD (d a : XReg) (c : Ctx) : HRes :=
  c.fpPut d (fmtF32.round c.h.scalarRounding (c.h.fpArg false a))
/-- FCVT.S.D of a hart (R128). -/
def execFcvtSD (d a : XReg) (s : State) : Result := runHart (.fcvtSD d a) s (effFcvtSD d a)

/-- FABS: the sign bit cleared (R128). -/
def effFabs (d a : XReg) (single : Bool) (c : Ctx) : HRes :=
  c.putN d (c.h.fpBits single a % 2 ^ (fpWidth single - 1))
/-- FABS of a hart (R128). -/
def execFabs (d a : XReg) (single : Bool) (s : State) : Result := runHart (.fabs d a single) s (effFabs d a single)

/-- FNEG: the sign bit inverted (R128). -/
def effFneg (d a : XReg) (single : Bool) (c : Ctx) : HRes :=
  c.putN d (c.h.fpBits single a ^^^ 2 ^ (fpWidth single - 1))
/-- FNEG of a hart (R128). -/
def execFneg (d a : XReg) (single : Bool) (s : State) : Result := runHart (.fneg d a single) s (effFneg d a single)

/-- FKIND, or FKIND.S when `single` (R129). -/
def effFkind (d a : XReg) (single : Bool) (c : Ctx) : HRes :=
  c.putN d (kindWord (scalarFmt single) (c.h.fpBits single a))
/-- FKIND, or FKIND.S when `single` of a hart (R129). -/
def execFkind (d a : XReg) (single : Bool) (s : State) : Result := runHart (.fkind d a single) s (effFkind d a single)

end Sys2Proof.Machine
end

