-- ==== Sys2Proof/Machine/Scalar.lean ====
section
/-!
DEFINITION. Integer register operations and immediate forms (R125 to R127). `eff…` is the effect on a hart
or on a virtual processor (R231); `exec…` is the instruction of the hart whose turn it is.
-/
namespace Sys2Proof.Machine

/-! ### Values -/

/-- A Boolean as a register word. -/
def bit01 (b : Bool) : Word := if b then 1 else 0

/-- xa shifted left by sh; every bit leaves for sh ≥ 64. -/
def shiftLeft (a : Word) (sh : Nat) : Word := if 64 ≤ sh then 0 else a <<< sh
/-- xa shifted right with zeros. -/
def shiftRight (a : Word) (sh : Nat) : Word := if 64 ≤ sh then 0 else a >>> sh
/-- xa shifted right with its sign. -/
def shiftArith (a : Word) (sh : Nat) : Word := a.sshiftRight (Nat.min sh 64)

/-- DIV: all ones on a zero divisor; −2^63 ÷ −1 is −2^63. -/
def divSigned (a b : Word) : Word := if b == 0 then BitVec.allOnes 64 else a.sdiv b
/-- DIVU: all ones on a zero divisor. -/
def divUnsigned (a b : Word) : Word := if b == 0 then BitVec.allOnes 64 else a / b
/-- REM: the dividend on a zero divisor. -/
def remSigned (a b : Word) : Word := if b == 0 then a else a.srem b
/-- REMU: the dividend on a zero divisor. -/
def remUnsigned (a b : Word) : Word := if b == 0 then a else a % b

/-- xd := f(xa, xb). -/
def Ctx.alu2 (c : Ctx) (d a b : XReg) (f : Word → Word → Word) : HRes :=
  c.putX d (f (c.h.getX a) (c.h.getX b))
/-- xd := f(xa). -/
def Ctx.alu1 (c : Ctx) (d a : XReg) (f : Word → Word) : HRes := c.putX d (f (c.h.getX a))

/-! ### Instructions -/

/-- ADD (R125). -/
def effAdd (d a b : XReg) (c : Ctx) : HRes := c.alu2 d a b (fun a b => a + b)
/-- ADD of a hart (R125). -/
def execAdd (d a b : XReg) (s : State) : Result := runHart (.add d a b) s (effAdd d a b)

/-- SUB (R125). -/
def effSub (d a b : XReg) (c : Ctx) : HRes := c.alu2 d a b (fun a b => a - b)
/-- SUB of a hart (R125). -/
def execSub (d a b : XReg) (s : State) : Result := runHart (.sub d a b) s (effSub d a b)

/-- AND (R125). -/
def effAnd (d a b : XReg) (c : Ctx) : HRes := c.alu2 d a b (fun a b => a &&& b)
/-- AND of a hart (R125). -/
def execAnd (d a b : XReg) (s : State) : Result := runHart (.and d a b) s (effAnd d a b)

/-- OR (R125). -/
def effOr (d a b : XReg) (c : Ctx) : HRes := c.alu2 d a b (fun a b => a ||| b)
/-- OR of a hart (R125). -/
def execOr (d a b : XReg) (s : State) : Result := runHart (.or d a b) s (effOr d a b)

/-- XOR (R125). -/
def effXor (d a b : XReg) (c : Ctx) : HRes := c.alu2 d a b (fun a b => a ^^^ b)
/-- XOR of a hart (R125). -/
def execXor (d a b : XReg) (s : State) : Result := runHart (.xor d a b) s (effXor d a b)

/-- SLL (R125). -/
def effSll (d a b : XReg) (c : Ctx) : HRes := c.alu2 d a b (fun a b => shiftLeft a b.toNat)
/-- SLL of a hart (R125). -/
def execSll (d a b : XReg) (s : State) : Result := runHart (.sll d a b) s (effSll d a b)

/-- SRL (R125). -/
def effSrl (d a b : XReg) (c : Ctx) : HRes := c.alu2 d a b (fun a b => shiftRight a b.toNat)
/-- SRL of a hart (R125). -/
def execSrl (d a b : XReg) (s : State) : Result := runHart (.srl d a b) s (effSrl d a b)

/-- SRA (R125). -/
def effSra (d a b : XReg) (c : Ctx) : HRes := c.alu2 d a b (fun a b => shiftArith a b.toNat)
/-- SRA of a hart (R125). -/
def execSra (d a b : XReg) (s : State) : Result := runHart (.sra d a b) s (effSra d a b)

/-- SLT (R125). -/
def effSlt (d a b : XReg) (c : Ctx) : HRes := c.alu2 d a b (fun a b => bit01 (a.slt b))
/-- SLT of a hart (R125). -/
def execSlt (d a b : XReg) (s : State) : Result := runHart (.slt d a b) s (effSlt d a b)

/-- SLTU (R125). -/
def effSltu (d a b : XReg) (c : Ctx) : HRes := c.alu2 d a b (fun a b => bit01 (a.ult b))
/-- SLTU of a hart (R125). -/
def execSltu (d a b : XReg) (s : State) : Result := runHart (.sltu d a b) s (effSltu d a b)

/-- MIN (R125). -/
def effMin (d a b : XReg) (c : Ctx) : HRes := c.alu2 d a b (fun a b => if b.slt a then b else a)
/-- MIN of a hart (R125). -/
def execMin (d a b : XReg) (s : State) : Result := runHart (.min d a b) s (effMin d a b)

/-- MAX (R125). -/
def effMax (d a b : XReg) (c : Ctx) : HRes := c.alu2 d a b (fun a b => if a.slt b then b else a)
/-- MAX of a hart (R125). -/
def execMax (d a b : XReg) (s : State) : Result := runHart (.max d a b) s (effMax d a b)

/-- MINU (R125). -/
def effMinu (d a b : XReg) (c : Ctx) : HRes := c.alu2 d a b (fun a b => if b.ult a then b else a)
/-- MINU of a hart (R125). -/
def execMinu (d a b : XReg) (s : State) : Result := runHart (.minu d a b) s (effMinu d a b)

/-- MAXU (R125). -/
def effMaxu (d a b : XReg) (c : Ctx) : HRes := c.alu2 d a b (fun a b => if a.ult b then b else a)
/-- MAXU of a hart (R125). -/
def execMaxu (d a b : XReg) (s : State) : Result := runHart (.maxu d a b) s (effMaxu d a b)

/-- MUL (R125). -/
def effMul (d a b : XReg) (c : Ctx) : HRes := c.alu2 d a b (fun a b => a * b)
/-- MUL of a hart (R125). -/
def execMul (d a b : XReg) (s : State) : Result := runHart (.mul d a b) s (effMul d a b)

/-- MULH (R125). -/
def effMulh (d a b : XReg) (c : Ctx) : HRes := c.alu2 d a b (fun a b => BitVec.ofInt 64 (a.toInt * b.toInt / 2 ^ 64))
/-- MULH of a hart (R125). -/
def execMulh (d a b : XReg) (s : State) : Result := runHart (.mulh d a b) s (effMulh d a b)

/-- MULHU (R125). -/
def effMulhu (d a b : XReg) (c : Ctx) : HRes := c.alu2 d a b (fun a b => BitVec.ofNat 64 (a.toNat * b.toNat / 2 ^ 64))
/-- MULHU of a hart (R125). -/
def execMulhu (d a b : XReg) (s : State) : Result := runHart (.mulhu d a b) s (effMulhu d a b)

/-- DIV (R125). -/
def effDiv (d a b : XReg) (c : Ctx) : HRes := c.alu2 d a b (fun a b => divSigned a b)
/-- DIV of a hart (R125). -/
def execDiv (d a b : XReg) (s : State) : Result := runHart (.div d a b) s (effDiv d a b)

/-- DIVU (R125). -/
def effDivu (d a b : XReg) (c : Ctx) : HRes := c.alu2 d a b (fun a b => divUnsigned a b)
/-- DIVU of a hart (R125). -/
def execDivu (d a b : XReg) (s : State) : Result := runHart (.divu d a b) s (effDivu d a b)

/-- REM (R125). -/
def effRem (d a b : XReg) (c : Ctx) : HRes := c.alu2 d a b (fun a b => remSigned a b)
/-- REM of a hart (R125). -/
def execRem (d a b : XReg) (s : State) : Result := runHart (.rem d a b) s (effRem d a b)

/-- REMU (R125). -/
def effRemu (d a b : XReg) (c : Ctx) : HRes := c.alu2 d a b (fun a b => remUnsigned a b)
/-- REMU of a hart (R125). -/
def execRemu (d a b : XReg) (s : State) : Result := runHart (.remu d a b) s (effRemu d a b)

/-- CLZ (R125). -/
def effClz (d a : XReg) (c : Ctx) : HRes := c.alu1 d a (fun a => BitVec.ofNat 64 (leadingZeros 64 a.toNat))
/-- CLZ of a hart (R125). -/
def execClz (d a : XReg) (s : State) : Result := runHart (.clz d a) s (effClz d a)

/-- CTZ (R125). -/
def effCtz (d a : XReg) (c : Ctx) : HRes := c.alu1 d a (fun a => BitVec.ofNat 64 (trailingZeros 64 a.toNat))
/-- CTZ of a hart (R125). -/
def execCtz (d a : XReg) (s : State) : Result := runHart (.ctz d a) s (effCtz d a)

/-- CNT (R125). -/
def effCnt (d a : XReg) (c : Ctx) : HRes := c.alu1 d a (fun a => BitVec.ofNat 64 (popCount 64 a.toNat))
/-- CNT of a hart (R125). -/
def execCnt (d a : XReg) (s : State) : Result := runHart (.cnt d a) s (effCnt d a)

/-- SEL: xa when xc is not zero, else xb (R125). -/
def effSel (d a b c' : XReg) (c : Ctx) : HRes :=
  c.putX d (if c.h.getX c' != 0 then c.h.getX a else c.h.getX b)
/-- SEL of a hart (R125). -/
def execSel (d a b c' : XReg) (s : State) : Result := runHart (.sel d a b c') s (effSel d a b c')

/-- ADDI (R126). -/
def effAddi (d a : XReg) (imm : BitVec 16) (c : Ctx) : HRes := c.alu1 d a (fun a => a + sext 16 imm.toNat)
/-- ADDI of a hart (R126). -/
def execAddi (d a : XReg) (imm : BitVec 16) (s : State) : Result := runHart (.addi d a imm) s (effAddi d a imm)

/-- ANDI (R126). -/
def effAndi (d a : XReg) (imm : BitVec 16) (c : Ctx) : HRes := c.alu1 d a (fun a => a &&& imm.setWidth 64)
/-- ANDI of a hart (R126). -/
def execAndi (d a : XReg) (imm : BitVec 16) (s : State) : Result := runHart (.andi d a imm) s (effAndi d a imm)

/-- ORI (R126). -/
def effOri (d a : XReg) (imm : BitVec 16) (c : Ctx) : HRes := c.alu1 d a (fun a => a ||| imm.setWidth 64)
/-- ORI of a hart (R126). -/
def execOri (d a : XReg) (imm : BitVec 16) (s : State) : Result := runHart (.ori d a imm) s (effOri d a imm)

/-- XORI (R126). -/
def effXori (d a : XReg) (imm : BitVec 16) (c : Ctx) : HRes := c.alu1 d a (fun a => a ^^^ imm.setWidth 64)
/-- XORI of a hart (R126). -/
def execXori (d a : XReg) (imm : BitVec 16) (s : State) : Result := runHart (.xori d a imm) s (effXori d a imm)

/-- SLTI (R126). -/
def effSlti (d a : XReg) (imm : BitVec 16) (c : Ctx) : HRes := c.alu1 d a (fun a => bit01 (a.slt (sext 16 imm.toNat)))
/-- SLTI of a hart (R126). -/
def execSlti (d a : XReg) (imm : BitVec 16) (s : State) : Result := runHart (.slti d a imm) s (effSlti d a imm)

/-- SLTIU (R126). -/
def effSltiu (d a : XReg) (imm : BitVec 16) (c : Ctx) : HRes := c.alu1 d a (fun a => bit01 (a.ult (sext 16 imm.toNat)))
/-- SLTIU of a hart (R126). -/
def execSltiu (d a : XReg) (imm : BitVec 16) (s : State) : Result := runHart (.sltiu d a imm) s (effSltiu d a imm)

/-- SLLI (R127). -/
def effSlli (d a : XReg) (shamt : BitVec 6) (c : Ctx) : HRes :=
  c.alu1 d a (fun a => shiftLeft a shamt.toNat)
/-- SLLI of a hart (R127). -/
def execSlli (d a : XReg) (shamt : BitVec 6) (s : State) : Result := runHart (.slli d a shamt) s (effSlli d a shamt)

/-- SRLI (R127). -/
def effSrli (d a : XReg) (shamt : BitVec 6) (c : Ctx) : HRes :=
  c.alu1 d a (fun a => shiftRight a shamt.toNat)
/-- SRLI of a hart (R127). -/
def execSrli (d a : XReg) (shamt : BitVec 6) (s : State) : Result := runHart (.srli d a shamt) s (effSrli d a shamt)

/-- SRAI (R127). -/
def effSrai (d a : XReg) (shamt : BitVec 6) (c : Ctx) : HRes :=
  c.alu1 d a (fun a => shiftArith a shamt.toNat)
/-- SRAI of a hart (R127). -/
def execSrai (d a : XReg) (shamt : BitVec 6) (s : State) : Result := runHart (.srai d a shamt) s (effSrai d a shamt)

/-- LUI (R126). -/
def effLui (d : XReg) (imm : BitVec 16) (c : Ctx) : HRes := c.putX d (sext 16 imm.toNat <<< 16)
/-- LUI of a hart (R126). -/
def execLui (d : XReg) (imm : BitVec 16) (s : State) : Result := runHart (.lui d imm) s (effLui d imm)

/-- ADDPC (R126). -/
def effAddpc (d : XReg) (imm : BitVec 16) (c : Ctx) : HRes := c.putX d (c.h.pc + sext 16 imm.toNat)
/-- ADDPC of a hart (R126). -/
def execAddpc (d : XReg) (imm : BitVec 16) (s : State) : Result := runHart (.addpc d imm) s (effAddpc d imm)

end Sys2Proof.Machine
end

