-- ==== Sys2Proof/Machine/VArith.lean ====
section
/-!
DEFINITION. Element arithmetic (major 0x16, R147 to R155) and the scalar-operand forms (major 0x18, R163,
R164).
-/
namespace Sys2Proof.Machine

/-! ### Shapes of instruction -/

/-- Write element e of an arithmetic result under the destination's tag. -/
def Hart.putResult (h : Hart) (tick : Nat) (d : VReg) : Hart → Nat → Nat → Hart :=
  fun h' e v => h'.setElem tick (h.kind tick d) d e v

/-- Element arithmetic into vd's tag: `f` gives element e. `rounds` says that R410 names the entry. -/
def Ctx.arithOn (c : Ctx) (rounds : Bool) (d : VReg) (m : Bool) (faults : List (Option Nat))
    (f : Nat → Nat × Flags) : HRes :=
  let t := c.s.tick
  c.guarded (rounds && (c.h.kind t d).isFloating) (c.h.useFault t useArith d :: faults)
    (c.compute (c.act m) id f (c.h.putResult t d))

/-- Element arithmetic of an entry that R410 names. -/
def Ctx.arith (c : Ctx) (d : VReg) (m : Bool) (faults : List (Option Nat)) (f : Nat → Nat × Flags) : HRes :=
  c.arithOn true d m faults f

/-- A binary operation on two operands. VMULH and VREM are integer only: R410 does not name them, and a
floating operand or destination is ILLCFG (R147). -/
def Ctx.binaryOn (c : Ctx) (op : VOp) (d : VReg) (a b : Src) (m : Bool) (faults : List (Option Nat)) : HRes :=
  let h := c.h
  let kd := h.kind c.s.tick d
  let ints := a.kind.isIN && b.kind.isIN && kd.isIN
  c.arithOn (!op.intOnly) d m (needTag (!op.intOnly || ints) :: faults)
    (fun e => binElem op kd (h.kw kd) a b (h.vecRounding e) e)

/-- A binary form on registers. -/
def Ctx.binary (c : Ctx) (op : VOp) (d a b : VReg) (m : Bool) : HRes :=
  let h := c.h
  let t := c.s.tick
  c.binaryOn op d (h.src t a) (h.src t b) m [h.useFault t useArith a, h.useFault t useArith b]

/-- A fused form: vd is the addend (R156). -/
def Ctx.fusedOn (c : Ctx) (op : FOp) (d : VReg) (a b : Src) (m : Bool) (faults : List (Option Nat)) : HRes :=
  let h := c.h
  let t := c.s.tick
  c.arith d m faults (fun e => fusedElem op (h.kind t d) a b (h.src t d) (h.vecRounding e) e)

/-- A unary form on real values; an integer operand is ILLCFG (R148), and an integer destination takes the
value rounded by R63. DEDUCED (log entry 21). -/
def Ctx.realUnary (c : Ctx) (d a : VReg) (m : Bool) (f : Val → Val × Flags) : HRes :=
  let h := c.h
  let t := c.s.tick
  let src := h.src t a
  c.arith d m [h.useFault t useArith a, needTag (!src.kind.isInt)]
    (fun e => (h.kind t d).fromReal (h.vecRounding e) (f (src.val e)))

/-- VABS or VNEG. -/
inductive SignOp where
  | abs | neg
  deriving DecidableEq, Repr

/-- The operation on an integer. -/
def SignOp.onInt (op : SignOp) (v : Int) : Int :=
  match op with | .abs => v.natAbs | .neg => -v
/-- The operation on a real. -/
def SignOp.onReal (op : SignOp) (v : Val) : Val :=
  match op with | .abs => v.abs | .neg => v.negate
/-- The operation on the bits of a floating format of w bits. -/
def SignOp.onBits (op : SignOp) (w bits : Nat) : Nat :=
  match op with | .abs => bits % 2 ^ (w - 1) | .neg => bits ^^^ 2 ^ (w - 1)

/-- Element e of VABS and VNEG: a bit operation when the tags are equal and floating; on E8M0 the code
itself, or 0xFF with NV (R148). -/
def signElem (h : Hart) (tick : Nat) (op : SignOp) (d a : VReg) (e : Nat) : Nat × Flags :=
  let kd := h.kind tick d
  let ka := h.kind tick a
  let bits := h.elem tick ka a e
  if ka == .e8m0 && kd == .e8m0 then
    match op with | .abs => (bits, noFlags) | .neg => (0xFF, flagNV)
  else if ka.isFlt && kd == ka then (op.onBits (h.kw ka) bits, noFlags)
  else if ka.isInt then kd.fromInt (h.vecRounding e) (op.onInt (ka.intVal bits))
  else kd.fromReal (h.vecRounding e) (op.onReal (h.value tick ka a e), noFlags)

/-- VABS and VNEG: they round only when the tags differ (R410). -/
def Ctx.signUnary (c : Ctx) (d a : VReg) (m : Bool) (op : SignOp) : HRes :=
  let h := c.h
  let t := c.s.tick
  let kd := h.kind t d
  c.guarded (kd.isFloating && kd != h.kind t a) [h.useFault t useArith d, h.useFault t useArith a]
    (c.compute (c.act m) id (signElem h t op d a) (h.putResult t d))

/-- A bitwise form on slots (R150): a source narrower than EW is read as its own bits with zeros above; the
low bits that vd's tag names are written. DEDUCED (log entry 19). -/
def Ctx.bitwiseOn (c : Ctx) (d a : VReg) (b : Nat → Nat) (m : Bool) (faults : List (Option Nat))
    (f : Nat → Nat → Nat) : HRes :=
  let h := c.h
  let t := c.s.tick
  c.guarded false (h.useFault t useBits d :: h.useFault t useBits a :: faults)
    (c.compute (c.act m) id (fun e => (f (h.elem t (h.kind t a) a e) (b e), noFlags)) (h.putResult t d))

/-- A bitwise form on registers. DEDUCED (log entry 19). -/
def Ctx.bitwise (c : Ctx) (d a b : VReg) (m : Bool) (f : Nat → Nat → Nat) : HRes :=
  let h := c.h
  let t := c.s.tick
  c.bitwiseOn d a (fun e => h.elem t (h.kind t b) b e) m [h.useFault t useBits b] f

/-- The shifts. -/
inductive ShiftOp where
  | left | right | arith
  deriving DecidableEq, Repr

/-- Shift the n-bit pattern x by s < n (R151). -/
def ShiftOp.apply (op : ShiftOp) (n x s : Nat) : Nat :=
  match op with
  | .left => x * 2 ^ s % 2 ^ n
  | .right => x / 2 ^ s
  | .arith => ofInt n (toSigned n x / (2 ^ s : Nat))

/-- The n-bit pattern a shift acts on: raw bits, or the integer's value modulo 2^n. -/
def Hart.shiftBits (h : Hart) (tick : Nat) (a : VReg) (n e : Nat) : Nat :=
  let k := h.kind tick a
  if k == .raw then h.elem tick k a e % 2 ^ n else ofInt n (k.intVal (h.elem tick k a e))

/-- A shift by amounts: raw and integer tags only. -/
def Ctx.shiftOn (c : Ctx) (op : ShiftOp) (d a : VReg) (amount : Nat → Int) (m : Bool)
    (faults : List (Option Nat)) : HRes :=
  let h := c.h
  let t := c.s.tick
  let kd := h.kind t d
  let n := h.kw kd
  c.guarded false
    (h.useFault t useRaw d :: h.useFault t useRaw a ::
      needTag (!kd.isFloating && !(h.kind t a).isFloating) :: faults)
    (c.compute (c.act m) id
      (fun e => (op.apply n (h.shiftBits t a n e) (amount e % (n : Nat)).toNat, noFlags))
      (h.putResult t d))

/-- A shift by the elements of an integer register (R151). -/
def Ctx.shiftVec (c : Ctx) (op : ShiftOp) (d a b : VReg) (m : Bool) : HRes :=
  let h := c.h
  let t := c.s.tick
  let src := h.src t b
  c.shiftOn op d a src.int m [h.useFault t useArith b, needTag src.kind.isIN]

/-- VCLZ and VCNT (R152): a floating source is ILLCFG. -/
def Ctx.countBits (c : Ctx) (d a : VReg) (m : Bool) (f : Nat → Nat → Nat) : HRes :=
  let h := c.h
  let t := c.s.tick
  let k := h.kind t a
  c.arith d m [h.useFault t useRaw a, needTag (!k.isFloating)]
    (fun e => (h.kind t d).fromInt (h.vecRounding e) (f (h.kw k) (h.elem t k a e)))

/-! ### Binary forms (R147) -/

/-- VADD (R147). -/
def execVadd (d a b : VReg) (m ca cb : Bool) (s : State) : Result :=
  runHart (.vadd d a b m ca cb) s (fun c => c.binary .add d a b m)

/-- VSUB (R147). -/
def execVsub (d a b : VReg) (m ca cb : Bool) (s : State) : Result :=
  runHart (.vsub d a b m ca cb) s (fun c => c.binary .sub d a b m)

/-- VMUL (R147). -/
def execVmul (d a b : VReg) (m ca cb : Bool) (s : State) : Result :=
  runHart (.vmul d a b m ca cb) s (fun c => c.binary .mul d a b m)

/-- VDIV (R147). -/
def execVdiv (d a b : VReg) (m ca cb : Bool) (s : State) : Result :=
  runHart (.vdiv d a b m ca cb) s (fun c => c.binary .div d a b m)

/-- VMIN (R147). -/
def execVmin (d a b : VReg) (m ca cb : Bool) (s : State) : Result :=
  runHart (.vmin d a b m ca cb) s (fun c => c.binary .min d a b m)

/-- VMAX (R147). -/
def execVmax (d a b : VReg) (m ca cb : Bool) (s : State) : Result :=
  runHart (.vmax d a b m ca cb) s (fun c => c.binary .max d a b m)

/-- VMULH (R147). -/
def execVmulh (d a b : VReg) (m ca cb : Bool) (s : State) : Result :=
  runHart (.vmulh d a b m ca cb) s (fun c => c.binary .mulh d a b m)

/-- VREM (R147). -/
def execVrem (d a b : VReg) (m ca cb : Bool) (s : State) : Result :=
  runHart (.vrem d a b m ca cb) s (fun c => c.binary .rem d a b m)

/-! ### Unary forms (R148, R149) -/

/-- VSQRT (R148). -/
def execVsqrt (d a : VReg) (m ca : Bool) (s : State) : Result :=
  runHart (.vsqrt d a m ca) s (fun c => c.realUnary d a m Val.sqrt)

/-- VRCPE (R149). -/
def execVrcpe (d a : VReg) (m ca : Bool) (s : State) : Result :=
  runHart (.vrcpe d a m ca) s (fun c => c.realUnary d a m Val.recipEstimate)

/-- VRSQE (R149). -/
def execVrsqe (d a : VReg) (m ca : Bool) (s : State) : Result :=
  runHart (.vrsqe d a m ca) s (fun c => c.realUnary d a m Val.rsqrtEstimate)

/-- VABS (R148). -/
def execVabs (d a : VReg) (m ca : Bool) (s : State) : Result :=
  runHart (.vabs d a m ca) s (fun c => c.signUnary d a m .abs)

/-- VNEG (R148). -/
def execVneg (d a : VReg) (m ca : Bool) (s : State) : Result :=
  runHart (.vneg d a m ca) s (fun c => c.signUnary d a m .neg)

/-! ### Bitwise forms and shifts (R150, R151) -/

/-- VAND (R150). -/
def execVand (d a b : VReg) (m ca cb : Bool) (s : State) : Result :=
  runHart (.vand d a b m ca cb) s (fun c => c.bitwise d a b m (· &&& ·))

/-- VOR (R150). -/
def execVor (d a b : VReg) (m ca cb : Bool) (s : State) : Result :=
  runHart (.vor d a b m ca cb) s (fun c => c.bitwise d a b m (· ||| ·))

/-- VXOR (R150). -/
def execVxor (d a b : VReg) (m ca cb : Bool) (s : State) : Result :=
  runHart (.vxor d a b m ca cb) s (fun c => c.bitwise d a b m (· ^^^ ·))

/-- VNOT (R150). -/
def execVnot (d a : VReg) (m ca : Bool) (s : State) : Result :=
  runHart (.vnot d a m ca) s (fun c => c.bitwise d a a m (fun x _ => 2 ^ c.h.ew - 1 - x % 2 ^ c.h.ew))

/-- VSLL (R151). -/
def execVsll (d a b : VReg) (m ca cb : Bool) (s : State) : Result :=
  runHart (.vsll d a b m ca cb) s (fun c => c.shiftVec .left d a b m)

/-- VSRL (R151). -/
def execVsrl (d a b : VReg) (m ca cb : Bool) (s : State) : Result :=
  runHart (.vsrl d a b m ca cb) s (fun c => c.shiftVec .right d a b m)

/-- VSRA (R151). -/
def execVsra (d a b : VReg) (m ca cb : Bool) (s : State) : Result :=
  runHart (.vsra d a b m ca cb) s (fun c => c.shiftVec .arith d a b m)

/-! ### Counts (R152) -/

/-- VCLZ (R152). -/
def execVclz (d a : VReg) (m ca : Bool) (s : State) : Result :=
  runHart (.vclz d a m ca) s (fun c => c.countBits d a m leadingZeros)

/-- VCNT (R152). -/
def execVcnt (d a : VReg) (m ca : Bool) (s : State) : Result :=
  runHart (.vcnt d a m ca) s (fun c => c.countBits d a m popCount)

/-! ### Moves and conversions (R153 to R155) -/

/-- VMV: the slot and the tag of va (R153); the slot's bits above that tag's width are written as zero (R25).
DEDUCED (log entry 19). -/
def execVmv (d a : VReg) (m ca : Bool) (s : State) : Result :=
  runHart (.vmv d a m ca) s (fun c =>
    let h := c.h
    let t := c.s.tick
    let k := h.kind t a
    c.guarded false [h.useFault t useBits a]
      (c.compute (c.act m) (fun h' => h'.setTag d (h.tag t a)) (fun e => (h.elem t k a e, noFlags))
        (fun h' e v => h'.setElem t k d e v)))

/-- VMERGE: va where the predicate holds, vb elsewhere; the tags must be equal (R154). -/
def execVmerge (d a b : VReg) (ca cb : Bool) (s : State) : Result :=
  runHart (.vmerge d a b ca cb) s (fun c =>
    let h := c.h
    let t := c.s.tick
    let k := h.kind t a
    c.guarded false
      [h.useFault t useBits a, h.useFault t useBits b, needTag (h.tag t a == h.tag t b)]
      (c.compute (fun _ => true) (fun h' => h'.setTag d (h.tag t a))
        (fun e => (h.elem t k (if h.pred t e then a else b) e, noFlags))
        (fun h' e v => h'.setElem t k d e v)))

/-- VCVT: a conversion into the target code, which becomes the tag (R155); to raw, the slot of va with all its EW
bits. A raw source is ILLCFG whatever the target (R26, R139). -/
def execVcvt (d a : VReg) (code : BitVec 6) (m ca : Bool) (s : State) : Result :=
  runHart (.vcvt d a code m ca) s (fun c =>
    let h := c.h
    let t := c.s.tick
    let k := kindOf code.toNat
    let src := h.src t a
    c.guarded false
      [h.useFault t useArith a, needTag (!k.isSliced && decide (h.kw k ≤ h.ew)), needLayout (!h.scaled k)]
      (c.compute (c.act m) (fun h' => h'.setTag d code.toNat)
        (fun e =>
          if k == .raw then (h.readSpot t a (h.ordSpot e) h.ew, noFlags)
          else if src.kind.isInt then k.fromInt (h.vecRounding e) (src.int e)
          else k.fromReal (h.vecRounding e) (src.val e, noFlags))
        (fun h' e v => h'.setElem t k d e v)))

/-! ### Scalar-operand forms (R163, R164) -/

/-- The scalar b: the low bits of xb, read as va's tag (R163). -/
def Hart.scalarArg (h : Hart) (tick : Nat) (a : VReg) (b : XReg) : Src :=
  let k := h.kind tick a
  scalarSrc k (BitVec.ofNat 64 (h.getU b % 2 ^ h.kw k))

/-- A binary form with a scalar. -/
def Ctx.binaryX (c : Ctx) (op : VOp) (d a : VReg) (b : XReg) (m : Bool) : HRes :=
  let h := c.h
  let t := c.s.tick
  c.binaryOn op d (h.src t a) (h.scalarArg t a b) m [h.useFault t useArith a]

/-- A bitwise form with a scalar: its low bits that va's tag names. -/
def Ctx.bitwiseX (c : Ctx) (d a : VReg) (b : XReg) (m : Bool) (f : Nat → Nat → Nat) : HRes :=
  let h := c.h
  let v := h.getU b % 2 ^ h.kw (h.kind c.s.tick a)
  c.bitwiseOn d a (fun _ => v) m [needLayout (!h.scaled (h.kind c.s.tick a))] f

/-- A shift by a scalar, unsigned. -/
def Ctx.shiftX (c : Ctx) (op : ShiftOp) (d a : VReg) (b : XReg) (m : Bool) : HRes :=
  let h := c.h
  let v : Int := (h.getU b % 2 ^ h.kw (h.kind c.s.tick a) : Nat)
  c.shiftOn op d a (fun _ => v) m []

/-- VADD.X (R163). -/
def execVaddX (d a : VReg) (b : XReg) (m ca : Bool) (s : State) : Result :=
  runHart (.vaddX d a b m ca) s (fun c => c.binaryX .add d a b m)

/-- VSUB.X (R163). -/
def execVsubX (d a : VReg) (b : XReg) (m ca : Bool) (s : State) : Result :=
  runHart (.vsubX d a b m ca) s (fun c => c.binaryX .sub d a b m)

/-- VMUL.X (R163). -/
def execVmulX (d a : VReg) (b : XReg) (m ca : Bool) (s : State) : Result :=
  runHart (.vmulX d a b m ca) s (fun c => c.binaryX .mul d a b m)

/-- VMIN.X (R163). -/
def execVminX (d a : VReg) (b : XReg) (m ca : Bool) (s : State) : Result :=
  runHart (.vminX d a b m ca) s (fun c => c.binaryX .min d a b m)

/-- VMAX.X (R163). -/
def execVmaxX (d a : VReg) (b : XReg) (m ca : Bool) (s : State) : Result :=
  runHart (.vmaxX d a b m ca) s (fun c => c.binaryX .max d a b m)

/-- VAND.X (R163). -/
def execVandX (d a : VReg) (b : XReg) (m ca : Bool) (s : State) : Result :=
  runHart (.vandX d a b m ca) s (fun c => c.bitwiseX d a b m (· &&& ·))

/-- VOR.X (R163). -/
def execVorX (d a : VReg) (b : XReg) (m ca : Bool) (s : State) : Result :=
  runHart (.vorX d a b m ca) s (fun c => c.bitwiseX d a b m (· ||| ·))

/-- VXOR.X (R163). -/
def execVxorX (d a : VReg) (b : XReg) (m ca : Bool) (s : State) : Result :=
  runHart (.vxorX d a b m ca) s (fun c => c.bitwiseX d a b m (· ^^^ ·))

/-- VSLL.X (R163). -/
def execVsllX (d a : VReg) (b : XReg) (m ca : Bool) (s : State) : Result :=
  runHart (.vsllX d a b m ca) s (fun c => c.shiftX .left d a b m)

/-- VSRL.X (R163). -/
def execVsrlX (d a : VReg) (b : XReg) (m ca : Bool) (s : State) : Result :=
  runHart (.vsrlX d a b m ca) s (fun c => c.shiftX .right d a b m)

/-- VSRA.X (R163). -/
def execVsraX (d a : VReg) (b : XReg) (m ca : Bool) (s : State) : Result :=
  runHart (.vsraX d a b m ca) s (fun c => c.shiftX .arith d a b m)

/-- VFMA.X: va × b + vd (R163). -/
def execVfmaX (d a : VReg) (b : XReg) (m ca : Bool) (s : State) : Result :=
  runHart (.vfmaX d a b m ca) s (fun c =>
    let h := c.h
    let t := c.s.tick
    c.fusedOn .fma d (h.src t a) (h.scalarArg t a b) m [h.useFault t useArith a])

/-- VBCST: bits of xb, no conversion (R164). -/
def execVbcst (d : VReg) (b : XReg) (m : Bool) (s : State) : Result :=
  runHart (.vbcst d b m) s (fun c =>
    let t := c.s.tick
    c.guarded false [c.h.useFault t useBits d]
      (c.compute (c.act m) id (fun _ => (c.h.getU b, noFlags)) (c.h.putResult t d)))

/-- VIDX: the element's own index (R164). -/
def execVidx (d : VReg) (m : Bool) (s : State) : Result :=
  runHart (.vidx d m) s (fun c =>
    c.arith d m [] (fun e => (c.h.kind c.s.tick d).fromInt (c.h.vecRounding e) e))

end Sys2Proof.Machine
end

