-- ==== Sys2Proof/Machine/VMem.lean ====
section
/-!
DEFINITION. Vector loads and stores (majors 0x1C and 0x1D, R173 to R178) and lane tables (major 0x1E, R179,
R180).
-/
namespace Sys2Proof.Machine

/-! ### Element images (R173) -/

/-- z: the bytes of an element's image. -/
def imageSize (w : Nat) : Nat := (w + 7) / 8

/-- A vector access does not reach scalar data memory (R174). -/
def notSdata (va : Nat) (k : AccKind) (r : Got (Loc × Ctx)) : Got (Loc × Ctx) := do
  let (loc, c) ← r
  match loc with
  | .sdata _ => .error (.fault (plainFault causePerm k.detail va) c)
  | _ => .ok (loc, c)

/-- A vector element's load of n bytes. -/
def Ctx.vload (c : Ctx) (va n : Nat) : Got (Nat × Ctx) := do
  let (_, c) ← c.interlock va n false
  let (loc, c) ← notSdata va .load (c.checked va n .load none)
  .ok (c.readLoc loc n, c)

/-- A vector element's store of n bytes. `keep` says which bytes an earlier element of the same store
keeps (R175). -/
def Ctx.vstore (c : Ctx) (va n v : Nat) (whole : Option (Nat × Nat)) (keep : Nat → Bool) :
    Got (Unit × Ctx) := do
  let (_, c) ← c.interlock va n true
  let val := fun (c : Ctx) (loc : Loc) =>
    let old := leBytes n (c.readLoc loc n)
    let new := leBytes n v
    leValue ((List.range n).map (fun i => if keep i then (old[i]?).getD 0 else (new[i]?).getD 0))
  let put := fun (loc : Loc) (c : Ctx) => c.putLoc loc va n (val c loc) whole
  let (loc, c) ← notSdata va .store ((c.checkedStore va n .store whole val).mapError (c.unacked va .store put))
  .ok ((), put loc c)

/-- An access at element e: its faults are traps at e. -/
def elemMem {α : Type} (e : Nat) (r : Got (α × Ctx)) (f : α → Ctx → Elem) : Elem :=
  match r with
  | .ok (a, c) => f a c
  | .error (.wait sent _) => .hold sent
  | .error (.fault m c) => .trap c (m.trap e (some e))

/-! ### Addresses (R174) -/

/-- The mode of an access: consecutive, at a stride, or at the values of an index register. -/
inductive VMode where
  | unit
  | strided (xs : XReg)
  | indexed (vi : VReg)
  deriving DecidableEq, Repr

/-- a(e). -/
def VMode.addr (m : VMode) (h : Hart) (tick : Nat) (base : Word) (z e : Nat) : Nat :=
  match m with
  | .unit => (base.toNat + z * e) % 2 ^ 64
  | .strided xs => ofInt 64 ((base.toNat : Int) + (h.getX xs).toInt * (e : Nat))
  | .indexed vi =>
    let k := h.kind tick vi
    ofInt 64 ((base.toNat : Int) + k.intVal (h.elem tick k vi e))

/-- The refusals of a mode: an index register carries an I or N tag; a blocked register moves only by the
unit mode (R174, R177). -/
def VMode.faults (m : VMode) (h : Hart) (tick : Nat) (r : VReg) : List (Option Nat) :=
  match m with
  | .unit => []
  | .strided _ => [needLayout (!h.blocked (h.kind tick r))]
  | .indexed vi =>
    [needLayout (!h.blocked (h.kind tick r)), h.useFault tick useArith vi, needTag (h.kind tick vi).isIN]

/-- Two elements of a store in this mode may write one byte: elements that lie apart do not, in memory of one page;
beyond it addresses may wrap, and two pages may have one frame. DESIGN CHOICE (log entry 10). -/
def VMode.mayCollide (m : VMode) (h : Hart) (base : Word) (z : Nat) : Bool :=
  let step : Int := match m with
    | .unit => z
    | .strided xs => (h.getX xs).toInt
    | .indexed _ => 0
  let last : Int := (base.toNat : Int) + step * ((h.vl - 1 : Nat) : Int)
  let low := min (base.toNat : Int) last
  let high := max (base.toNat : Int) last + (z : Int) - 1
  decide (step.natAbs < z) || decide (low < 0) || decide ((2 ^ 64 : Int) ≤ high) || low / 65536 != high / 65536

/-! ### Blocked registers (R177) -/

/-- The n words of a block's image. -/
def Ctx.loadImage (c : Ctx) (at_ : Nat) : Nat → Got (List Nat × Ctx)
  | 0 => .ok ([], c)
  | n + 1 => do
    let (ws, c) ← c.loadImage at_ n
    let (w, c) ← c.vload ((at_ + 4 * n) % 2 ^ 64) 4
    .ok (ws ++ [w], c)

/-- Put an image into the elements of block b that `act` picks; planes above it become zero (R58). -/
def Hart.putImage (h : Hart) (tick : Nat) (d : VReg) (b : Nat) (act : Nat → Bool) (image : List Nat) : Hart :=
  let es := (fromTo (32 * b) (32 * b + 32)).filter act
  forEach (List.range 16) h (fun (h : Hart) j =>
    forEach es h (fun (h : Hart) e =>
      h.writeSpot tick d (blockBit h.laneCount e j) 1 (bool01 (bitAt ((image[j]?).getD 0) (e % 32)))))

/-- Plane j of block b, as a 32-bit word. -/
def Hart.planeWord (h : Hart) (tick : Nat) (r : VReg) (b j : Nat) : Nat :=
  h.readSpot tick r (blockBit h.laneCount (32 * b) j) 32

/-- Store planes 0 to n − 1 of a block. -/
def Ctx.storePlanes (c : Ctx) (h0 : Hart) (tick : Nat) (r : VReg) (b at_ : Nat) (whole : Nat × Nat) :
    Nat → Got (Unit × Ctx)
  | 0 => .ok ((), c)
  | n + 1 => do
    let (_, c) ← c.storePlanes h0 tick r b at_ whole n
    c.vstore ((at_ + 4 * n) % 2 ^ 64) 4 (h0.planeWord tick r b n) (some whole) (fun _ => false)

/-- Check every plane word of a block before any is written. -/
def Ctx.checkPlanes (c : Ctx) (at_ : Nat) (whole : Nat × Nat) : Nat → Got (Unit × Ctx)
  | 0 => .ok ((), c)
  | n + 1 => do
    let (_, c) ← c.checkPlanes at_ whole n
    let a := (at_ + 4 * n) % 2 ^ 64
    let (_, c) ← notSdata a .store (c.checked a 4 .store (some whole))
    .ok ((), c)

/-- Store the image of a block: a fault leaves the block as it was (R177). -/
def Ctx.storeImage (c : Ctx) (h0 : Hart) (tick : Nat) (r : VReg) (b at_ : Nat) (whole : Nat × Nat) (w : Nat) :
    Got (Unit × Ctx) := do
  let (_, c) ← c.checkPlanes at_ whole w
  (c.storePlanes h0 tick r b at_ whole w).mapError (fun stop =>
    match stop with
    | .fault f _ => .fault f c
    | stop => stop)

/-- A load or store of a blocked register, block by block; element 32b stands for block b. -/
def Ctx.blockwise (c : Ctx) (base : Nat) (act : Nat → Bool) (f : Nat → Ctx → Got (Unit × Ctx)) : HRes :=
  let h := c.h
  let lim := match h.stopAt with
    | none => h.vl
    | some n => min h.vl (upTo 32 n)
  let any := fun (e : Nat) => (fromTo (max e h.vstart) (e + 32)).any act
  if h.vl == 0 then c.put { h with vstart := 0 }
  else if base % 4 != 0 then
    .trap c ((plainFault causeMisalign 0 base).trap 0 (some 0))
  else if lim < h.vl && lim ≤ h.vstart then .hold c
  else
    let starts := (fromTo (h.vstart / 32) (lim / 32)).map (32 * ·)
    match runElems any (fun e c => elemMem e (f (e / 32) c) (fun _ c => .ok c)) starts c with
    | .ok c' => if lim < h.vl then .stop c' lim else c'.put { c'.h with vstart := 0 }
    | .trap c' t => .trap c' t
    | .hold sent => c.holds sent

/-! ### Loads and stores (R176) -/

/-- A vector load. -/
def Ctx.vectorLoad (c : Ctx) (d : VReg) (base : XReg) (mode : VMode) (m : Bool) : HRes :=
  let h := c.h
  let t := c.s.tick
  let k := h.kind t d
  let w := h.kw k
  let z := imageSize w
  let b := h.getX base
  let act := c.act m
  c.guarded false (h.useFault t useBits d :: mode.faults h t d)
    (if h.blocked k then
      let on := fun e => decide (h.vstart ≤ e) && act e
      c.blockwise b.toNat act (fun blk c => do
        let (image, c) ← c.loadImage (b.toNat + 4 * w * blk) w
        .ok ((), { c with h := c.h.putImage t d blk on image }))
    else
      c.elementwise act id (fun e c =>
        elemMem e (c.vload (mode.addr h t b z e) z) (fun v c =>
          .ok { c with h := c.h.setElem t k d e v })))

/-- Where the byte at an address lies, when it can be stored to. -/
def Ctx.bytePlace (c : Ctx) (a : Nat) : Option Loc :=
  match c.resolve (a % 2 ^ 64) .store with
  | .ok ((loc, _), _) => some loc
  | .error _ => none

/-- An address divides a sector whose data is lost. -/
def Ctx.dividesLost (c : Ctx) (a : Nat) : Bool :=
  a % 32 != 0 && match c.bytePlace a with
    | some loc => loc.pa?.any (fun pa => c.s.lostAt loc pa)
    | none => false

/-- Before a store of consecutive elements into memory: a stop that would fall where it divides a sector whose data is
lost falls at an earlier boundary, so that the sector is still written whole (R281, R403). DEDUCED (log entry 45). -/
def Ctx.stoppedWhole (c : Ctx) (lim : Nat) (isBoundary : Nat → Bool) (addr : Nat → Nat) : Ctx :=
  if c.h.stopAt.isSome && decide (lim < c.h.vl) && c.dividesLost (addr lim) then
    let ok := fun (g : Nat) => isBoundary g && (decide (g ≤ c.h.vstart) || !c.dividesLost (addr g))
    { c with h := { c.h with stopAt := some (((List.range lim).reverse.find? ok).getD 0) } }
  else c

/-- The byte at address `a` was written by an element of the store below e (R175). -/
def writtenBelow (place : Nat → Option Loc) (addr : Nat → Nat) (z : Nat) (act : Nat → Bool) (start e a : Nat) : Bool :=
  (fromTo start e).any (fun j => act j && (List.range z).any (fun i =>
    (addr j + i) % 2 ^ 64 == a % 2 ^ 64 || ((place a).isSome && place (addr j + i) == place a)))

/-- A vector store; an ordered one leaves the byte of the highest-numbered element. One without a mask writes whole
the sectors that lie between its element at VSTART and its end (R319, R403). DESIGN CHOICE (log entry 10). -/
def Ctx.vectorStore (c : Ctx) (r : VReg) (base : XReg) (mode : VMode) (ordered m : Bool) : HRes :=
  let h := c.h
  let t := c.s.tick
  let k := h.kind t r
  let w := h.kw k
  let z := imageSize w
  let b := h.getX base
  let act := c.act m
  c.guarded false (h.useFault t useBits r :: mode.faults h t r)
    (if h.blocked k then
      let whole := (b.toNat + 4 * w * (h.vstart / 32), b.toNat + w * h.vl / 8)
      let place := fun e => b.toNat + 4 * w * (e / 32)
      let c' := if m then c else c.stoppedWhole (upTo 32 (h.stopAt.getD 0)) (fun g => g % 32 == 0) place
      c'.blockwise b.toNat act (fun blk c =>
        let at_ := b.toNat + 4 * w * blk
        c.storeImage h t r blk at_ (if m then (at_, at_ + 4 * w) else whole) w)
    else
      let addr := fun e => mode.addr h t b z e
      let whole := if mode == .unit && !m then
        some (b.toNat + z * h.vstart, b.toNat + z * h.vl)
        else none
      let loose := !ordered && mode.mayCollide h b z
      let c' := if whole.isSome then c.stoppedWhole (h.groupCeil (h.stopAt.getD 0)) (fun g => h.groupCeil g == g) addr
        else c
      c'.elementwise act id (fun e c =>
        let keep := fun (i : Nat) => loose && writtenBelow c.bytePlace addr z act h.vstart e (addr e + i) &&
          !Config.storeWins t e (addr e + i)
        elemMem e (c.vstore (addr e) z (h.elem t k r e) whole keep) (fun _ c => .ok c)))

/-- VLD (R176). -/
def execVld (d : VReg) (base : XReg) (m : Bool) (s : State) : Result :=
  runHart (.vld d base m) s (fun c => c.vectorLoad d base .unit m)

/-- VLDS (R176). -/
def execVlds (d : VReg) (base stride : XReg) (m : Bool) (s : State) : Result :=
  runHart (.vlds d base stride m) s (fun c => c.vectorLoad d base (.strided stride) m)

/-- VLDX (R176). -/
def execVldx (d : VReg) (base : XReg) (idx : VReg) (m ca : Bool) (s : State) : Result :=
  runHart (.vldx d base idx m ca) s (fun c => c.vectorLoad d base (.indexed idx) m)

/-- VST (R176). -/
def execVst (r : VReg) (base : XReg) (m ca : Bool) (s : State) : Result :=
  runHart (.vst r base m ca) s (fun c => c.vectorStore r base .unit false m)

/-- VSTS (R176). -/
def execVsts (r : VReg) (base stride : XReg) (m ca : Bool) (s : State) : Result :=
  runHart (.vsts r base stride m ca) s (fun c => c.vectorStore r base (.strided stride) false m)

/-- VSTX (R176). -/
def execVstx (r : VReg) (base : XReg) (idx : VReg) (m ca : Bool) (s : State) : Result :=
  runHart (.vstx r base idx m ca) s (fun c => c.vectorStore r base (.indexed idx) false m)

/-- VLD.O (R176). -/
def execVldO (d : VReg) (base : XReg) (m : Bool) (s : State) : Result :=
  runHart (.vldO d base m) s (fun c => c.vectorLoad d base .unit m)

/-- VLDS.O (R176). -/
def execVldsO (d : VReg) (base stride : XReg) (m : Bool) (s : State) : Result :=
  runHart (.vldsO d base stride m) s (fun c => c.vectorLoad d base (.strided stride) m)

/-- VLDX.O (R176). -/
def execVldxO (d : VReg) (base : XReg) (idx : VReg) (m ca : Bool) (s : State) : Result :=
  runHart (.vldxO d base idx m ca) s (fun c => c.vectorLoad d base (.indexed idx) m)

/-- VST.O (R176). -/
def execVstO (r : VReg) (base : XReg) (m ca : Bool) (s : State) : Result :=
  runHart (.vstO r base m ca) s (fun c => c.vectorStore r base .unit true m)

/-- VSTS.O (R176). -/
def execVstsO (r : VReg) (base stride : XReg) (m ca : Bool) (s : State) : Result :=
  runHart (.vstsO r base stride m ca) s (fun c => c.vectorStore r base (.strided stride) true m)

/-- VSTX.O (R176). -/
def execVstxO (r : VReg) (base : XReg) (idx : VReg) (m ca : Bool) (s : State) : Result :=
  runHart (.vstxO r base idx m ca) s (fun c => c.vectorStore r base (.indexed idx) true m)

/-! ### Lane tables (R179, R180) -/

/-- One byte of the hart's lane tables; an undefined one is a free value (R7). DESIGN CHOICE (log entry 7). -/
def Hart.laneByte (h : Hart) (tick lane o : Nat) : Byte :=
  (h.lanes.get (4096 * lane + o)).getD (Config.undefByte tick (2 ^ 64 + 4096 * lane + o))

/-- z bytes of a lane's slice. -/
def Hart.laneRead (h : Hart) (tick lane o z : Nat) : Nat :=
  leValue ((List.range z).map (fun i => h.laneByte tick lane (o + i)))

/-- Write z bytes of a lane's slice. -/
def Hart.laneWrite (h : Hart) (lane o z v : Nat) : Hart :=
  { h with lanes := forEach (withIndex 0 (leBytes z v)) h.lanes (fun t (i, b) =>
      t.set (4096 * lane + o + i) b) }

/-- The lane that holds element e (R23). -/
def Hart.laneOf (h : Hart) (e : Nat) : Nat := laneAt h.ew (rowCol h.vcols e).2

/-- The trap of an offset outside the slice, or misaligned; none when it may be accessed. -/
def laneTrap (o : Int) (z elem : Nat) (idx : Option Nat) : Option Trap :=
  let addr := BitVec.ofInt 64 o
  if o < 0 || 4096 < o + (z : Nat) then some ⟨causeLtbound, 0, addr, elem, idx, noInfo, false, false⟩
  else if o % (z : Nat) != 0 then some ⟨causeMisalign, 0, addr, elem, idx, noInfo, false, false⟩
  else none

/-- The lane-table access of each element: `f` is given the lane and the offset. -/
def Ctx.laneAccess (c : Ctx) (r a : VReg) (b : XReg) (m : Bool) (f : Hart → Nat → Nat → Nat → Hart) : HRes :=
  let h := c.h
  let t := c.s.tick
  let z := imageSize (h.kw (h.kind t r))
  let src := h.src t a
  c.guarded false
    [h.useFault t useBits r, needLayout (!h.blocked (h.kind t r)), h.useFault t useArith a,
     needTag src.kind.isIN]
    (c.elementwise (c.act m) id (fun e c =>
      let o := src.int e + (h.getX b).toInt
      match laneTrap o z e (some e) with
      | some tr => .trap c tr
      | none => .ok { c with h := f c.h (h.laneOf e) o.toNat e }))

/-- VLDT (R179). -/
def execVldt (d a : VReg) (b : XReg) (m ca : Bool) (s : State) : Result :=
  runHart (.vldt d a b m ca) s (fun c =>
    let t := c.s.tick
    let k := c.h.kind t d
    let z := imageSize (c.h.kw k)
    c.laneAccess d a b m (fun h lane o e => h.setElem t k d e (h.laneRead t lane o z)))

/-- VSTT (R179). -/
def execVstt (r a : VReg) (b : XReg) (m ca : Bool) (s : State) : Result :=
  runHart (.vstt r a b m ca) s (fun c =>
    let t := c.s.tick
    let k := c.h.kind t r
    let z := imageSize (c.h.kw k)
    let h0 := c.h
    c.laneAccess r a b m (fun h lane o e => h.laneWrite lane o z (h0.elem t k r e)))

end Sys2Proof.Machine
end

