-- ==== Sys2Proof/Machine/LaneThread.lean ====
section
/-!
DEFINITION. Lane threads (major 0x2A, R228 to R235): LSPLIT and VFETCH of the hart, one instruction of a
virtual processor, the block that an LFETCH waits for, and the join.
-/
namespace Sys2Proof.Machine

/-! ### Entering (R228, R230) -/

/-- LSPLIT (R228): detail 4 while LT = 1; it needs EW = 64 and BLK = 0. DEDUCED (log entry 18). -/
def execLsplit (s : State) : Result :=
  runHart .lsplit s (fun c =>
    if c.h.lt then .trap c (.illegal 4)
    else if c.h.ew != 64 || c.h.blk != 0 then .trap c (.illcfg 3)
    else c.put { c.h with lt := true, split := true })

/-- Fetch n words from an address, in order. -/
def Ctx.fetchWords (c : Ctx) (a : Word) : Nat → Got (List (BitVec 32) × Ctx)
  | 0 => .ok ([], c)
  | n + 1 => do
    let (w, c) ← c.fetch a
    let (ws, c) ← c.fetchWords (a + 4) n
    .ok (BitVec.ofNat 32 w :: ws, c)

/-- Fetch a block of n words, after the hart's earlier transfers into it (R260, R261). -/
def Ctx.fetchBlock (c : Ctx) (k : Nat) (a : Word) (n : Nat) : Got (List (BitVec 32) × Ctx) := do
  let (_, c) ← c.settleTags k (Transfer.conflicts a.toNat (4 * n) false)
  c.fetchWords a n

/-- VFETCH of the hart (R230): it starts every virtual processor at word 0 of the block. -/
def execVfetch (a b : XReg) (s : State) : Result :=
  runHart (.vfetch a b) s (fun c =>
    let at_ := c.h.getX a
    let n := c.h.getU b
    if !c.h.split then .trap c (.illegal 4)
    else if n < 1 || 32 < n then .trap c (.illegal 5)
    else if c.h.vl == 0 then c.put { c.h with lt := false, split := false }
    else if at_.toNat % 4 != 0 then .trap c { Trap.plain causeMisalign 0 with addr := at_ }
    else onMem c (c.fetchBlock s.cur at_ n) (fun ws c =>
      .hold { c with h := { c.h with
        split := false
        sentAt := none
        sentPage := none
        run := some (List.replicate c.h.vl ⟨at_, ws, 0, .ready, [], none, none, false⟩) } }))

/-! ### Registers of a virtual processor (R229) -/

/-- The vector register whose element is Xn of a virtual processor. -/
def vpReg (r : XReg) : VReg := ⟨(16 + r.val) % 48, Nat.mod_lt _ (by decide)⟩

/-- Xn of virtual processor p: the whole slot. -/
def Hart.vpX (h : Hart) (tick p : Nat) (r : XReg) : Word :=
  if r = 0 then 0 else BitVec.ofNat 64 (h.readSpot tick (vpReg r) (h.ordSpot p) 64)

/-- The hart as virtual processor p sees it. -/
def Hart.asVp (h : Hart) (tick p : Nat) (v : Vp) : Hart :=
  { h with
    sentAt := v.sentAt
    sentPage := v.sentPage
    timedOut := v.timedOut
    x := Vector.ofFn (fun (r : Fin 32) => h.vpX tick p r)
    pc := v.block + BitVec.ofNat 64 (4 * v.idx)
    pfx := none
    replay := none
    stopAt := none }

/-- The hart after virtual processor p has acted as `h'`: what it shares with the hart, and the register it
wrote. -/
def Hart.fromVp (h : Hart) (tick p : Nat) (h' : Hart) (dest : Option XReg) : Hart :=
  let h1 : Hart := { h with
    fpcsr := h'.fpcsr
    lanes := h'.lanes
    run := h'.run
    scratch := h'.scratch
    tags := h'.tags
    noAck := h'.noAck }
  match dest with
  | some r => if r = 0 then h1 else h1.writeSpot tick (vpReg r) (h.ordSpot p) 64 (h'.getU r)
  | none => h1

/-- Change virtual processor p. -/
def Hart.mapVp (h : Hart) (p : Nat) (f : Vp → Vp) : Hart := { h with run := h.run.map (fun vs => vs.modify p f) }

/-- Virtual processor p waits, stops or goes on as a state says. -/
def Hart.vpState (h : Hart) (p : Nat) (st : VpState) : Hart :=
  h.mapVp p (fun v => { v with state := st, sentAt := none, sentPage := none, timedOut := false })

/-- Virtual processor p waits for its access, which the hart `h'` has sent for it. -/
def Hart.vpSent (h : Hart) (p : Nat) (h' : Hart) : Hart :=
  h.mapVp p (fun v => { v with sentAt := h'.sentAt, sentPage := h'.sentPage })

/-- Virtual processor p goes on at a word of its block. -/
def Hart.vpAt (h : Hart) (p idx : Nat) : Hart :=
  h.mapVp p (fun v => { v with idx := idx, sentAt := none, sentPage := none, timedOut := false })

/-! ### The instructions of a virtual processor (R231) -/

/-- An effect, and the register it writes. -/
structure VpEffect where
  dest : Option XReg
  run : Ctx → HRes

/-- A load or store of a virtual processor: an address in the local window raises PERM. -/
def vpAccess (a : XReg) (off : BitVec 13) (n : Nat) (store : Bool) (f : Ctx → HRes) (c : Ctx) : HRes :=
  let va := c.h.address a off
  if va % n == 0 && va < genericBase then
    .trap c ((plainFault causePerm (bool01 store) va).trap 0 none)
  else f c

/-- VLDT of a virtual processor: 8 bytes of its lane's slice. -/
def vpVldt (lane : Nat) (d a b : XReg) (c : Ctx) : HRes :=
  let o := (c.h.getX a).toInt + (c.h.getX b).toInt
  match laneTrap o 8 0 none with
  | some t => .trap c t
  | none => c.putX d (BitVec.ofNat 64 (c.h.laneRead c.s.tick lane o.toNat 8))

/-- Another virtual processor of the run than p has written a lane-table byte. -/
def Hart.wroteElsewhere (h : Hart) (p key : Nat) : Bool :=
  (withIndex 0 (h.run.getD [])).any (fun (q, v) => q != p && v.wrote.contains key)

/-- VSTT of virtual processor p: a byte that another has written in this run becomes undefined (R234).
DEDUCED (log entry 36). -/
def vpVstt (lane p : Nat) (x a b : XReg) (c : Ctx) : HRes :=
  let o := (c.h.getX a).toInt + (c.h.getX b).toInt
  match laneTrap o 8 0 none with
  | some t => .trap c t
  | none =>
    let keys := (List.range 8).map (fun i => 4096 * lane + o.toNat + i)
    let h := c.h.laneWrite lane o.toNat 8 (c.h.getU x)
    let lost := keys.filter (c.h.wroteElsewhere p)
    let h : Hart := { h with lanes := forEach lost h.lanes (fun (t : Table Byte) key => t.put key none) }
    c.put (h.mapVp p (fun v => { v with wrote := keys ++ v.wrote }))

/-- The scalar, floating, memory and branch words of R231, which act as in the hart. -/
def vpScalar : Instr → Option VpEffect
  | .add d a b => some ⟨some d, effAdd d a b⟩
  | .sub d a b => some ⟨some d, effSub d a b⟩
  | .and d a b => some ⟨some d, effAnd d a b⟩
  | .or d a b => some ⟨some d, effOr d a b⟩
  | .xor d a b => some ⟨some d, effXor d a b⟩
  | .sll d a b => some ⟨some d, effSll d a b⟩
  | .srl d a b => some ⟨some d, effSrl d a b⟩
  | .sra d a b => some ⟨some d, effSra d a b⟩
  | .slt d a b => some ⟨some d, effSlt d a b⟩
  | .sltu d a b => some ⟨some d, effSltu d a b⟩
  | .min d a b => some ⟨some d, effMin d a b⟩
  | .max d a b => some ⟨some d, effMax d a b⟩
  | .minu d a b => some ⟨some d, effMinu d a b⟩
  | .maxu d a b => some ⟨some d, effMaxu d a b⟩
  | .mul d a b => some ⟨some d, effMul d a b⟩
  | .mulh d a b => some ⟨some d, effMulh d a b⟩
  | .mulhu d a b => some ⟨some d, effMulhu d a b⟩
  | .div d a b => some ⟨some d, effDiv d a b⟩
  | .divu d a b => some ⟨some d, effDivu d a b⟩
  | .rem d a b => some ⟨some d, effRem d a b⟩
  | .remu d a b => some ⟨some d, effRemu d a b⟩
  | .clz d a => some ⟨some d, effClz d a⟩
  | .ctz d a => some ⟨some d, effCtz d a⟩
  | .cnt d a => some ⟨some d, effCnt d a⟩
  | .sel d a b c' => some ⟨some d, effSel d a b c'⟩
  | .addi d a imm => some ⟨some d, effAddi d a imm⟩
  | .andi d a imm => some ⟨some d, effAndi d a imm⟩
  | .ori d a imm => some ⟨some d, effOri d a imm⟩
  | .xori d a imm => some ⟨some d, effXori d a imm⟩
  | .slti d a imm => some ⟨some d, effSlti d a imm⟩
  | .sltiu d a imm => some ⟨some d, effSltiu d a imm⟩
  | .slli d a shamt => some ⟨some d, effSlli d a shamt⟩
  | .srli d a shamt => some ⟨some d, effSrli d a shamt⟩
  | .srai d a shamt => some ⟨some d, effSrai d a shamt⟩
  | .lui d imm => some ⟨some d, effLui d imm⟩
  | .addpc d imm => some ⟨some d, effAddpc d imm⟩
  | .fadd d a b single => some ⟨some d, effFadd d a b single⟩
  | .fsub d a b single => some ⟨some d, effFsub d a b single⟩
  | .fmul d a b single => some ⟨some d, effFmul d a b single⟩
  | .fdiv d a b single => some ⟨some d, effFdiv d a b single⟩
  | .fmin d a b single => some ⟨some d, effFmin d a b single⟩
  | .fmax d a b single => some ⟨some d, effFmax d a b single⟩
  | .fsqrt d a single => some ⟨some d, effFsqrt d a single⟩
  | .fma d a b c' single => some ⟨some d, effFma d a b c' single⟩
  | .fnma d a b c' single => some ⟨some d, effFnma d a b c' single⟩
  | .feq d a b single => some ⟨some d, effFeq d a b single⟩
  | .flt d a b single => some ⟨some d, effFlt d a b single⟩
  | .fle d a b single => some ⟨some d, effFle d a b single⟩
  | .fcvtDL d a single => some ⟨some d, effFcvtDL d a single⟩
  | .fcvtLD d a single => some ⟨some d, effFcvtLD d a single⟩
  | .fcvtDS d a => some ⟨some d, effFcvtDS d a⟩
  | .fcvtSD d a => some ⟨some d, effFcvtSD d a⟩
  | .fabs d a single => some ⟨some d, effFabs d a single⟩
  | .fneg d a single => some ⟨some d, effFneg d a single⟩
  | .fkind d a single => some ⟨some d, effFkind d a single⟩
  | .lb d a off => some ⟨some d, vpAccess a off 1 false (effLb d a off)⟩
  | .lbu d a off => some ⟨some d, vpAccess a off 1 false (effLbu d a off)⟩
  | .lh d a off => some ⟨some d, vpAccess a off 2 false (effLh d a off)⟩
  | .lhu d a off => some ⟨some d, vpAccess a off 2 false (effLhu d a off)⟩
  | .lw d a off => some ⟨some d, vpAccess a off 4 false (effLw d a off)⟩
  | .lwu d a off => some ⟨some d, vpAccess a off 4 false (effLwu d a off)⟩
  | .ld d a off => some ⟨some d, vpAccess a off 8 false (effLd d a off)⟩
  | .stb x a off => some ⟨none, vpAccess a off 1 true (effStb x a off)⟩
  | .sth x a off => some ⟨none, vpAccess a off 2 true (effSth x a off)⟩
  | .stw x a off => some ⟨none, vpAccess a off 4 true (effStw x a off)⟩
  | .std x a off => some ⟨none, vpAccess a off 8 true (effStd x a off)⟩
  | .beq a b off => some ⟨none, effBeq a b off⟩
  | .bne a b off => some ⟨none, effBne a b off⟩
  | .blt a b off => some ⟨none, effBlt a b off⟩
  | .bge a b off => some ⟨none, effBge a b off⟩
  | .bltu a b off => some ⟨none, effBltu a b off⟩
  | .bgeu a b off => some ⟨none, effBgeu a b off⟩
  | _ => none

/-- An X register of a virtual processor in a field that names a vector register of the hart. -/
def vpField (r : VReg) : Option XReg := if h : r.val < 32 then some ⟨r.val, h⟩ else none

/-- VLDT or VSTT of a virtual processor: detail 1 for a field above 31, 2 for m or ca. -/
def vpTable (r a : VReg) (m ca : Bool) (f : XReg → XReg → VpEffect) : VpEffect ⊕ Nat :=
  match vpField r, vpField a with
  | some r, some a => if m || ca then .inr 2 else .inl (f r a)
  | _, _ => .inr 1

/-- What a word of virtual processor p is: an effect, or ILLEGAL with a detail. -/
def vpEffect (lane p : Nat) (i : Instr) : VpEffect ⊕ Nat :=
  match i with
  | .vldt d a b m ca => vpTable d a m ca (fun d a => ⟨some d, vpVldt lane d a b⟩)
  | .vstt x a b m ca => vpTable x a m ca (fun x a => ⟨none, vpVstt lane p x a b⟩)
  | .lvpid d => .inl ⟨some d, fun c => c.putX d (BitVec.ofNat 64 p)⟩
  | i =>
    match vpScalar i with
    | some e => .inl e
    | none => .inr 4

/-! ### One step of a virtual processor -/

/-- The detail with which a virtual processor refuses a word that the decoder refuses with detail d (R409): the
lowest that applies, in which a word outside the subset counts 4, and a register field of VLDT and VSTT above 31
counts 1. -/
def vpDetail (w d : Nat) : Nat :=
  if fld w 26 6 == 0x1E && (bitAt w 25 || bitAt w 19) then min d 1 else min d 4

/-- What a processor does while the hall has its fault: one that waits for a block goes on waiting for it, and holds
none (R232). -/
def VpState.faulted : VpState → VpState
  | .waitBlock a n => .faultBlock a n
  | _ => .waitFault

/-- What a processor does once the hall has answered. -/
def VpState.answered : VpState → VpState
  | .faultBlock a n => .waitBlock a n
  | _ => .ready

/-- A fault or trap of virtual processor p (R235): bound for the hall, it waits there or ends the hart;
any other cause stops this processor. DEDUCED (log entry 36). -/
def vpTrap (k p : Nat) (v : Vp) (c : Ctx) (t : Trap) : State :=
  if hallBound t.cause then
    if t.info.resolvable then
      (c.s.setHart k (c.h.vpState p v.state.faulted)).addFault k (.vp p) t.cause t.addr
        t.info
    else
      let f : Failure :=
        ⟨2, t.cause, c.h.hartid.toNat, (256 * t.detail + t.cause) % 4096, c.h.pc⟩
      (c.s.mapHall (fun a => { a with hstops := a.hstops + 1 })).failHart k c.h f
  else
    let pc := v.block + BitVec.ofNat 64 (4 * v.idx)
    let addr := if t.cause == causeIllegal then pc else t.addr
    c.s.setHart k (c.h.vpState p (.trapped t.cause t.detail addr))

/-- LFETCH of a virtual processor (R232): it gives up its block and waits for the new one. -/
def vpLfetch (k p : Nat) (v : Vp) (c : Ctx) (h' : Hart) (a b : XReg) : State :=
  let at_ := h'.getX a
  let n := h'.getU b
  if n < 1 || 32 < n then vpTrap k p v c (.illegal 5)
  else if at_.toNat % 4 != 0 then vpTrap k p v c { Trap.plain causeMisalign 0 with addr := at_ }
  else c.s.setHart k (c.h.vpState p (.waitBlock at_ n))

/-- What virtual processor p does with a decoded instruction. -/
def vpRun (k p : Nat) (v : Vp) (c : Ctx) (i : Instr) : State :=
  let t := c.s.tick
  let h' := c.h.asVp t p v
  match i with
  | .ljoin => c.s.setHart k (c.h.vpState p .joined)
  | .lfetch a b => vpLfetch k p v c h' a b
  | i =>
    match vpEffect (c.h.laneOf p) p i with
    | .inr d => vpTrap k p v c (.illegal d)
    | .inl e =>
      let back := fun (c' : Ctx) (dest : Option XReg) => c.h.fromVp t p c'.h dest
      match e.run ⟨h', c.s⟩ with
      | .done c' => c'.s.setHart k ((back c' e.dest).vpAt p (v.idx + 1))
      | .goto c' pc =>
        let d := (pc - v.block).toNat
        if d < 4 * v.words.length then
          c'.s.setHart k ((back c' e.dest).vpAt p (d / 4))
        else vpTrap k p v c (.illegal 4)
      | .trap c' tr => vpTrap k p v { c' with h := back c' none } tr
      | .hold c' => c'.s.setHart k (c.h.vpSent p c'.h)
      | _ => c.s.setHart k c.h

/-- An instruction of virtual processor p of the hart whose turn it is. -/
def runVp (p : Nat) (i : Instr) (s : State) : Result :=
  match s.harts[s.cur]? with
  | none => .fault .noHart
  | some h =>
    match h.run.bind (fun vs => vs[p]?) with
    | none => .fault .noHart
    | some v =>
      if h.status == .running && v.state == .ready then .next (vpRun s.cur p v ⟨h, s⟩ i) else .fault .noHart

/-- LFETCH, LJOIN and LVPID are instructions of virtual processors; in the hart they are ILLEGAL, detail 4
(R232, R233). -/
def runLane (i : Instr) (s : State) : Result :=
  match s.vp with
  | some p => runVp p i s
  | none => runHart i s (fun c => .trap c (.illegal 4))

/-- LFETCH (R232). -/
def execLfetch (a b : XReg) (s : State) : Result := runLane (.lfetch a b) s
/-- LJOIN (R233). -/
def execLjoin (s : State) : Result := runLane .ljoin s
/-- LVPID (R233). -/
def execLvpid (d : XReg) (s : State) : Result := runLane (.lvpid d) s

/-- The next instruction of virtual processor p of hart k (R231): the word after a block's last one is
ILLEGAL, detail 4, as is any word outside the subset. -/
def vpStep (k p : Nat) (s : State) : State :=
  match s.harts[k]? with
  | none => s
  | some h =>
    match h.run.bind (fun vs => vs[p]?) with
    | none => s
    | some v =>
      if h.status != .running || v.state != .ready then s
      else
        match v.words[v.idx]? with
        | none => vpTrap k p v ⟨h, s⟩ (.illegal 4)
        | some w =>
          match decodeWord w.toNat with
          | .illegal d _ => vpTrap k p v ⟨h, s⟩ (.illegal (vpDetail w.toNat d))
          | .instr i => vpRun k p v ⟨h, s⟩ i

/-! ### Blocks and the join (R230, R232, R235) -/

/-- Blocks that the lane of virtual processor p holds for others, once each (R232): a processor that waits for a
block holds none, and one that has trapped or joined gives its block up. DESIGN CHOICE (log entry 36). -/
def Hart.laneBlocks (h : Hart) (p : Nat) (vs : List Vp) : List (Word × List (BitVec 32)) :=
  forEach (withIndex 0 vs) [] (fun bs (q, v) =>
    let holds := match v.state with | .ready => true | .waitFault => true | _ => false
    if holds && q != p && h.laneOf q == h.laneOf p && !bs.contains (v.block, v.words)
    then bs ++ [(v.block, v.words)] else bs)

/-- Virtual processor p goes on at word 0 of a block. -/
def Ctx.startBlock (c : Ctx) (k p : Nat) (at_ : Word) (ws : List (BitVec 32)) : State :=
  c.s.setHart k ((c.h.vpState p .ready).mapVp p (fun v => { v with block := at_, words := ws, idx := 0 }))

/-- The block that virtual processor p waits for: shared with another of its lane, or fetched into a free
half; none while both halves hold other blocks. -/
def blockReady (k p : Nat) (at_ : Word) (n : Nat) (v : Vp) (vs : List Vp) (c : Ctx) : Option State :=
  let held := c.h.laneBlocks p vs
  match held.find? (fun b => b.1 == at_ && b.2.length == n) with
  | some b => some (c.startBlock k p at_ b.2)
  | none =>
    if 2 ≤ held.length then none
    else
      let mine : Ctx := { c with h := { c.h with sentAt := v.sentAt, sentPage := v.sentPage, timedOut := v.timedOut } }
      let back := fun (c' : Ctx) => { c' with h := { c'.h with
        sentAt := c.h.sentAt
        sentPage := c.h.sentPage
        timedOut := c.h.timedOut } }
      match mine.fetchBlock k at_ n with
      | .ok (ws, c') => some ((back c').startBlock k p at_ ws)
      | .error (.wait sent _) =>
        let c' := mine.sending sent
        some (c'.s.setHart k (c.h.vpSent p c'.h))
      | .error (.fault m c') => some (vpTrap k p v (back c') (m.trap 0 none))

/-- LANE_BLOCK_READY (R232). -/
def execLaneBlockReady (s : State) : Result :=
  match s.input with
  | .laneBlockReady k p =>
    match s.harts[k]? with
    | some h =>
      match h.run with
      | some vs =>
        match vs[p]? with
        | some v =>
          match v.state with
          | .waitBlock at_ n =>
            match (if h.status == .running then blockReady k p at_ n v vs ⟨h, s⟩ else none) with
            | some s => .next s
            | none => .next s
          | _ => .next s
        | none => .next s
      | none => .next s
    | none => .next s
  | _ => .next s

/-- A virtual processor has reached LJOIN or has trapped. -/
def Vp.over (v : Vp) : Bool :=
  match v.state with
  | .joined => true | .trapped _ _ _ => true | _ => false

/-- The trap of the lowest-numbered virtual processor that trapped (R235). -/
def runTrap : List (Nat × Vp) → Option Trap
  | [] => none
  | (p, v) :: rest =>
    match v.state with
    | .trapped cause detail addr => some ⟨cause, detail, addr, p, none, noInfo, false, false⟩
    | _ => runTrap rest

/-- The end of a run: the hart goes on after VFETCH, or takes one trap at it; a hard stop that waited for
the end leaves the hart at the VFETCH when a processor trapped (R292). DEDUCED (log entry 36). -/
def joinRun (k : Nat) (h : Hart) (vs : List Vp) (s : State) : State :=
  let h' : Hart := { h with lt := false, run := none }
  match runTrap (withIndex 0 vs) with
  | none => settle k (.done ⟨h', s⟩)
  | some t =>
    let c : Ctx := ⟨{ h' with vfetchAt := some h.pc }, s⟩
    if h.stopAt.isSome then c.stopNow k else deliverTrap k c t

/-- LANE_RUN_JOIN (R230, R235). -/
def execLaneRunJoin (s : State) : Result :=
  match s.input with
  | .laneRunJoin k =>
    match s.harts[k]? with
    | some h =>
      match h.run with
      | some vs => whenEnabled s (h.status == .running && vs.all Vp.over) (joinRun k h vs s)
      | none => .next s
    | none => .next s
  | _ => .next s

end Sys2Proof.Machine
end

