-- ==== Sys2Proof/Machine/Paging.lean ====
section
/-!
DEFINITION. The hall's paging (R373, R378, R379, R381 to R383): mapping a device-managed page when its list
refills, fault records and the host's answers, and invalidation.
-/
namespace Sys2Proof.Machine

/-! ### Faults that wait -/

/-- Somebody waits for an answer to a fault: PREFAULT has returned already. -/
def HallFault.waiting (f : HallFault) : Bool := f.source != .prefault && !f.closed

/-- The hart of a fault. -/
def State.faultHart (s : State) (f : HallFault) : Option Hart := s.harts[f.hart]?

/-- The ASID in which a fault was met. -/
def State.faultAsid (s : State) (f : HallFault) : Nat :=
  match s.faultHart f with
  | some h => s.asidOf h
  | none => 0

/-- A fault has had its answer. -/
def State.dropFault (s : State) (fid : Nat) : State := s.mapHall (fun a => a.closeFaults (fun f => f.fid == fid))

/-- The access that met a fault walks again (R382): a parked hart waits for resumption, a virtual processor
goes on, a transfer tries again. -/
def State.release (s : State) (f : HallFault) : State :=
  let s := s.dropFault f.fid
  match s.faultHart f with
  | none => s
  | some h =>
    match f.source with
    | .hart =>
      if h.status == .parked then s.setHart f.hart { h with status := .stopped, fault := none } else s
    | .vp p => s.setHart f.hart (h.mapVp p (fun v => { v with state := v.state.answered }))
    | _ => s

/-! ### Device-managed pages (R379) -/

/-- A fault that waits for a frame of a page. -/
def State.waitsFrame (s : State) (asid va : Nat) (f : HallFault) : Bool :=
  f.waiting && f.info.reason == 2 && s.faultAsid f == asid && f.va.toNat / 0x10000 == va / 0x10000

/-- DEVICE_PAGE_MAP (R379): the list has refilled; the page is mapped for every access that waits on it. Where the
retry meets another fault, the accesses walk again and meet it themselves. -/
def execDevicePageMap (s : State) : Result :=
  match s.input with
  | .devicePageMap asid va =>
    let fs := s.hall.faults.filter (s.waitsFrame asid va.toNat)
    match fs.head?.bind s.faultHart with
    | none => .next s
    | some h =>
      match s.walk (h.core / 4) asid va.toNat ⟨true, false, s.linkOpen (s.classOf h)⟩ with
      | (.leaf _ _, s) => .next (forEach fs s State.release)
      | (.fault _ _ reason _, _) => if reason == 2 then .next s else .next (forEach fs s State.release)
      | (.unacked _ _, _) => .next s
      | (.linkDown _ _, _) => .next s
  | _ => .next s

/-! ### Fault records (R381) -/

/-- SRC and UNIT of a record. -/
def FaultSource.code : FaultSource → Nat × Nat
  | .hart => (0, 0)
  | .vp p => (1, p)
  | .engine t => (2, t)
  | .prefault => (3, 0)

/-- The descriptor of the ASID in which a fault was met (R373). -/
def State.faultDesc (s : State) (f : HallFault) : Nat := s.hall.atbase.toNat + 64 * s.faultAsid f

/-- The fault channel that the ASID's descriptor holds. -/
def State.faultChannel (s : State) (f : HallFault) : Nat := s.physRead (s.faultDesc f + 0x10) 8

/-- A record can be posted now. -/
def State.canReport (s : State) (f : HallFault) : Bool :=
  !f.posted && match s.faultHart f with
    | some h => s.hallReaches (s.classOf h) (s.faultDesc f) && s.channelReady (s.faultChannel f) (s.classOf h)
    | none => false

/-- The queue and HSEQ of a hart's launch. -/
def State.launchName (s : State) (h : Hart) : Nat × Nat :=
  match s.launchOf h with
  | some L => (L.queue, L.req.hseq)
  | none => (0, 0)

/-- Write a fault record and move its node to POSTED. -/
def State.postFault (s : State) (f : HallFault) (h : Hart) : State :=
  let ch := s.faultChannel f
  let n := s.physRead ch 8
  let (q, hseq) := s.launchName h
  let (src, unit) := f.source.code
  let s := s.physWrite (n + 0x08) 8 f.fid
  let s := s.physWrite (n + 0x10) 8 f.va.toNat
  let s := s.physWrite (n + 0x18) 8 f.info.entry.toNat
  let s := s.physWrite (n + 0x20) 2 q
  let s := s.physWrite (n + 0x22) 2 (s.faultAsid f)
  let s := s.physWrite (n + 0x24) 2 h.hartid.toNat
  let s := s.physWrite (n + 0x26) 1 f.cause
  let s := s.physWrite (n + 0x27) 1 f.info.kind
  let s := s.physWrite (n + 0x28) 8 hseq
  let s := s.physWrite (n + 0x30) 1 f.info.reason
  let s := s.physWrite (n + 0x31) 1 f.info.level
  let s := s.physWrite (n + 0x32) 1 src
  let s := s.physWrite (n + 0x33) 1 0
  let s := s.physWrite (n + 0x34) 4 unit
  let s := s.physWrite (n + 0x38) 8 s.hall.hcnt.toNat
  (s.physMove ch (ch + 16)).2

/-- The hall's note of a fault once its record is posted. -/
def State.markPosted (s : State) (f : HallFault) : State :=
  if f.waiting then
    s.mapHall (fun a => { a with
      faults := a.faults.map (fun g => if g.fid == f.fid then { g with posted := true } else g) })
  else s.mapHall (fun a => { a with faults := a.faults.filter (fun g => g.fid != f.fid) })

/-- FAULT_RECORD_POST (R381): the first unposted fault whose channel takes a record. -/
def execFaultRecordPost (s : State) : Result :=
  match s.hall.faults.find? s.canReport with
  | none => .next s
  | some f =>
    match s.faultHart f with
    | some h => .next ((s.postFault f h).markPosted f)
    | none => .next s

/-! ### Answers (R382) -/

/-- The waiting fault that a FRESP write names. -/
def State.faultNamed (s : State) (fid : BitVec 48) : Option HallFault :=
  s.hall.faults.find? (fun f => f.waiting && f.fid % 2 ^ 48 == fid.toNat)

/-- FRESP_RETRY (R382): a write that names no waiting FID is ignored. -/
def execFrespRetry (s : State) : Result :=
  match s.input with
  | .frespRetry fid =>
    if !s.hostCan then .next s
    else
      match s.faultNamed fid with
      | some f => .next (s.release f)
      | none => .next s
  | _ => .next s

/-- End the access that met a fault (R382): the hart with STATUS 2, or the transfer. -/
def State.endAccess (s : State) (f : HallFault) : State :=
  let s := s.dropFault f.fid
  match s.faultHart f with
  | none => s
  | some h =>
    match f.source with
    | .hart => s.failHart f.hart h (h.failure 2)
    | .vp _ =>
      (s.mapHall (fun a => { a with hstops := a.hstops + 1 })).failHart f.hart h
        ⟨2, f.cause, h.hartid.toNat, 256 * f.info.kind + f.cause, h.pc⟩
    | .engine n =>
      match tagOf n with
      | none => s
      | some t =>
        match h.tags[t] with
        | .busy fl => (Ctx.withPages ⟨h, s⟩ fl).failTransfer f.hart t fl.transfer ⟨f.cause, f.info.kind, f.va, f.info⟩
        | _ => s
    | .prefault => s

/-- FRESP_END (R382). -/
def execFrespEnd (s : State) : Result :=
  match s.input with
  | .frespEnd fid =>
    if !s.hostCan then .next s
    else
      match s.faultNamed fid with
      | some f => .next (s.endAccess f)
      | none => .next s
  | _ => .next s

/-! ### Invalidation (R376, R378) -/

/-- A TLB entry overlaps `count` pages of 64 KiB from `addr`; 0 is the whole ASID. -/
def TlbEntry.inRange (t : TlbEntry) (addr count : Nat) : Bool :=
  let size := 2 ^ levelShift t.level
  count == 0 || (decide (t.path * size < addr + count * 0x10000) && decide (addr < (t.path + 1) * size))

/-- An entry of some level through which a page has been translated overlaps the range of an invalidation (R378): that
of level 0 does where one of a lower level does. DEDUCED (log entry 43). -/
def PinnedPage.inRange (p : PinnedPage) (addr count : Nat) : Bool :=
  TlbEntry.inRange ⟨0, 0, 0, p.page * 2 ^ 16 / 2 ^ levelShift 0, p.entry⟩ addr count

/-- What pins entries of a range of an ASID: its transfers, and the accesses of its harts and virtual processors that
have been sent (R378). DEDUCED (log entry 43). -/
def State.pins (s : State) (asid addr count : Nat) : List Pin :=
  let hit := fun (p : PinnedPage) => p.inRange addr count
  (withIndex 0 s.harts).flatMap (fun (k, h) =>
    if s.asidOf h != asid then []
    else
      (List.finRange 16).filterMap (fun t =>
        match h.tags[t] with
        | .busy f => if f.pages.any hit then some (.transfer k t.val f.seq) else none
        | _ => none) ++
      (h.sentPage.toList.filter hit).map (Pin.hart k) ++
      (withIndex 0 (h.run.getD [])).flatMap (fun (i, v) => (v.sentPage.toList.filter hit).map (Pin.vp k i)))

/-- INVALIDATE (R378): the entries retire at once; a write with a reserved bit, or with IVCHAN = 0, is
ignored. -/
def execInvalidate (s : State) : Result :=
  match s.input with
  | .invalidate ctl =>
    let v := ctl.toNat
    let asid := fld v 0 16
    if !s.hostCan then .next s
    else if fld v 48 16 != 0 || s.hall.ivchan == 0 then .next s
    else
      let seq := s.hall.ivseq + 1
      let addr := downTo 0x10000 s.hall.ivaddr.toNat
      let count := fld v 16 32
      let pins := s.pins asid addr count
      let s := { s with tlb := s.tlb.filter (fun t => !(t.asid == asid && t.inRange addr count)) }
      .next (s.mapHall (fun a => { a with ivseq := seq, retiring := a.retiring ++ [(seq, pins)] }))
  | _ => .next s

/-- What pinned entries is still under way. -/
def State.pinned (s : State) : Pin → Bool
  | .transfer k t seq =>
    match s.harts[k]?, tagOf t with
    | some h, some t => match h.tags[t] with | .busy f => f.seq == seq | _ => false
    | _, _ => false
  | .hart k page => (s.harts[k]?).any (fun h => h.sentPage == some page)
  | .vp k p page => (s.harts[k]?).any (fun h => ((h.run.getD [])[p]?).any (fun v => v.sentPage == some page))

/-- INVALIDATION_COMPLETE (R378): in IVSEQ order, once no pin is left. DEDUCED (log entry 43). -/
def execInvalidationComplete (s : State) : Result :=
  match s.hall.retiring with
  | [] => .next s
  | (seq, pins) :: rest =>
    whenEnabled s (!pins.any s.pinned)
      (s.mapHall (fun a => { a with
        retiring := rest
        due := a.due ++ [⟨a.ivchan.toNat, .invalidation seq⟩] }))

end Sys2Proof.Machine
end

