-- ==== Sys2Proof/Machine/Hash.lean ====
section
/-!
DEFINITION. SHA-256 (FIPS 180-4) and LMS signature verification with LMOTS_SHA256_N32_W8 (RFC 8554, its
Algorithms 4b and 6a), which R384, R386 and R391 name.
-/
namespace Sys2Proof.Machine

/-! ### SHA-256 -/

/-- A 32-bit word. -/
abbrev Word32 := BitVec 32

/-- The round constants. -/
def shaK : List Word32 :=
  [0x428a2f98, 0x71374491, 0xb5c0fbcf, 0xe9b5dba5, 0x3956c25b, 0x59f111f1, 0x923f82a4, 0xab1c5ed5] ++
  [0xd807aa98, 0x12835b01, 0x243185be, 0x550c7dc3, 0x72be5d74, 0x80deb1fe, 0x9bdc06a7, 0xc19bf174] ++
  [0xe49b69c1, 0xefbe4786, 0x0fc19dc6, 0x240ca1cc, 0x2de92c6f, 0x4a7484aa, 0x5cb0a9dc, 0x76f988da] ++
  [0x983e5152, 0xa831c66d, 0xb00327c8, 0xbf597fc7, 0xc6e00bf3, 0xd5a79147, 0x06ca6351, 0x14292967] ++
  [0x27b70a85, 0x2e1b2138, 0x4d2c6dfc, 0x53380d13, 0x650a7354, 0x766a0abb, 0x81c2c92e, 0x92722c85] ++
  [0xa2bfe8a1, 0xa81a664b, 0xc24b8b70, 0xc76c51a3, 0xd192e819, 0xd6990624, 0xf40e3585, 0x106aa070] ++
  [0x19a4c116, 0x1e376c08, 0x2748774c, 0x34b0bcb5, 0x391c0cb3, 0x4ed8aa4a, 0x5b9cca4f, 0x682e6ff3] ++
  [0x748f82ee, 0x78a5636f, 0x84c87814, 0x8cc70208, 0x90befffa, 0xa4506ceb, 0xbef9a3f7, 0xc67178f2]

/-- The eight working words. -/
structure Sha where
  a : Word32
  b : Word32
  c : Word32
  d : Word32
  e : Word32
  f : Word32
  g : Word32
  h : Word32
  deriving DecidableEq, Repr

/-- The initial hash value. -/
def Sha.init : Sha :=
  ⟨0x6a09e667, 0xbb67ae85, 0x3c6ef372, 0xa54ff53a, 0x510e527f, 0x9b05688c, 0x1f83d9ab, 0x5be0cd19⟩

/-- A right rotation. -/
def rotr (x : Word32) (n : Nat) : Word32 := (x >>> n) ||| (x <<< (32 - n))

/-- One round with constant plus schedule word `kw`. -/
def Sha.round (s : Sha) (kw : Word32) : Sha :=
  let s1 := rotr s.e 6 ^^^ rotr s.e 11 ^^^ rotr s.e 25
  let ch := (s.e &&& s.f) ^^^ (~~~ s.e &&& s.g)
  let t1 := s.h + s1 + ch + kw
  let s0 := rotr s.a 2 ^^^ rotr s.a 13 ^^^ rotr s.a 22
  let maj := (s.a &&& s.b) ^^^ (s.a &&& s.c) ^^^ (s.b &&& s.c)
  ⟨t1 + (s0 + maj), s.a, s.b, s.c, s.d + t1, s.e, s.f, s.g⟩

/-- The next n words of the message schedule, the newest first. -/
def schedule : (n : Nat) → List Word32 → List Word32
  | 0, w => w
  | n + 1, w =>
    let at_ := fun (i : Nat) => (w[i]?).getD 0
    let x := at_ 14
    let y := at_ 1
    let s0 := rotr x 7 ^^^ rotr x 18 ^^^ (x >>> 3)
    let s1 := rotr y 17 ^^^ rotr y 19 ^^^ (y >>> 10)
    schedule n ((at_ 15 + s0 + at_ 6 + s1) :: w)

/-- The value of bytes, the first the most significant. -/
def beValue (bs : List Byte) : Nat := leValue bs.reverse
/-- The n bytes of a value, the most significant first. -/
def beBytes (n v : Nat) : List Byte := (leBytes n v).reverse

/-- Compress one block of 64 bytes. -/
def Sha.block (s : Sha) (bs : List Byte) : Sha :=
  let w := ((chunks 4 16 bs).map (fun c => BitVec.ofNat 32 (beValue c))).reverse
  let r := forEach (shaK.zip (schedule 48 w).reverse) s (fun (t : Sha) (k, x) => t.round (k + x))
  ⟨s.a + r.a, s.b + r.b, s.c + r.c, s.d + r.d, s.e + r.e, s.f + r.f, s.g + r.g, s.h + r.h⟩

/-- The padded message. -/
def shaPad (bs : List Byte) : List Byte :=
  let n := bs.length
  bs ++ [0x80] ++ List.replicate ((119 - n % 64) % 64) 0 ++ beBytes 8 (8 * n)

/-- SHA-256: 32 bytes. DESIGN CHOICE (log entry 12). -/
def sha256 (bs : List Byte) : List Byte :=
  let p := shaPad bs
  let s := forEach (chunks 64 (p.length / 64) p) Sha.init Sha.block
  [s.a, s.b, s.c, s.d, s.e, s.f, s.g, s.h].flatMap (fun w => beBytes 4 w.toNat)

/-! ### LMOTS (RFC 8554, Algorithm 4b) -/

/-- Bytes of a list from an offset. -/
def slice (bs : List Byte) (off n : Nat) : List Byte := (bs.drop off).take n

/-- Hash a chain value n more times, from step j. -/
def otsChain (head : List Byte) : (n j : Nat) → List Byte → List Byte
  | 0, _, t => t
  | n + 1, j, t => otsChain head n (j + 1) (sha256 (head ++ beBytes 1 j ++ t))

/-- The candidate for the one-time public key from a signature's C and y. -/
def otsCandidate (ident : List Byte) (q : Nat) (message c y : List Byte) : List Byte :=
  let iq := ident ++ beBytes 4 q
  let hash := sha256 (iq ++ beBytes 2 0x8181 ++ c ++ message)
  let sum := forEach hash 0 (fun n b => n + (255 - b.toNat))
  let digits := hash ++ beBytes 2 sum
  let z := (withIndex 0 digits).flatMap (fun (i, a) =>
    otsChain (iq ++ beBytes 2 i) (255 - a.toNat) a.toNat (slice y (32 * i) 32))
  sha256 (iq ++ beBytes 2 0x8080 ++ z)

/-! ### LMS (RFC 8554, Algorithm 6a) -/

/-- Climb from a node to the root along the path. -/
def lmsClimb (ident : List Byte) : (node : Nat) → List Byte → List (List Byte) → List Byte
  | _, t, [] => t
  | node, t, p :: rest =>
    let pair := if node % 2 == 1 then p ++ t else t ++ p
    lmsClimb ident (node / 2) (sha256 (ident ++ beBytes 4 (node / 2) ++ beBytes 2 0x8383 ++ pair)) rest

/-- The height of a tree by its type: H15 or H20 (R386). -/
def lmsHeight (typ : Nat) : Option Nat :=
  if typ == 7 then some 15 else if typ == 8 then some 20 else none

/-- The length of a signature over a tree of height h: 1,612 or 1,772 bytes (R386). -/
def lmsSigLen (h : Nat) : Nat := 4 + (4 + 32 + 34 * 32) + 4 + 32 * h

/-- The signature of a message verifies under a 56-byte LMS public key. DESIGN CHOICE (log entry 12). -/
def lmsVerify (key message sig : List Byte) : Bool :=
  let typ := beValue (slice key 0 4)
  match lmsHeight typ with
  | none => false
  | some h =>
    let ident := slice key 8 16
    let q := beValue (slice sig 0 4)
    let kc := otsCandidate ident q message (slice sig 8 32) (slice sig 40 1088)
    let leaf := sha256 (ident ++ beBytes 4 (2 ^ h + q) ++ beBytes 2 0x8282 ++ kc)
    let path := chunks 32 h (sig.drop 1132)
    key.length == 56 && sig.length == lmsSigLen h && beValue (slice key 4 4) == 4 &&
    beValue (slice sig 4 4) == 4 && beValue (slice sig 1128 4) == typ && decide (q < 2 ^ h) &&
    lmsClimb ident (2 ^ h + q) leaf path == slice key 24 32

end Sys2Proof.Machine
end

