-- ==== Sys2Proof/Machine/Security.lean ====
section
/-!
DEFINITION. Boot, recovery, firmware in flash, and attestation (R384 to R391); device reset and the loss of
power.
-/
namespace Sys2Proof.Machine

/-! ### Images (R386, R387) -/

/-- A header's fields. -/
structure ImageHead where
  magic : Nat
  version : Nat
  blen : Nat
  entry : Nat
  sigtype : Nat
  reserved : Nat
  deriving DecidableEq, Repr

/-- A header from its 64 bytes. -/
def imageHead (bs : List Byte) : ImageHead :=
  let v := leValue (bs.take 64)
  ⟨fld v 0 32, fld v 32 32, fld v 64 64, fld v 128 64, fld v 192 32, fld v 224 288⟩

/-- A well-formed header. -/
def ImageHead.ok (h : ImageHead) : Bool :=
  h.magic == 0x4E5A4657 && h.blen % 4 == 0 && decide (4 ≤ h.blen) && decide (h.blen ≤ 0x1000000) &&
  h.entry % 4 == 0 && decide (h.entry < h.blen) && (lmsHeight h.sigtype).isSome && h.reserved == 0

/-- The total size that a header gives its image; none for another signature type. -/
def ImageHead.size (h : ImageHead) : Option Nat := (lmsHeight h.sigtype).map (fun n => 64 + h.blen + lmsSigLen n)

/-- The checks of R387 over an image in the order of ERR 1, 2, 3, 4; 0 when all pass.
DEDUCED (log entry 46). -/
def Security.checkImage (c : Security) (bs : List Byte) : Nat :=
  let h := imageHead bs
  if !h.ok then 1
  else if h.version < c.minVersion then 2
  else if beValue (slice c.key 0 4) != h.sigtype then 3
  else if !lmsVerify c.key (bs.take (64 + h.blen)) (bs.drop (64 + h.blen)) then 4
  else 0

/-- The image that flash holds from offset 0; none where flash cannot be read so far. -/
def Security.flashImage (c : Security) : Option (List Byte) :=
  if c.flash.length < 64 then none
  else
    let h := imageHead c.flash
    if !h.ok then some c.flash
    else
      match h.size with
      | some n => if c.flash.length < n then none else some (c.flash.take n)
      | none => some c.flash

/-! ### Boot (R387, R390) -/

/-- The number of one-time leaves: 2^35 (R390). -/
def leafEnd : Nat := 2 ^ 35
/-- The leaves of one bottom tree. -/
def treeLeaves : Nat := 2 ^ 20

/-- Where firmware resumes the leaf counter: at the flash record if it is intact and in the tree of the
highest OTP bit, else at the first leaf of the next tree (R390). -/
def Security.resumeLeaves (c : Security) : Security :=
  let fresh : Security := if c.trees * treeLeaves < leafEnd then
      let first := c.trees * treeLeaves
      { c with trees := c.trees + 1, nextLeaf := first, reserved := first, leafRecord := some first }
    else { c with nextLeaf := leafEnd, reserved := leafEnd }
  match c.leafRecord with
  | some n =>
    if c.trees != 0 && n / treeLeaves == c.trees - 1 then { c with nextLeaf := n, reserved := n } else fresh
  | none => fresh

/-- A verified image starts: FWVER, FWDIG and STAGE 4 (R387, R388). -/
def Security.start (c : Security) (bs : List Byte) (recovered : Bool) : Security :=
  let h := imageHead bs
  { c.resumeLeaves with
    stage := 4
    err := 0
    recovered := recovered
    fwver := h.version
    fwdig := sha256 (bs.take (64 + h.blen)) }

/-- The boot ROM verifies flash (R387): ERR 5 first, then the checks of the image. DEDUCED (log entry 46). -/
def Security.boot (c : Security) : Security :=
  match c.flashImage with
  | none => { c with stage := 6, err := 5 }
  | some bs =>
    let e := c.checkImage bs
    if e == 0 then c.start bs false else { c with stage := 6, err := e }

/-- What outlives a reset and a loss of power: flash, the flash record and the fuses. -/
def Security.nonvolatile (c : Security) : Security :=
  { Security.reset with
    flash := c.flash
    leafRecord := c.leafRecord
    trees := c.trees
    key := c.key
    minVersion := c.minVersion }

/-- The machine at power-on with this one's nonvolatile storage. The model's own fields go on.
DEDUCED (log entry 46). -/
def State.powerOn (s : State) : State :=
  { State.reset with
    sec := s.sec.nonvolatile
    tick := s.tick
    agenda := s.agenda
    input := s.input }

/-- DEVICE_RESET (R387): the boot ROM runs. Memory keeps its contents; this device's begins at ordinal 0 again. -/
def execDeviceReset (s : State) : Result :=
  match s.input with
  | .deviceReset =>
    .next { s.powerOn with
      mem := if s.fab.dord == 0 then s.mem else s.mem.swap s.fab.dord 0
      poison := if s.fab.dord == 0 then s.poison else swapSectors s.fab.dord 0 s.poison }
  | _ => .next s

/-- POWER_LOSS (R389, R390): memory contents are lost; `torn` says that it fell into a write of the flash record of
the leaf index, which is then not intact. -/
def execPowerLoss (s : State) : Result :=
  match s.input with
  | .powerLoss torn =>
    let t := s.powerOn
    .next (if torn then { t with sec := { t.sec with leafRecord := none } } else t)
  | _ => .next s

/-! ### Recovery (R388) -/

/-- The device's base in the domain (R394). -/
def State.dbase (s : State) : Nat := s.fab.dord * 2 ^ 39

/-- Verify the staged image: RECLEN first. DEDUCED (log entry 46). -/
def State.recover (s : State) : Security :=
  let head := imageHead (s.outerRead s.dbase 64)
  if head.size != some s.sec.reclen then { s.sec with stage := 6, err := 6 }
  else if !head.ok then { s.sec with stage := 6, err := 1 }
  else
    let bs := s.outerRead s.dbase s.sec.reclen
    let e := s.sec.checkImage bs
    if e == 0 then s.sec.start bs true else { s.sec with stage := 6, err := e }

/-- RECOVERY_GO (R388): the ROM verifies the staged image, STAGE 3; ignored while STAGE ≠ 6. -/
def execRecoveryGo (s : State) : Result :=
  match s.input with
  | .recoveryGo =>
    if !s.hostCan then .next s
    else if s.sec.stage != 6 then .next s
    else .next { s with sec := { s.sec with stage := 3, staged := true } }
  | _ => .next s

/-- The boot goes on by itself in these stages. -/
def Security.booting (c : Security) : Bool := 1 ≤ c.stage && c.stage ≤ 4

/-- The next stage of the boot (R387, R388): the link and the memory train, the image is read, it is verified and
starts or the ROM waits for recovery, and the firmware opens the hall. DEDUCED (log entry 46). -/
def bootStep (s : State) : State :=
  match s.sec.stage with
  | 1 => { s with link := { s.link with up := true }, sec := { s.sec with stage := 2 } }
  | 2 => { s with sec := { s.sec with stage := 3, staged := false } }
  | 3 => { s with sec := if s.sec.staged then s.recover else s.sec.boot }
  | 4 => { s with sec := { s.sec with stage := 5 } }
  | _ => s

/-! ### Flash (R389) -/

/-- The firmware runs: STAGE 4 and 5 (R387). -/
def Security.firmware (c : Security) : Bool := c.stage == 4 || c.stage == 5

/-- A verified image of exactly its own size. -/
def Security.admits (c : Security) (bs : List Byte) : Bool :=
  (imageHead bs).ok && (imageHead bs).size == some bs.length && c.checkImage bs == 0

/-- FIRMWARE_FLASH_WRITE (R389): an image is written, or the fused minimum is raised, at most to the firmware's own
VERSION, or both; a write that the loss of power cuts off leaves the first n bytes, from which the next boot fails.
DEDUCED (log entry 46). -/
def execFirmwareFlashWrite (s : State) : Result :=
  match s.input with
  | .firmwareFlashWrite image v cut =>
    let raised := v.getD s.sec.minVersion
    let ok := s.sec.firmware && image.all s.sec.admits &&
      (v.isNone || (decide (s.sec.minVersion ≤ raised) && decide (raised ≤ s.sec.fwver)))
    let bs := image.getD s.sec.flash
    match cut with
    | none => whenEnabled s ok { s with sec := { s.sec with flash := bs, minVersion := raised } }
    | some n =>
      whenEnabled s (ok && image.isSome && decide (n < bs.length))
        (State.powerOn { s with sec := { s.sec with flash := bs.take n } })
  | _ => .next s

/-! ### Attestation (R390, R391) -/

/-- The length of a report in bytes. -/
def reportLen : Nat := 0x60 + 3444

/-- AOUT admits a report: a multiple of 64 in this device's memory. DEDUCED (log entry 47). -/
def State.aoutOk (s : State) : Bool :=
  let a := s.sec.aout.toNat
  a % 64 == 0 && decide (s.dbase ≤ a) && decide (a + reportLen ≤ s.dbase + 2 ^ 39)

/-- Take the next leaf: a new tree opens at its first leaf, and the flash record moves on by 1,024 before a
new range is used (R390). DEDUCED (log entry 47). -/
def Security.takeLeaf (c : Security) : Security :=
  let q := c.nextLeaf
  let c : Security := if q == c.trees * treeLeaves then { c with trees := c.trees + 1 } else c
  let c : Security := if c.reserved ≤ q then { c with reserved := q + 1024, leafRecord := some (q + 1024) } else c
  { c with nextLeaf := q + 1 }

/-- The 32 bytes of ANONCE. -/
def Security.nonce (c : Security) : List Byte := c.anonce.toList.flatMap (fun w => leBytes 8 w.toNat)

/-- ATTEST_REQUEST (R391): ignored while BUSY = 1, and while no firmware runs to serve it; CODE 1 and 2 use no leaf.
DEDUCED (log entry 47). -/
def execAttestRequest (s : State) : Result :=
  match s.input with
  | .attestRequest =>
    if !s.hostCan || !s.sec.firmware then .next s
    else if s.sec.report.isSome then .next s
    else
      let c := s.sec
      let code := if !s.aoutOk then 1 else if leafEnd ≤ c.nextLeaf then 2 else 0
      let r : Report := ⟨c.nonce, c.aout, c.nextLeaf, code⟩
      .next { s with sec := { (if code == 0 then c.takeLeaf else c) with report := some r } }
  | _ => .next s

/-- BOOTST (R384). -/
def Security.bootst (c : Security) : Nat := c.stage + c.err * 2 ^ 8 + bool01 c.recovered * 2 ^ 16

/-- IDPUB: the HSS public key of two levels, whose top tree is LMS_SHA256_M32_H15 with LMOTS_SHA256_N32_W8
(R384, R390, RFC 8554). DESIGN CHOICE (log entry 12). -/
def idpubBytes : List Byte :=
  beBytes 4 2 ++ beBytes 4 7 ++ beBytes 4 4 ++ (List.range 48).map (fun i => Config.idpub (12 + i))

/-- An LMS signature of RFC 8554: the leaf, the LMOTS type with its randomizer and 34 chains, the tree's type and the
path. `f` gives the bytes that nothing fixes, by their place. -/
def lmsSigBytes (leaf typ height at_ : Nat) (f : Nat → Byte) : List Byte :=
  beBytes 4 leaf ++ beBytes 4 4 ++ (fromTo (at_ + 8) (at_ + 1128)).map f ++ beBytes 4 typ ++
    (fromTo (at_ + 1132) (at_ + 1132 + 32 * height)).map f

/-- The bottom public key of a leaf: LMS_SHA256_M32_H20 with LMOTS_SHA256_N32_W8 (R390). -/
def bottomKey (leaf : Nat) : List Byte :=
  beBytes 4 8 ++ beBytes 4 4 ++ (List.range 48).map (Config.treeKey (leaf / treeLeaves))

/-- The HSS signature of a report: Nspk = 1, the top signature, which signs the bottom public key, that key, and the
bottom signature, which signs the report (R390, R391). DESIGN CHOICE (log entry 12). DEDUCED (log entry 47). -/
def hssBytes (leaf : Nat) (body : List Byte) : List Byte :=
  beBytes 4 1 ++ lmsSigBytes (leaf / treeLeaves) 7 15 4 (Config.signature (leaf / treeLeaves) (bottomKey leaf)) ++
    bottomKey leaf ++ lmsSigBytes (leaf % treeLeaves) 8 20 1672 (Config.signature leaf body)

/-- A report's bytes: what is signed, then the signature (R391). DEDUCED (log entry 47). -/
def Security.reportBytes (c : Security) (r : Report) : List Byte :=
  let body := leBytes 4 0x41545352 ++ leBytes 4 1 ++ r.nonce ++ c.fwdig ++ leBytes 4 c.fwver ++
    leBytes 4 c.bootst ++ leBytes 8 r.leaf ++ leBytes 8 (leafEnd - 1 - r.leaf)
  body ++ hssBytes r.leaf body

/-- ATTEST_REPORT_COMPLETE (R391). -/
def execAttestReportComplete (s : State) : Result :=
  match s.input, s.sec.report with
  | .attestReportComplete, some r =>
    let c : Security := { s.sec with report := none, code := r.code }
    if r.code != 0 then .next { s with sec := c }
    else .next { s.outerWrite r.addr.toNat (s.sec.reportBytes r) with sec := { c with reports := c.reports + 1 } }
  | _, _ => .next s

end Sys2Proof.Machine
end

