-- ==== Sys2Proof/Machine/Domain.lean ====
section
/-!
DEFINITION. The domain and its fabric (R392 to R402): joining and leaving, members removed, ports, accesses
from other devices, and accesses that get no acknowledgement.
-/
namespace Sys2Proof.Machine

/-! ### DCTL and DMEMB (R392, R396) -/

/-- DOMAIN_ENABLE (R392). -/
def execDomainEnable (s : State) : Result :=
  match s.input with
  | .domainEnable den =>
    if !s.hostCan then .next s
    else if !den then .next { s with fab := { s.fab with den := false } }
    else
      let ok := bitAt s.fab.dmemb.toNat s.fab.dord
      .next { s with fab := { s.fab with den := ok, dmis := !ok } }
  | _ => .next s

/-- The lowest member of a group among those removed. DEDUCED (log entry 33). -/
def firstRemoved (removed g : BitVec 128) : Option Nat :=
  (List.range 128).find? (fun d => bitAt removed.toNat d && bitAt g.toNat d)

/-- A collective whose group has lost a member ends, with CODE 5, REASON 1 where that is the first case it has met
(R396, R400); while its writes wait, it keeps the case. DEDUCED (log entry 33). -/
def loseMember (removed : BitVec 128) (k : Nat) (t : Slot) (s : State) : State :=
  match s.transferOf k t with
  | some (h, f) =>
    match f.transfer with
    | .coll d st =>
      if (firstRemoved removed d.group).isSome then collectiveStep k t ⟨h, s⟩ f d st none else s
    | .copy _ _ _ _ => s
  | none => s

/-- DMEMB_WRITE (R396). -/
def execDmembWrite (s : State) : Result :=
  match s.input with
  | .dmembWrite high v =>
    if !s.hostCan then .next s
    else
      let old := s.fab.dmemb
      let new := BitVec.ofNat 128 (putBits old.toNat (if high then 64 else 0) 64 v.toNat)
      let removed := old &&& ~~~ new
      let s := { s with fab := { s.fab with dmemb := new } }
      let s := s.meetAll (fun _ d => (firstRemoved removed d.group).map (fun o => (5, 1, 0x1F, some o)))
      .next (forEach (List.range s.harts.length) s (fun (s : State) k =>
        forEach (List.finRange 16) s (fun (s : State) t => loseMember removed k t s)))
  | _ => .next s

/-! ### Ports (R397, R402) -/

/-- Change port p. -/
def State.mapPort (s : State) (p : Nat) (f : Port → Port) : State :=
  { s with fab := { s.fab with
      ports := Vector.ofFn (fun (i : Fin 24) => if i.val == p then f s.fab.ports[i] else s.fab.ports[i]) } }

/-- FLIT_CRC_REPLAY (R397): a flit comes through after `replays` replays, at most eight, or is lost after the
eighth, with every flit the port still held; then the port is down. DESIGN CHOICE (log entry 11). -/
def execFlitCrcReplay (s : State) : Result :=
  match s.input with
  | .flitCrcReplay p n sent lost =>
    if !(s.fab.ports[p]?).any Port.up || n < 1 || 8 < n || (lost && n != 8) then
      .next s
    else
      let held := Config.choice s.tick 397 + bool01 sent
      let s := s.mapPort p (fun q =>
        let q : Port := if sent then { q with preplay := q.preplay + BitVec.ofNat 64 n }
          else { q with pcrc := q.pcrc + BitVec.ofNat 64 (n + bool01 lost) }
        if lost then { q with up := false, pdown := q.pdown + 1, plost := q.plost + BitVec.ofNat 64 held }
        else q)
      .next (if lost then s.meetPort p (decide (0 < held)) else s)
  | _ => .next s

/-- PORT_TRAIN (R397). -/
def execPortTrain (s : State) : Result :=
  match s.input with
  | .portTrain p peer peerPort =>
    whenEnabled s
      ((s.fab.ports[p]?).any (fun q => !q.up) && decide (peer < 128) && decide (peerPort < 24))
      (s.mapPort p (fun q => { q with up := true, peer := peer, peerPort := peerPort }))
  | _ => .next s

/-! ### Accesses without acknowledgement (R395) -/

/-- What a transfer meets whose next access to another device gets no acknowledgement; of a collective, its reads, its
result's beginning and its status are tried in turn. DESIGN CHOICE (log entry 45). -/
def Ctx.tryUnacked (c : Ctx) (k : Nat) (f : Flight) : Attempt :=
  let c : Ctx := { c with h := { c.h with noAck := true } }
  match f.transfer, c.tryTransfer k f with
  | .coll d _, .ends c =>
    let out := List.replicate (if d.op == 4 then 32 else d.dstLen) 0
    attempt (do
      let (_, c) ← c.checkRange d.dst out
      c.checkRange d.status (List.replicate 16 0))
  | _, r => r

/-- FABRIC_ACK_TIMEOUT (R395): a transfer fails; a hart's next access to another device does. -/
def execFabricAckTimeout (s : State) : Result :=
  match s.input with
  | .fabricAckTimeout k none =>
    onHart k s (fun h =>
      if s.fab.den && h.status == .running && !h.noAck then some (s.setHart k { h with noAck := true }) else none)
  | .fabricAckTimeout k (some t) =>
    match s.transferOf k t with
    | some (h, f) =>
      match Ctx.tryUnacked ⟨h, s⟩ k f with
      | .fails c g =>
        whenEnabled s (!c.h.noAck) (Ctx.failTransfer { c with h := { c.h with noAck := h.noAck } } k t f.transfer g)
      | _ => .next s
    | none => .next s
  | _ => .next s

/-! ### Accesses to this device's memory from outside (R336, R394) -/

/-- An atomic from outside, acq-rel at DOMAIN (R336): the machine after it, and the old value's bytes. -/
def State.outerAtomic (s : State) (op : AtomOp) (a n x e : Nat) : State × List Byte :=
  let old := s.outerRead a n
  if s.poisoned a then (s, old)
  else (s.physWrite a n (atomicNew op (8 * n) (leValue old) x e), old)

/-- A list move from outside; a node that is no multiple of 8, the old tail of the second list among them, leaves all
memory unchanged (R137), and so does an uncorrectable word. DEDUCED (log entry 45). -/
def State.outerMove (s : State) (a b : Nat) : State × List Byte :=
  let n := s.physRead a 8
  let t := if n == 0 then 0 else (s.physUnlink a n).physRead (b + 8) 8
  if n % 8 != 0 || t % 8 != 0 || (a :: b :: [n, t].filter (· != 0)).any s.poisoned then (s, leBytes 8 0)
  else
    let (n, s) := s.physMove a b
    (s, leBytes 8 n)

/-- What the outside is answered. -/
def State.answer (s : State) (bytes : List Byte) : State := { s with link := { s.link with answer := bytes } }

/-- An n-byte range lies in this device's memory (R394). -/
def State.isOwn (s : State) (a n : Nat) : Bool := decide (s.dbase ≤ a) && decide (a + n ≤ s.dbase + 2 ^ 39)

/-- An access that the host makes to host memory, or another device to memory that is not this device's (R257). -/
def outsideAccess (x : RemoteAccess) (s : State) : State :=
  let free := fun (a n : Nat) => !(List.range n).any (fun i => s.isOwn (a + i) 1)
  match x with
  | .load _ _ => s
  | .store a bytes => if free a bytes.length then s.outerWrite a bytes else s
  | .atomic op a wide x e =>
    let n := if wide then 8 else 4
    if free a n && a % n == 0 then (s.outerAtomic op a n x.toNat e.toNat).1 else s
  | .lmove a b => if free a 16 && free b 16 && a % 16 == 0 && b % 16 == 0 then (s.outerMove a b).1 else s

/-- REMOTE_ACCESS (R394): a member of the domain reaches this device's memory over a port that is up. -/
def execRemoteAccess (s : State) : Result :=
  match s.input with
  | .remoteAccess x =>
    if !s.fab.den || !s.fab.ports.toList.any Port.up then .next s
    else
      match x with
      | .load a n => whenEnabled s (s.isOwn a n) (s.answer (s.outerRead a n))
      | .store a bytes => whenEnabled s (s.isOwn a bytes.length) (s.outerWrite a bytes)
      | .atomic op a wide x e =>
        let n := if wide then 8 else 4
        let (t, old) := s.outerAtomic op a n x.toNat e.toNat
        whenEnabled s (s.isOwn a n && a % n == 0) (t.answer old)
      | .lmove a b =>
        let (t, n) := s.outerMove a b
        whenEnabled s (s.isOwn a 16 && s.isOwn b 16 && a % 16 == 0 && b % 16 == 0) (t.answer n)
  | _ => .next s

end Sys2Proof.Machine
end

