-- ==== Sys2Proof/Machine/Power.lean ====
section
/-!
DEFINITION. Scrubbing, the power governor and the thermal limits (R404 to R407).
-/
namespace Sys2Proof.Machine

/-- 24 hours in hall ticks: the hall runs at 1.5 GHz (R1). -/
def scrubPeriod : Nat := 129600000000000

/-- The scrub can be at sector n of this device's memory: in address order, with no poisoned sector passed over; a new
pass begins 24 hours after the last one began (R404). DEDUCED (log entry 49). -/
def State.scrubReaches (s : State) (n : Nat) : Bool :=
  let base := s.fab.dord * 2 ^ 34
  let quiet := fun (lo hi : Nat) => s.poison.all (fun p => decide (p < base + lo) || decide (base + hi ≤ p))
  if s.rel.scrubNext ≤ n then quiet s.rel.scrubNext n
  else quiet s.rel.scrubNext (2 ^ 34) && quiet 0 n && s.ticksSince s.rel.scrubSince scrubPeriod

/-- The scrub has been at sector n. -/
def State.scrubbed (s : State) (n : Nat) : Reliability :=
  { s.rel with
    scrubNext := n + 1
    scrubSince := if s.rel.scrubNext ≤ n then s.rel.scrubSince else s.hall.hcnt }

/-- HBM_SCRUB of sector number `sector` of this device's memory (R404): it changes no value; an
uncorrectable sector is counted and left poisoned. -/
def execHbmScrub (s : State) : Result :=
  match s.input with
  | .hbmScrub sector outcome =>
    let n := sector % 2 ^ 34
    let ok := sector / 2 ^ 34 == s.fab.dord && s.scrubReaches n
    let rel := s.scrubbed n
    match outcome with
    | .clean => whenEnabled s (ok && !s.poison.contains sector) { s with rel := rel }
    | .corrected =>
      whenEnabled s (ok && !s.poison.contains sector) { s with rel := { rel with cehbm := rel.cehbm + 1 } }
    | .uncorrectable =>
      whenEnabled s ok
        { s with
          poison := addrPut sector s.poison
          rel := { rel with uecnt := rel.uecnt + 1, uelast := BitVec.ofNat 64 (32 * sector) } }
  | _ => .next s

/-! ### Soft errors (R403) -/

/-- An uncorrectable error is counted, with its sector's address, or 0 for core storage (R405). -/
def State.countLost (s : State) (addr : Nat) : State :=
  { s with rel := { s.rel with
    uecnt := s.rel.uecnt + 1
    uelast := BitVec.ofNat 64 addr } }

/-- The instruction that hart k stands at, or a virtual processor of it, reads storage of its core that cannot be
corrected: UNCORR, which the hall cannot resolve. DESIGN CHOICE (log entry 49). -/
def State.readLost (s : State) (k : Nat) (addr : Word) : State :=
  match s.harts[k]? with
  | none => s
  | some h =>
    if h.status != .running then s
    else if h.run.isSome then
      ((s.countLost 0).mapHall (fun a => { a with hstops := a.hstops + 1 })).failHart k h
        ⟨2, causeUncorr, h.hartid.toNat, causeUncorr, h.pc⟩
    else deliverTrap k ⟨h, s.countLost 0⟩ { Trap.plain causeUncorr 0 with addr := addr }

/-- The transfer of tag t of hart k, after what it must not overtake (R260), reads scratchpad data at an address that
cannot be corrected: it fails (R242, R403). -/
def State.moveLost (s : State) (k t : Nat) (addr : Word) : State :=
  match (tagOf t).bind (fun t => (s.transferOf k t).map (fun x => (t, x))) with
  | none => s
  | some (t, h, f) =>
    let reads := match f.transfer with
      | .copy _ src len zero => !zero && overlap src len addr.toNat 1
      | .coll d _ => overlap d.src d.srcLen addr.toNat 1
    if f.done || !reads || h.scratchSize ≤ addr.toNat then s
    else
      match attempt (Ctx.settleBefore ⟨h, s.countLost 0⟩ k f.seq f.transfer) with
      | .ends c => (c.withPages f).failTransfer k t f.transfer (plainFault causeUncorr 0 addr.toNat)
      | _ => s

/-- A soft error: a correctable one changes no value and is counted. DESIGN CHOICE (log entry 49). -/
def softError (e : SoftError) (s : State) : State :=
  match e with
  | .hbm n =>
    if n / 2 ^ 34 == s.fab.dord && !s.poison.contains n then
      { s with rel := { s.rel with cehbm := s.rel.cehbm + 1 } } else s
  | .cache => { s with rel := { s.rel with cecache := s.rel.cecache + 1 } }
  | .core => { s with rel := { s.rel with cecore := s.rel.cecore + 1 } }
  | .fetch => { s with rel := { s.rel with cefetch := s.rel.cefetch + 1 } }
  | .tlbEntry n => { s with tlb := s.tlb.eraseIdx n, rel := { s.rel with cefetch := s.rel.cefetch + 1 } }
  | .sector n =>
    if n / 2 ^ 34 == s.fab.dord then { s.countLost (32 * n) with poison := addrPut n s.poison } else s
  | .read k addr => s.readLost k addr
  | .moved k t addr => s.moveLost k t addr

/-! ### The governor (R406) -/

/-- A quad holds a class 0 hart. -/
def State.zeroQuad (s : State) (q : Nat) : Bool :=
  s.harts.any (fun h => h.placed && h.core / 4 == q && s.classOf h == 0)

/-- One of a list, where the spec names none: by a free value. DESIGN CHOICE (log entry 11). -/
def State.anyOf (s : State) (key : Nat) (qs : List (Fin 32)) : Option (Fin 32) :=
  qs[Config.choice s.tick key % qs.length]?

/-- Among quads above 1.5 GHz: one with the highest clock, outside CL0Q first. -/
def State.slowest (s : State) (qs : List (Fin 32)) : Option (Fin 32) :=
  let top := forEach qs 0 (fun m q => max m s.rel.qclk[q])
  let best := qs.filter (fun q => s.rel.qclk[q] == top && decide (0 < top))
  let outside := best.filter (fun q => !bitAt s.hall.cl0q.toNat q.val)
  s.anyOf 406 (if outside.isEmpty then best else outside)

/-- The quad whose clock is lowered next. -/
def State.quadToSlow (s : State) : Option (Fin 32) :=
  let all := List.finRange 32
  (s.slowest (all.filter (fun q => !s.zeroQuad q.val))).or (s.slowest (all.filter (fun q => s.zeroQuad q.val)))

/-- One step down: a clock, or with every quad at 1.5 GHz ten per cent of HBM bandwidth.
DEDUCED (log entry 48). -/
def State.stepDown (s : State) : Reliability :=
  match s.quadToSlow with
  | some q => { s.rel with qclk := s.rel.qclk.set q (s.rel.qclk[q] - 1), history := .clock q.val :: s.rel.history }
  | none =>
    if s.rel.hbmLimit < 9 then
      { s.rel with hbmLimit := s.rel.hbmLimit + 1, history := .bandwidth :: s.rel.history }
    else s.rel

/-- Undo the last step. -/
def Reliability.stepUp (r : Reliability) : Reliability :=
  match r.history with
  | [] => r
  | .clock q :: rest =>
    { r with
      history := rest
      qclk := Vector.ofFn (fun (i : Fin 32) => if i.val == q then min 6 (r.qclk[i] + 1) else r.qclk[i]) }
  | .bandwidth :: rest => { r with history := rest, hbmLimit := r.hbmLimit - 1 }

/-- GOVERNOR_TICK (R406); during a thermal throttle every clock is held (R407). DEDUCED (log entry 48). -/
def execGovernorTick (s : State) : Result :=
  match s.input with
  | .governorTick watts =>
    let r := { s.rel with pwr := watts % 2 ^ 16 }
    if r.throttled then .next { s with rel := r }
    else if r.plim < r.pwr then .next { s with rel := State.stepDown { s with rel := r } }
    else if r.pwr + 100 < r.plim then .next { s with rel := r.stepUp }
    else .next { s with rel := r }
  | _ => .next s

/-! ### Thermal limits (R407): temperatures in units of 0.125 °C -/

/-- The hottest die sensor reads t: TEMPMAX follows it, and with it the throttle from 100 °C, held until below 95 °C,
and the trip from 110 °C: every clock stops, the link drops, and this device's memory contents are lost. -/
def State.heat (s : State) (t : Nat) : State :=
  let rel : Reliability := { s.rel with
    tempmax := t % 2 ^ 16
    throttled := decide (800 ≤ t) || (s.rel.throttled && decide (760 ≤ t)) }
  if t < 880 then { s with rel := rel }
  else
    let base := s.fab.dord * 2 ^ 39
    { s with
      mem := s.mem.clear base (2 ^ 39)
      poison := s.poison.filter (fun p => p / 2 ^ 34 != s.fab.dord)
      link := { s.link with up := false, downAt := s.hall.hcnt }
      rel := { rel with tripped := true } }

/-- THERMAL_THROTTLE, at 100 °C. -/
def execThermalThrottle (s : State) : Result :=
  match s.input with
  | .thermalThrottle t => whenEnabled s (decide (800 ≤ t) && decide (t < 880) && !s.rel.throttled) (s.heat t)
  | _ => .next s

/-- THERMAL_THROTTLE_END, below 95 °C. -/
def execThermalThrottleEnd (s : State) : Result :=
  match s.input with
  | .thermalThrottleEnd t => whenEnabled s (decide (t < 760) && s.rel.throttled) (s.heat t)
  | _ => .next s

/-- THERMAL_TRIP, at 110 °C. -/
def execThermalTrip (s : State) : Result :=
  match s.input with
  | .thermalTrip t => whenEnabled s (decide (880 ≤ t) && decide (t < 2 ^ 16)) (s.heat t)
  | _ => .next s

end Sys2Proof.Machine
end

