-- ==== Sys2Proof/Machine/Link.lean ====
section
/-!
DEFINITION. The Cedor link (R334 to R339): the register window with every register of the spec, the memory
window, holds, and the link's falls and rises.
-/
namespace Sys2Proof.Machine

/-! ### Reading registers (R335, R345, R352, R373, R378, R382, R384, R392, R402, R405) -/

/-- Identity and link. DESIGN CHOICE (log entry 12). -/
def State.identityReg (s : State) (off : Nat) : Nat :=
  match off with
  | 0x00 => 0x0AC23100
  | 0x10 => bool01 s.link.up + s.link.retrained * 2 ^ 8 + s.link.malacc * 2 ^ 16
  | _ => 0

/-- Hall registers, by offset from 0x1000; those of R335 read as zero before STAGE 5 (R385). -/
def State.hallReg (s : State) (off : Nat) : Nat :=
  let ready := s.sec.stage == 5
  let a := s.hall
  match off with
  | 0x000 => if ready then a.hcnt.toNat else 0
  | 0x008 => if ready then a.dseql.toNat else 0
  | 0x010 => if ready then a.inflight (fun _ => true) else 0
  | 0x018 => a.ywin
  | 0x020 => a.age
  | 0x028 => a.cl0q.toNat
  | 0x030 => a.dlmiss.toNat
  | 0x038 => a.yields.toNat
  | 0x040 => a.hstops.toNat
  | 0x100 => a.atbase.toNat
  | 0x108 => a.atlim
  | 0x110 => a.ivchan.toNat
  | 0x118 => a.ivaddr.toNat
  | 0x128 => a.ivseq
  | _ => 0

/-- QCTL of queue q (R345). -/
def State.qctl (s : State) (q : Nat) : Nat :=
  let b := s.hall.queue q
  bool01 b.en + bool01 b.cfgerr * 2 ^ 2 + bool01 (s.cpend q) * 2 ^ 3 + bool01 b.resetting * 2 ^ 4 +
    s.hall.inflight (fun L => L.queue == q) * 2 ^ 16

/-- The state block of queue q. -/
def State.queueReg (s : State) (q off : Nat) : Nat :=
  let b := s.hall.queue q
  if s.sec.stage != 5 then 0
  else
    match off with
    | 0x00 => b.accepted
    | 0x08 => b.started
    | 0x10 => b.completed
    | 0x18 => b.qlist.toNat
    | 0x20 => b.done.toNat
    | 0x28 => s.qctl q
    | 0x30 => b.lerr.toNat
    | 0x38 => b.letpc.toNat
    | _ => 0

/-- The fabric block, by offset from 0x20_0000. -/
def State.fabricReg (s : State) (off : Nat) : Nat :=
  let f := s.fab
  match off with
  | 0x00 => bool01 f.den + bool01 f.dmis * 2
  | 0x08 => f.dord
  | 0x10 => fld f.dmemb.toNat 0 64
  | 0x18 => fld f.dmemb.toNat 64 64
  | 0x20 => f.cto
  | 0x28 => f.mbuf
  | 0x30 => s.dbase
  | 0x40 => f.unreach.toNat
  | 0x48 => f.ctout.toNat
  | 0x50 => f.sfault.toNat
  | 0x58 => f.mspill.toNat
  | _ => 0

/-- A register of a port, by offset in its 64 bytes. -/
def Port.reg (p : Port) (off : Nat) : Nat :=
  match off with
  | 0x00 => bool01 p.up + p.peer * 2 ^ 8 + p.peerPort * 2 ^ 16
  | 0x08 => p.pcrc.toNat
  | 0x10 => p.preplay.toNat
  | 0x18 => p.pdown.toNat
  | 0x20 => p.plost.toNat
  | _ => 0

/-- The security block, by offset from 0x30_0000. -/
def State.securityReg (s : State) (off : Nat) : Nat :=
  let c := s.sec
  if 0x10 ≤ off && off < 0x30 then leValue (slice c.fwdig (off - 0x10) 8)
  else if 0x80 ≤ off && off < 0xA0 then leValue (slice c.nonce (off - 0x80) 8)
  else if 0x100 ≤ off && off < 0x140 then
    leValue (slice (idpubBytes ++ List.replicate 4 0) (off - 0x100) 8)
  else
    match off with
    | 0x00 => c.bootst
    | 0x08 => c.fwver
    | 0x40 => c.reclen
    | 0xA0 => c.aout.toNat
    | 0xB0 => bool01 c.report.isSome + c.code * 2 ^ 8 + c.reports % 2 ^ 32 * 2 ^ 32
    | 0xB8 => leafEnd - c.nextLeaf
    | _ => 0

/-- Sixteen clock codes from quad `lo`; each is 0 during a thermal throttle (R407). DEDUCED (log entry 48). -/
def Reliability.clocks (r : Reliability) (lo : Nat) : Nat :=
  if r.throttled then 0
  else total ((List.finRange 32).map (fun q =>
    if lo ≤ q.val && q.val < lo + 16 then r.qclk[q] * 2 ^ (4 * (q.val - lo)) else 0))

/-- The telemetry block, by offset from 0x40_0000. -/
def Reliability.reg (r : Reliability) (off : Nat) : Nat :=
  match off with
  | 0x00 => r.cehbm.toNat
  | 0x08 => r.cecache.toNat
  | 0x10 => r.cecore.toNat
  | 0x18 => r.cefetch.toNat
  | 0x20 => r.uecnt.toNat
  | 0x28 => r.uelast.toNat
  | 0x30 => r.tempmax
  | 0x38 => r.pwr
  | 0x40 => r.plim
  | 0x48 => r.clocks 0
  | 0x50 => r.clocks 16
  | 0x58 => bool01 r.throttled + bool01 r.tripped * 2
  | _ => 0

/-- The register at an offset that is a multiple of 8; an offset that no chapter assigns reads as zero, and
so does a write-only register (R334). DEDUCED (log entry 44). -/
def State.register (s : State) (off : Nat) : Nat :=
  if off < 0x1000 then s.identityReg off
  else if off < 0x2000 then s.hallReg (off - 0x1000)
  else if off < 0x100000 then 0
  else if off < 0x110000 then s.queueReg ((off - 0x100000) / 64) (off % 64)
  else if off < 0x200000 then 0
  else if off < 0x201000 then s.fabricReg (off - 0x200000)
  else if off < 0x201400 then ((s.fab.routes.get ((off - 0x201000) / 8)).getD 0).toNat
  else if off < 0x202000 then 0
  else if off < 0x202600 then ((s.fab.ports[(off - 0x202000) / 64]?).map (fun p => p.reg (off % 64))).getD 0
  else if off < 0x300000 then 0
  else if off < 0x400000 then s.securityReg (off - 0x300000)
  else s.rel.reg (off - 0x400000)

/-! ### Transactions (R334, R336, R338) -/

/-- The host can send a transaction of a class. DEDUCED (log entry 44). DESIGN CHOICE (log entry 50). -/
def State.hostSends (s : State) (cls : TrafficClass) : Bool := s.link.up && !s.link.holdIn[cls]

/-- The size of the register window. -/
def registerWindow : Nat := 0x4000000
/-- The size of the memory window. -/
def memoryWindow : Nat := 2 ^ 39

/-- An access that the register window admits. -/
def regAccessOk (off size : Nat) : Bool := (size == 4 || size == 8) && off % size == 0

/-- A size and alignment of a read or a write of memory (R336). -/
def memAccessOk (off size : Nat) : Bool :=
  (if size == 1 || size == 2 || size == 4 || size == 8 then off % size == 0
   else size % 16 == 0 && decide (16 ≤ size) && decide (size ≤ 256) && off % 16 == 0) &&
  decide (off + size ≤ memoryWindow)

/-- MALFORMED_ACCESS (R334): a read returns all ones, a write is ignored, MALACC counts up to its limit. -/
def execMalformedAccess (s : State) : Result :=
  match s.input with
  | .malformedAccess off size store =>
    let s' := { s with link := { s.link with malacc := min 0xFFFF (s.link.malacc + 1) } }
    whenEnabled s
      (s.hostCan && decide (off < registerWindow) && decide (0 < size) && !regAccessOk off size)
      (if store then s' else s'.answer (List.replicate size 0xFF))
  | _ => .next s

/-- HOST_READ (R334, R336). -/
def execHostRead (s : State) : Result :=
  match s.input with
  | .hostRead .registers off size cls =>
    whenEnabled s (s.hostSends cls && decide (off < registerWindow) && regAccessOk off size)
      (s.answer (slice (leBytes 8 (s.register (downTo 8 off))) (off % 8) size))
  | .hostRead .memory off size cls =>
    whenEnabled s (s.hostSends cls && memAccessOk off size) (s.answer (s.outerRead (s.dbase + off) size))
  | _ => .next s

/-- HOST_WRITE to the memory window (R336). -/
def execHostWrite (s : State) : Result :=
  match s.input with
  | .hostWrite off bytes cls =>
    whenEnabled s (s.hostSends cls && memAccessOk off bytes.length) (s.outerWrite (s.dbase + off) bytes)
  | _ => .next s

/-- HOST_ATOMIC (R336). -/
def execHostAtomic (s : State) : Result :=
  match s.input with
  | .hostAtomic op off wide x e cls =>
    let n := if wide then 8 else 4
    let (t, old) := s.outerAtomic op (s.dbase + off) n x.toNat e.toNat
    whenEnabled s (s.hostSends cls && off % n == 0 && decide (off + n ≤ memoryWindow)) (t.answer old)
  | _ => .next s

/-- HOST_LMOVE between two descriptors of the memory window (R136, R336). -/
def execHostLmove (s : State) : Result :=
  match s.input with
  | .hostLmove a b cls =>
    let (t, n) := s.outerMove (s.dbase + a) (s.dbase + b)
    whenEnabled s
      (s.hostSends cls && a % 16 == 0 && b % 16 == 0 && decide (a + 16 ≤ memoryWindow) &&
        decide (b + 16 ≤ memoryWindow)) (t.answer n)
  | _ => .next s

/-! ### Writing registers -/

/-- DORD := d: this device's memory now begins at the new DBASE (R392, R394). DEDUCED (log entry 45). -/
def State.setOrdinal (s : State) (d : Nat) : State :=
  if s.fab.den || d == s.fab.dord then s
  else
    { s with
      mem := s.mem.swap s.fab.dord d
      poison := swapSectors s.fab.dord d s.poison
      fab := { s.fab with dord := d } }

/-- A write to a hall register of R352, R373 or R378, by offset from 0x1000. -/
def Hall.writeReg (a : Hall) (off v : Nat) : Hall :=
  match off with
  | 0x018 => if fld v 0 32 == 0 then a else { a with ywin := fld v 0 32 }
  | 0x020 => { a with age := fld v 0 48 }
  | 0x028 => { a with cl0q := BitVec.ofNat 32 v }
  | 0x100 => { a with atbase := BitVec.ofNat 64 v }
  | 0x108 => if 4096 < v then a else { a with atlim := v }
  | 0x110 => { a with ivchan := BitVec.ofNat 64 v }
  | 0x118 => { a with ivaddr := BitVec.ofNat 64 v }
  | _ => a

/-- A write to QLIST or DONE of a queue: ignored while EN = 1, and before STAGE 5 (R345, R385). -/
def State.writeQueue (s : State) (q off v : Nat) : State :=
  if s.sec.stage != 5 || (s.hall.queue q).en then s
  else
    match off with
    | 0x18 => s.mapQueue q (fun b => { b with qlist := BitVec.ofNat 64 v })
    | 0x20 => s.mapQueue q (fun b => { b with done := BitVec.ofNat 64 v })
    | _ => s

/-- A write to a register of the fabric block without behaviour of its own, by offset from 0x20_0000. -/
def State.writeFabric (s : State) (off v : Nat) : State :=
  match off with
  | 0x08 => s.setOrdinal (fld v 0 7)
  | 0x20 => if fld v 0 32 == 0 then s else { s with fab := { s.fab with cto := fld v 0 32 } }
  | 0x28 =>
    if 4096 ≤ v && v ≤ 0x4000000 then { s with fab := { s.fab with mbuf := v } } else s
  | _ => s

/-- A write to the security block, by offset from 0x30_0000. -/
def Security.writeReg (c : Security) (off v : Nat) : Security :=
  match off with
  | 0x40 => { c with reclen := v }
  | 0x80 => { c with anonce := c.anonce.set 0 (BitVec.ofNat 64 v) }
  | 0x88 => { c with anonce := c.anonce.set 1 (BitVec.ofNat 64 v) }
  | 0x90 => { c with anonce := c.anonce.set 2 (BitVec.ofNat 64 v) }
  | 0x98 => { c with anonce := c.anonce.set 3 (BitVec.ofNat 64 v) }
  | 0xA0 => { c with aout := BitVec.ofNat 64 v }
  | _ => c

/-- A write of value v that is an event of its own: QCTL, IVCTL, DCTL and DMEMB, a 1 in RECGO or ACTL, and an action
of FRESP that is not reserved, with no reserved bit; any other write to these three is ignored (R382, R388, R391). -/
def hasBehaviour (off v : Nat) : Bool :=
  (decide (0x100000 ≤ off) && decide (off < 0x110000) && off % 64 == 0x28) ||
  [0x1120, 0x200000, 0x200010, 0x200018].contains off ||
  ([0x300048, 0x3000A8].contains off && v == 1) || (off == 0x1130 && decide (v < 2 ^ 49))

/-- Write a whole register; a read-only or unassigned offset ignores the write. The value of YWIN, AGE, CL0Q, CTO,
DORD and ROUTE is the named field of what is written, and of ATLIM, MBUF and PLIM all 64 bits of it, so that one
outside the range that the spec gives is ignored. DESIGN CHOICE (log entry 55). -/
def State.writeRegister (s : State) (off v : Nat) : State :=
  if 0x1000 ≤ off && off < 0x2000 then s.mapHall (fun a => a.writeReg (off - 0x1000) v)
  else if 0x100000 ≤ off && off < 0x110000 then s.writeQueue ((off - 0x100000) / 64) (off % 64) v
  else if 0x200000 ≤ off && off < 0x201000 then s.writeFabric (off - 0x200000) v
  else if 0x201000 ≤ off && off < 0x201400 then
    State.meetStanding
      { s with fab := { s.fab with routes := s.fab.routes.set ((off - 0x201000) / 8) (BitVec.ofNat 24 v) } }
  else if 0x300000 ≤ off && off < 0x400000 then { s with sec := s.sec.writeReg (off - 0x300000) v }
  else if off == 0x400040 && 1000 ≤ v && v ≤ 2800 then { s with rel := { s.rel with plim := v } }
  else s

/-- HOST_REGISTER_WRITE (R334): a write of 4 bytes leaves the register's other half. -/
def execHostRegisterWrite (s : State) : Result :=
  match s.input with
  | .hostRegisterWrite off size v cls =>
    let reg := downTo 8 off
    let new := if size == 8 then v.toNat else putBits (s.register reg) (8 * (off % 8)) 32 v.toNat
    whenEnabled s
      (s.hostSends cls && decide (off < registerWindow) && regAccessOk off size && !hasBehaviour reg new)
      (s.writeRegister reg new)
  | _ => .next s

/-! ### Holds (R338) -/

/-- Raise or lower a hold. -/
def Link.setHold (l : Link) (dir : LinkDir) (cls : TrafficClass) (on : Bool) : Link :=
  match dir with
  | .toDevice => { l with holdIn := l.holdIn.set cls on }
  | .toHost => { l with holdOut := l.holdOut.set cls on }

/-- A class is held. -/
def Link.held (l : Link) (dir : LinkDir) (cls : TrafficClass) : Bool :=
  match dir with
  | .toDevice => l.holdIn[cls]
  | .toHost => l.holdOut[cls]

/-- LINK_HOLD. -/
def execLinkHold (s : State) : Result :=
  match s.input with
  | .linkHold dir cls =>
    whenEnabled s (s.link.up && !s.link.held dir cls) { s with link := s.link.setHold dir cls true }
  | _ => .next s

/-- LINK_HOLD_RELEASE. -/
def execLinkHoldRelease (s : State) : Result :=
  match s.input with
  | .linkHoldRelease dir cls =>
    whenEnabled s (s.link.up && s.link.held dir cls)
      { s with link := s.link.setHold dir cls false }
  | _ => .next s

/-! ### The link's state (R339) -/

/-- LINK_DOWN. -/
def execLinkDown (s : State) : Result :=
  match s.input with
  | .linkDown =>
    whenEnabled s s.link.up { s with link := { s.link with up := false, downAt := s.hall.hcnt } }
  | _ => .next s

/-- The accesses of a hart that waited for the link go on. -/
def Hart.linked (h : Hart) : Hart :=
  { h with
    sentAt := none
    timedOut := false
    run := h.run.map (fun vs => vs.map (fun v => { v with sentAt := none, timedOut := false }))
    tags := h.tags.map (fun t => match t with
      | .busy f => .busy { f with since := none }
      | t => t) }

/-- LINK_UP: a retrain is counted, with no hold raised; accesses that waited go on. DEDUCED (log entry 44). -/
def execLinkUp (s : State) : Result :=
  match s.input with
  | .linkUp =>
    whenEnabled s (!s.link.up && s.sec.stage != 1)
      { s with
        link := { s.link with
          up := true
          retrained := min 0xFF (s.link.retrained + 1)
          holdIn := Vector.replicate 3 false
          holdOut := Vector.replicate 3 false }
        harts := s.harts.map Hart.linked }
  | _ => .next s

/-- 100 ms in hall ticks: the hall runs at 1.5 GHz (R1). DEDUCED (log entry 44). -/
def linkTimeout : Nat := 150000000

/-- The link is still down 100 ms after an access was sent (R339). DEDUCED (log entry 44). -/
def State.linkLate (s : State) (sent : Option Word) : Bool :=
  !s.link.up && sent.any (fun t => s.ticksSince t linkTimeout)

/-- The virtual processors whose access has waited for 100 ms. -/
def State.lateVps (s : State) (vs : List Vp) : List Vp :=
  vs.map (fun v => if s.linkLate v.sentAt then { v with timedOut := true } else v)

/-- LINK_ACCESS_TIMEOUT (R339): the access to host memory on which a hart or a transfer waits fails. -/
def execLinkAccessTimeout (s : State) : Result :=
  match s.input with
  | .linkAccessTimeout k none =>
    onHart k s (fun h =>
      if h.status != .running then none
      else some (s.setHart k { h with timedOut := h.timedOut || s.linkLate h.sentAt, run := h.run.map s.lateVps }))
  | .linkAccessTimeout k (some t) =>
    match s.transferOf k t with
    | some (h, f) =>
      match f.since with
      | some (sent, va, write) =>
        let kind : AccKind := if write then .store else .load
        whenEnabled s (s.linkLate (some sent))
          ((Ctx.withPages ⟨h, s⟩ f).failTransfer k t f.transfer (hallFault kind causeUncorr va 0 6 0xFF))
      | none => .next s
    | none => .next s
  | _ => .next s

end Sys2Proof.Machine
end

