-- ==== Sys2Proof/Machine/VMask.lean ====
section
/-!
DEFINITION. Compares (major 0x19, R165) and mask instructions (major 0x1A, R166 to R169).
-/
namespace Sys2Proof.Machine

/-! ### Conditions (R165) -/

/-- A condition on two exact values, with its flags. -/
def condHolds (cond : Cond) (a b : Val) : Bool × Flags :=
  let nan := a.isNan || b.isNan
  let signalling := flagIf (a.isSnan || b.isSnan) flagNV
  let x := a.cmp b
  match cond with
  | .eq => (!nan && x == 0, signalling)
  | .ne => (nan || x != 0, signalling)
  | .lt => (!nan && decide (x < 0), flagIf nan flagNV)
  | .le => (!nan && decide (x ≤ 0), flagIf nan flagNV)
  | .gt => (!nan && decide (0 < x), flagIf nan flagNV)
  | .ge => (!nan && decide (0 ≤ x), flagIf nan flagNV)
  | .un => (nan, signalling)
  | .ord => (!nan, signalling)

/-- ATHR as an operand: F32, or I32 when bit 32 is set (R165). -/
def Hart.athrSrc (h : Hart) : Src :=
  let v := h.athr.toNat
  scalarSrc (if bitAt v 32 then .int true 32 else .flt fmtF32) (BitVec.ofNat 64 (v % 2 ^ 32))

/-- The second operand of a compare, and its refusal. -/
def Hart.cmpSrc (h : Hart) (tick : Nat) (a : VReg) : CmpOperand → Src × Option Nat
  | .vec b => (h.src tick b, h.useFault tick useArith b)
  | .athr => (h.athrSrc, none)
  | .scalar x => (h.scalarArg tick a x, none)

/-- VCMP under a condition. -/
def Ctx.compare (c : Ctx) (cond : Cond) (d : MReg) (a : VReg) (b : CmpOperand) (m : Bool) : HRes :=
  let h := c.h
  let t := c.s.tick
  let (y, fault) := h.cmpSrc t a b
  let x := h.src t a
  c.guarded false [h.useFault t useArith a, fault]
    (c.compute (c.act m) id
      (fun e => let (r, fl) := condHolds cond (x.val e) (y.val e); (bool01 r, fl))
      (fun h' e v => h'.setMask d e (v == 1)))

/-- VCMP.EQ (R165). -/
def execVcmpEq (d : MReg) (a : VReg) (b : CmpOperand) (m ca : Bool) (s : State) : Result :=
  runHart (.vcmpEq d a b m ca) s (fun c => c.compare .eq d a b m)

/-- VCMP.NE (R165). -/
def execVcmpNe (d : MReg) (a : VReg) (b : CmpOperand) (m ca : Bool) (s : State) : Result :=
  runHart (.vcmpNe d a b m ca) s (fun c => c.compare .ne d a b m)

/-- VCMP.LT (R165). -/
def execVcmpLt (d : MReg) (a : VReg) (b : CmpOperand) (m ca : Bool) (s : State) : Result :=
  runHart (.vcmpLt d a b m ca) s (fun c => c.compare .lt d a b m)

/-- VCMP.LE (R165). -/
def execVcmpLe (d : MReg) (a : VReg) (b : CmpOperand) (m ca : Bool) (s : State) : Result :=
  runHart (.vcmpLe d a b m ca) s (fun c => c.compare .le d a b m)

/-- VCMP.GT (R165). -/
def execVcmpGt (d : MReg) (a : VReg) (b : CmpOperand) (m ca : Bool) (s : State) : Result :=
  runHart (.vcmpGt d a b m ca) s (fun c => c.compare .gt d a b m)

/-- VCMP.GE (R165). -/
def execVcmpGe (d : MReg) (a : VReg) (b : CmpOperand) (m ca : Bool) (s : State) : Result :=
  runHart (.vcmpGe d a b m ca) s (fun c => c.compare .ge d a b m)

/-- VCMP.UN (R165). -/
def execVcmpUn (d : MReg) (a : VReg) (b : CmpOperand) (m ca : Bool) (s : State) : Result :=
  runHart (.vcmpUn d a b m ca) s (fun c => c.compare .un d a b m)

/-- VCMP.OR (R165). -/
def execVcmpOr (d : MReg) (a : VReg) (b : CmpOperand) (m ca : Bool) (s : State) : Result :=
  runHart (.vcmpOr d a b m ca) s (fun c => c.compare .ord d a b m)

/-! ### Mask logic (R166) -/

/-- Write md[e] for each active e, every mask read as it stood at issue. -/
def Ctx.maskWrite (c : Ctx) (d : MReg) (m : Bool) (f : Nat → Bool) : HRes :=
  c.compute (c.act m) id (fun e => (bool01 (f e), noFlags)) (fun h e v => h.setMask d e (v == 1))

/-- MAND (R166). -/
def execMand (d a b : MReg) (m : Bool) (s : State) : Result :=
  runHart (.mand d a b m) s (fun c =>
    c.maskWrite d m (fun e =>
      let x := c.h.mask c.s.tick a e
      let y := c.h.mask c.s.tick b e
      x && y))

/-- MOR (R166). -/
def execMor (d a b : MReg) (m : Bool) (s : State) : Result :=
  runHart (.mor d a b m) s (fun c =>
    c.maskWrite d m (fun e =>
      let x := c.h.mask c.s.tick a e
      let y := c.h.mask c.s.tick b e
      x || y))

/-- MXOR (R166). -/
def execMxor (d a b : MReg) (m : Bool) (s : State) : Result :=
  runHart (.mxor d a b m) s (fun c =>
    c.maskWrite d m (fun e =>
      let x := c.h.mask c.s.tick a e
      let y := c.h.mask c.s.tick b e
      x != y))

/-- MANDN (R166). -/
def execMandn (d a b : MReg) (m : Bool) (s : State) : Result :=
  runHart (.mandn d a b m) s (fun c =>
    c.maskWrite d m (fun e =>
      let x := c.h.mask c.s.tick a e
      let y := c.h.mask c.s.tick b e
      x && !y))

/-- MNOT (R166). -/
def execMnot (d a : MReg) (m : Bool) (s : State) : Result :=
  runHart (.mnot d a m) s (fun c => c.maskWrite d m (fun e => !c.h.mask c.s.tick a e))

/-- The first active index at which ma is set. A replay of a form that has overwritten ma below VSTART finds it there
where an active bit is 0: MSBF left ones before it and a zero at it (R295). DEDUCED (log entry 17). -/
def Ctx.firstSet (c : Ctx) (d a : MReg) (m : Bool) : Option Nat :=
  let act := (List.range c.h.vl).filter (c.act m)
  let bit := c.h.mask c.s.tick a
  if d = a && c.h.replay.isSome && act.any (fun e => decide (e < c.h.vstart) && !bit e) then some 0
  else if d = a && c.h.replay.isSome then act.find? (fun e => decide (c.h.vstart ≤ e) && bit e)
  else act.find? bit

/-- A stop falls inside the instruction, before its last element. -/
def Hart.stopsWithin (h : Hart) : Bool :=
  match h.stopAt with
  | some n => decide (h.groupCeil n < h.vl)
  | none => false

/-- MSBF: set before the first active index at which ma is set (R166). Where md is the predicate, a stop falls before
the instruction, because its replay could not tell an index it has cleared from an inactive one (R295). DEDUCED (log
entry 17). -/
def execMsbf (d a : MReg) (m : Bool) (s : State) : Result :=
  runHart (.msbf d a m) s (fun c =>
    let first := c.firstSet d a m
    if m && decide (d = c.h.predReg) && c.h.stopsWithin then .hold c
    else c.maskWrite d m (fun e => match first with | some i => decide (e < i) | none => true))

/-! ### Counts and words (R167, R168) -/

/-- An instruction that runs whole and writes one X register; VSTART is left 0 (R116).
DEDUCED (log entry 17). -/
def Ctx.wholeX (c : Ctx) (d : XReg) (w : Word) : HRes :=
  c.put { c.h.setX d w with vstart := 0 }

/-- The active indices from VSTART at which ma is set. -/
def Ctx.setIndices (c : Ctx) (a : MReg) (m : Bool) : List Nat :=
  (c.actives m).filter (c.h.mask c.s.tick a)

/-- MCNT (R167). -/
def execMcnt (d : XReg) (a : MReg) (m : Bool) (s : State) : Result :=
  runHart (.mcnt d a m) s (fun c => c.whole (fun c =>
    c.wholeX d (BitVec.ofNat 64 (c.setIndices a m).length)))

/-- MFFS: −1 when there is none (R167). -/
def execMffs (d : XReg) (a : MReg) (m : Bool) (s : State) : Result :=
  runHart (.mffs d a m) s (fun c => c.whole (fun c =>
    c.wholeX d (match c.setIndices a m with
      | [] => BitVec.allOnes 64
      | e :: _ => BitVec.ofNat 64 e)))

/-- MTOX: word k of ma; k outside 0 to 511 is ILLEGAL, detail 5 (R168). -/
def execMtox (d : XReg) (a : MReg) (b : XReg) (m : Bool) (s : State) : Result :=
  runHart (.mtox d a b m) s (fun c =>
    let k := c.h.getU b
    if 512 ≤ k then .trap c (.illegal 5)
    else c.whole (fun c =>
      let bits := (List.range 64).map (fun i =>
        let e := 64 * k + i
        decide (c.h.vstart ≤ e) && decide (e < c.h.vl) && c.act m e && c.h.mask c.s.tick a e)
      c.wholeX d (BitVec.ofNat 64 (bitsValue bits))))

/-- MXTOM: word k of md from xa (R168). -/
def execMxtom (d : MReg) (a b : XReg) (m : Bool) (s : State) : Result :=
  runHart (.mxtom d a b m) s (fun c =>
    let k := c.h.getU b
    if 512 ≤ k then .trap c (.illegal 5)
    else
      let act := c.act m
      c.compute (fun e => e / 64 == k && act e) id
        (fun e => (bool01 (bitAt (c.h.getU a) (e % 64)), noFlags)) (fun h e v => h.setMask d e (v == 1)))

/-! ### The prefix count (R169) -/

/-- MPREF: active indices below e at which ma is set, into vd's tag (R169). -/
def execMpref (d : VReg) (a : MReg) (m : Bool) (s : State) : Result :=
  runHart (.mpref d a m) s (fun c =>
    let h := c.h
    let t := c.s.tick
    let act := c.act m
    c.arith d m [] (fun e =>
      let n := ((List.range e).filter (fun i => act i && h.mask t a i)).length
      (h.kind t d).fromInt (h.vecRounding e) n))

end Sys2Proof.Machine
end

