-- ==== Sys2Proof/Machine/Loop.lean ====
section
/-!
DEFINITION. The loop test VWHILE (major 0x2B, R236, R237): it runs whole, and its early window changes
timing only.
-/
namespace Sys2Proof.Machine

/-- The second operand as a compare's. -/
def loopOperand : LoopOperand → CmpOperand
  | .vec v => .vec v
  | .scalar x => .scalar x

/-- VWHILE under a condition (R236). DEDUCED (log entry 51). -/
def Ctx.loopTest (c : Ctx) (cond : Cond) (a : VReg) (b : LoopOperand) (off : BitVec 10) : HRes :=
  let h := c.h
  let t := c.s.tick
  let (y, fault) := h.cmpSrc t a (loopOperand b)
  let x := h.src t a
  c.guarded false [h.useFault t useArith a, fault]
    (c.whole (fun c =>
      let es := List.range h.vl
      let outs := es.map (fun e => (e, condHolds cond (x.val e) (y.val e)))
      let h1 := forEach outs h (fun (h : Hart) o => h.orFlags o.2.2)
      match outs.findSome? (fun o => (h.enabledFlag o.2.2).map (fun b => (o.1, b))) with
      | some (e, b) => .trap { c with h := h1 } (.fpx b e (some 0))
      | none =>
        let f := ((outs.find? (fun o => !o.2.1)).map (·.1)).getD h.vl
        let h2 : Hart := { forEach es h1 (fun (h : Hart) e => h.setMask 0 e (decide (e < f))) with vstart := 0 }
        if f == h.vl && 0 < h.vl then
          .goto { c with h := h2 } (h.pc - 4 * off.setWidth 64)
        else .done { c with h := h2 }))

/-- VWHILE.EQ (R236). -/
def execVwhileEq (a : VReg) (b : LoopOperand) (off : BitVec 10) (s : State) : Result :=
  runHart (.vwhileEq a b off) s (fun c => c.loopTest .eq a b off)

/-- VWHILE.NE (R236). -/
def execVwhileNe (a : VReg) (b : LoopOperand) (off : BitVec 10) (s : State) : Result :=
  runHart (.vwhileNe a b off) s (fun c => c.loopTest .ne a b off)

/-- VWHILE.LT (R236). -/
def execVwhileLt (a : VReg) (b : LoopOperand) (off : BitVec 10) (s : State) : Result :=
  runHart (.vwhileLt a b off) s (fun c => c.loopTest .lt a b off)

/-- VWHILE.LE (R236). -/
def execVwhileLe (a : VReg) (b : LoopOperand) (off : BitVec 10) (s : State) : Result :=
  runHart (.vwhileLe a b off) s (fun c => c.loopTest .le a b off)

/-- VWHILE.GT (R236). -/
def execVwhileGt (a : VReg) (b : LoopOperand) (off : BitVec 10) (s : State) : Result :=
  runHart (.vwhileGt a b off) s (fun c => c.loopTest .gt a b off)

/-- VWHILE.GE (R236). -/
def execVwhileGe (a : VReg) (b : LoopOperand) (off : BitVec 10) (s : State) : Result :=
  runHart (.vwhileGe a b off) s (fun c => c.loopTest .ge a b off)

/-- VWHILE.UN (R236). -/
def execVwhileUn (a : VReg) (b : LoopOperand) (off : BitVec 10) (s : State) : Result :=
  runHart (.vwhileUn a b off) s (fun c => c.loopTest .un a b off)

/-- VWHILE.OR (R236). -/
def execVwhileOr (a : VReg) (b : LoopOperand) (off : BitVec 10) (s : State) : Result :=
  runHart (.vwhileOr a b off) s (fun c => c.loopTest .ord a b off)

end Sys2Proof.Machine
end

