-- ==== Sys2Proof/Machine/Shaft.lean ====
section
/-!
DEFINITION. The shaft: operator slots (major 0x22, R191 to R196), the operators and the butterfly passes
(majors 0x23 and 0x24, R197 to R207), and the best-k merge (major 0x25, R208).
-/
namespace Sys2Proof.Machine

/-! ### Descriptors (R192 to R194) -/

/-- KIND of a descriptor. -/
def opKind (w : Nat) : Nat := fld w 0 4
/-- VTAG of a descriptor. -/
def opVtag (w : Nat) : Nat := fld w 4 6
/-- CTAG of a descriptor. -/
def opCtag (w : Nat) : Nat := fld w 10 6
/-- TIE of a descriptor. -/
def opTie (w : Nat) : Bool := bitAt w 16
/-- DIR of a descriptor. -/
def opDir (w : Nat) : Bool := bitAt w 17
/-- LOWER of a descriptor. -/
def opLower (w : Nat) : Nat := fld w 24 12
/-- UPPER of a descriptor. -/
def opUpper (w : Nat) : Nat := fld w 36 12

/-- Source A of a CUSTOM expression (R193). -/
def exprA (x : Nat) : Nat := fld x 4 4
/-- Source B of a CUSTOM expression. -/
def exprB (x : Nat) : Nat := fld x 0 4
/-- The operation of a CUSTOM expression. -/
def exprOp (x : Nat) : Nat := fld x 8 4

/-- An expression names a source. -/
def exprNames (x src : Nat) : Bool := exprA x == src || exprB x == src

/-- F16, BF16, F32 or F64. -/
def Kind.isIeee (k : Kind) : Bool := k.isFlt && !k.isNarrow

/-- VTAG and CTAG are admitted for the kind (R194). -/
def opTagsOk (w : Nat) : Bool :=
  let v := kindOf (opVtag w)
  let c := kindOf (opCtag w)
  let any := fun (k : Kind) => k != .reserved && !k.isSliced
  match opKind w with
  | 0 => (v.isIN || v.isFlt) && c.isIN
  | 1 => (v.isIN || v.isIeee) && opVtag w == opCtag w
  | 4 => (v.isIN || v.isIeee) && opVtag w == opCtag w
  | 2 => v.isIeee && any c
  | 3 => any v && any c
  | _ => (v.isIN || v.isIeee) && (c.isIN || c.isIeee)

/-- An expression with no reserved code, and with B zero under pass (R193). -/
def exprOk (x : Nat) : Bool :=
  decide (exprOp x ≤ 6) && decide (exprA x ≤ 5) && decide (exprB x ≤ 5) && (exprOp x != 0 || exprB x == 0)

/-- The status of OPLOAD (R195). -/
def opStatus (w : Nat) : Nat :=
  let custom := opKind w == 8
  if !([0, 1, 2, 3, 4, 8].contains (opKind w)) then 1
  else if !opTagsOk w then 2
  else if fld w 56 8 != 0 || (custom && [opLower w, opUpper w].any (fun x => exprNames x 14 || exprNames x 15))
  then 3
  else if fld w 48 8 != 0 || fld w 18 6 != 0 || (opKind w != 0 && (opTie w || opDir w)) ||
      (if custom then !(exprOk (opLower w) && exprOk (opUpper w)) else opLower w != 0 || opUpper w != 0)
  then 4
  else 0

/-- The operator reads the node constant k (R203). -/
def opReadsK (w : Nat) : Bool :=
  opKind w == 2 || (opKind w == 8 && (exprNames (opLower w) 4 || exprNames (opUpper w) 4))

/-- The operator rounds into a floating tag (R410). -/
def opRounds (w : Nat) : Bool :=
  [1, 2, 4, 8].contains (opKind w) && ((kindOf (opVtag w)).isFloating || (kindOf (opCtag w)).isFloating)

/-! ### The slots (R195, R196) -/

/-- OPLOAD (R195). -/
def execOpload (d a : XReg) (slot : Slot) (s : State) : Result :=
  runHart (.opload d a slot) s (fun c =>
    let w := c.h.getX a
    let st := opStatus w.toNat
    let h : Hart := if st == 0 then { c.h with op := c.h.op.set slot (some w) } else c.h
    c.put (h.setN d st))

/-- OPQRY (R196). -/
def execOpqry (d : XReg) (slot : Slot) (s : State) : Result :=
  runHart (.opqry d slot) s (fun c => c.putX d (c.h.op[slot].getD 0))

/-- OPCLR (R196). -/
def execOpclr (slot : Slot) (s : State) : Result :=
  runHart (.opclr slot) s (fun c => c.put { c.h with op := c.h.op.set slot none })

/-! ### Nodes (R197 to R201) -/

/-- A node of a stage: its elements, its constant bit, and its constant value as an operand. -/
structure Node where
  lo : Nat
  hi : Nat
  kb : Bool
  k : Src

/-- What a node reads and is given by: the hart before the stage, the registers, the descriptor. -/
structure Shaft where
  h : Hart
  tick : Nat
  v : VReg
  c : VReg
  w : Nat

/-- The value register as an operand. -/
def Shaft.vs (p : Shaft) : Src := p.h.src p.tick p.v
/-- The companion register as an operand. -/
def Shaft.cs (p : Shaft) : Src := p.h.src p.tick p.c

/-- A constant integer as an operand, of a signed 64-bit integer tag. DEDUCED (log entry 63). -/
def intSrc (v : Int) : Src := ⟨.int true 64, fun _ => .ofInt v, fun _ => v⟩

/-- A source of a CUSTOM expression (R193). -/
def Shaft.source (p : Shaft) (n : Node) : Nat → Src
  | 0 => p.vs.at n.lo
  | 1 => p.vs.at n.hi
  | 2 => p.cs.at n.lo
  | 3 => p.cs.at n.hi
  | 4 => n.k.at n.lo
  | _ => intSrc 0

/-- A CUSTOM expression, rounded once into a kind (R201). -/
def Shaft.expr (p : Shaft) (n : Node) (kd : Kind) (rd : Rounding) (x : Nat) : Nat × Flags :=
  let a := p.source n (exprA x)
  let b := p.source n (exprB x)
  let bin := fun (op : VOp) => binElem op kd (p.h.kw kd) a b rd 0
  match exprOp x with
  | 0 => a.into kd rd
  | 1 => bin .add
  | 2 => bin .sub
  | 3 => bin .mul
  | 4 => bin .min
  | 5 => bin .max
  | _ => (if n.kb then a else b).into kd rd

/-- Values ranked as CMPX ranks them: NaN above +∞ (R197). -/
def cmpxRank (a b : Val) : Int :=
  match a.isNan, b.isNan with
  | true, true => 0
  | true, false => 1
  | false, true => -1
  | false, false => a.rank b

/-- Swap the slots of a pair in both registers. -/
def Shaft.swap (p : Shaft) (n : Node) (h : Hart) : Hart :=
  let move := fun (h : Hart) (r : VReg) =>
    let k := p.h.kind p.tick r
    (h.setElem p.tick k r n.lo (p.h.elem p.tick k r n.hi)).setElem p.tick k r n.hi (p.h.elem p.tick k r n.lo)
  move (move h p.v) p.c

/-- CMPX swaps the pair (R197). -/
def Shaft.cmpxSwaps (p : Shaft) (n : Node) : Bool :=
  let down := opDir p.w != n.kb
  let r := cmpxRank (p.vs.val n.lo) (p.vs.val n.hi)
  let (cl, ch) := (p.cs.int n.lo, p.cs.int n.hi)
  if down then decide (r < 0) || (opTie p.w && r == 0 && decide (cl < ch))
  else decide (0 < r) || (opTie p.w && r == 0 && decide (ch < cl))

/-- The sum of two operands into a kind. -/
def sumInto (kd : Kind) (rd : Rounding) (a b : Src) : Nat × Flags := binElem .add kd 64 a b rd 0

/-- What a node does: its flags, and its writes (R197 to R201). Everything is read from before the stage. -/
def Shaft.node (p : Shaft) (n : Node) : Flags × (Hart → Hart) :=
  let t := p.tick
  let kv := p.h.kind t p.v
  let kc := p.h.kind t p.c
  let rd := p.h.vecRounding n.lo
  let rdHi := p.h.vecRounding n.hi
  let putV := fun (e x : Nat) (h : Hart) => h.setElem t kv p.v e x
  let putC := fun (e x : Nat) (h : Hart) => h.setElem t kc p.c e x
  let hiv := p.vs.at n.hi
  let loc := p.cs.at n.lo
  let hic := p.cs.at n.hi
  match opKind p.w with
  | 0 => (0, if p.cmpxSwaps n then p.swap n else id)
  | 1 =>
    let (v, f) := sumInto kv rdHi hiv loc
    let (x, g) := sumInto kc rd loc hic
    (f ||| g, fun h => putC n.hi x (putC n.lo x (putV n.hi v h)))
  | 4 =>
    let fv := p.h.mask t 11 n.hi
    let lfc := p.h.mask t 10 n.lo
    let hfc := p.h.mask t 10 n.hi
    let (v, f) := if fv then (0, 0) else sumInto kv rdHi hiv loc
    let (x, g) := if hfc then (p.h.elem t kc p.c n.hi, 0) else sumInto kc rd loc hic
    (f ||| g, fun h =>
      let h := if fv then h else putV n.hi v h
      let h := putC n.hi x (putC n.lo x (h.setMask 11 n.hi (fv || lfc)))
      (h.setMask 10 n.lo (lfc || hfc)).setMask 10 n.hi (lfc || hfc))
  | 2 =>
    let k := n.k.val n.lo
    let lo := p.vs.val n.lo
    let hi := p.vs.val n.hi
    let (a, f) := kv.fromReal rd (k.fma rd.rm hi lo)
    let (b, g) := kv.fromReal rdHi (k.negate.fma rd.rm hi lo)
    (f ||| g, fun h => putV n.hi b (putV n.lo a h))
  | 3 => (0, if n.kb then p.swap n else id)
  | _ =>
    let (a, f) := p.expr n kv rd (opLower p.w)
    let (b, g) := p.expr n kv rdHi (opUpper p.w)
    (f ||| g, fun h => putV n.hi b (putV n.lo a h))

/-! ### Stages (R204, R205, R207) -/

/-- The nodes of a stage that are active: (lo, lo + 2^s) below VL (R204). -/
def stageNodes (vl s : Nat) (kb : Nat → Bool) (k : Src) : List Node :=
  ((List.range vl).filter (fun lo => !bitAt lo s && decide (lo + 2 ^ s < vl))).map (fun lo =>
    ⟨lo, lo + 2 ^ s, kb lo, k⟩)

/-- PASSST while position `next` is the next to run (R207). DEDUCED (log entry 25). -/
def Hart.passState (h : Hart) (slot : Slot) (next : Nat) : Word :=
  BitVec.ofNat 64 (fld h.pc.toNat 2 32 * 2 ^ 16 + 256 + next * 16 + slot.val)

/-- The position at which a pass starts (R207). -/
def Hart.passStart (h : Hart) (slot : Slot) : Nat :=
  let w := h.passst.toNat
  if bitAt w 8 && fld w 16 32 == fld h.pc.toNat 2 32 && fld w 0 4 == slot.val then fld w 4 4 else 0

/-- One stage: its flags in FPCSR and its writes, or FPX at the lowest node that raised an enabled flag. -/
def Ctx.passStage (c : Ctx) (d e : VReg) (slot : Slot) (w p : Nat) (nodes : List Node) : Ctx ⊕ (Ctx × Trap) :=
  let sh : Shaft := ⟨c.h, c.s.tick, d, e, w⟩
  let outs := nodes.map (fun n => (n.lo, sh.node n))
  let flagged : Ctx := { c with h := forEach outs c.h (fun (h : Hart) o => h.orFlags o.2.1) }
  match outs.findSome? (fun o => (c.h.enabledFlag o.2.1).map (fun b => (o.1, b))) with
  | some (lo, b) =>
    .inr ({ flagged with h := { flagged.h with passst := c.h.passState slot p } }, .fpx b lo (some 0))
  | none => .inl { flagged with h := forEach outs flagged.h (fun (h : Hart) o => o.2.2 h) }

/-- Stages from position p on: `start` is where the pass started. A hard stop falls between two stages.
DEDUCED (log entry 25). -/
def Ctx.passStages (d e : VReg) (slot : Slot) (w : Nat) (kb : Nat → Bool) (k : Src) (start : Nat) :
    Nat → List Nat → Ctx → HRes
  | _, [], c => c.put { c.h with passst := 0, vstart := 0 }
  | p, s :: rest, c =>
    if c.h.stopAt.any (fun n => decide (n ≤ p)) then
      if p == start then .stop c 0
      else .stop { c with h := { c.h with passst := c.h.passState slot p } } 0
    else
      match c.passStage d e slot w p (stageNodes c.h.vl s kb k) with
      | .inr (c, t) => .trap c t
      | .inl c => Ctx.passStages d e slot w kb k start (p + 1) rest c

/-- The refusals of a pass's registers (R205): a tag other than the descriptor's, wider than EW, scaled or
blocked. -/
def Hart.passFaults (h : Hart) (tick : Nat) (r : VReg) (code : Nat) : List (Option Nat) :=
  [needTag (h.tag tick r == code), h.useFault tick useRaw r]

/-- A pass over the stages listed (R204): an empty slot is NOOP; `late` is a refusal at issue that comes
after NOOP, and `faults` the further ILLCFG refusals under a descriptor. -/
def Ctx.pass (c : Ctx) (d e : VReg) (slot : Slot) (late : Bool) (stages : List Nat)
    (faults : Nat → List (Option Nat)) (kb : Nat → Bool) (k : Src) : HRes :=
  match c.h.op[slot] with
  | none => .trap c (.plain causeNoop 0)
  | some w =>
    let w := w.toNat
    let t := c.s.tick
    if late then .trap c (.illegal 5)
    else c.guarded (opRounds w) (c.h.passFaults t d (opVtag w) ++ c.h.passFaults t e (opCtag w) ++ faults w)
      (if c.h.vl == 0 then c.put { c.h with vstart := 0 }
       else
         let start := c.h.passStart slot
         Ctx.passStages d e slot w kb k start start (stages.drop start) c)

/-- The constant bit of a node of PASS (R202). -/
def passBit (ksrc : KSrc) (first lo : Nat) : Bool :=
  match ksrc with
  | .none => false
  | .bit => bitAt lo (first + 1)
  | .all => true

/-- PASS (R202). The constant k is 1 or −1 of a signed 64-bit integer tag. DEDUCED (log entry 63). -/
def execPass (d c : VReg) (slot first : Slot) (cnt : BitVec 3) (desc : Bool) (ksrc : KSrc) (s : State) : Result :=
  runHart (.pass d c slot first cnt desc ksrc) s (fun x =>
    let kb := passBit ksrc first.val
    let k : Src := ⟨.int true 64, fun lo => .ofInt (if kb lo then -1 else 1), fun lo => if kb lo then -1 else 1⟩
    let stages := (List.range (cnt.toNat + 1)).map (fun p => if desc then first.val - p else first.val + p)
    x.pass d c slot false stages (fun _ => []) kb k)

/-- The refusals of Vk (R203). -/
def Hart.vkFaults (h : Hart) (tick : Nat) (r : VReg) (w : Nat) : List (Option Nat) :=
  let k := h.kind tick r
  [h.useFault tick useRaw r, needTag (!opReadsK w || k.isIN || k.isFloating)]

/-- PASSK (R203): the stages of PSEQ. -/
def execPassk (d c k : VReg) (slot : Slot) (s : State) : Result :=
  runHart (.passk d c k slot) s (fun x =>
    let h := x.h
    let t := x.s.tick
    let n := fld h.pseq.toNat 32 4
    let stages := (List.range n).map (fun p => fld h.pseq.toNat (4 * p) 4)
    x.pass d c slot (decide (n < 1) || decide (8 < n)) stages (fun w => h.vkFaults t k w)
      (fun lo => bitAt (h.elem t (h.kind t k) k lo) 0) (h.src t k))

/-! ### The best-k merge (R208) -/

/-- The lowest value of a tag: −∞, or the negative largest finite value, or the least integer. -/
def Kind.lowest : Kind → Nat
  | .flt f => 2 ^ (f.width - 1) + f.maxCode + bool01 f.hasInf
  | .int true w => 2 ^ (w - 1)
  | _ => 0

/-- Rank of pairs: value descending with +0 above −0, then companion ascending. -/
def pairBefore (a b : Val × Int × α) : Bool :=
  let r := a.1.rank b.1
  decide (0 < r) || (r == 0 && decide (a.2.1 < b.2.1))

/-- VMERGEK (R208). -/
def execVmergek (d c : VReg) (k : XReg) (m ca : Bool) (s : State) : Result :=
  runHart (.vmergek d c k m ca) s (fun x =>
    let h := x.h
    let t := x.s.tick
    let kd := h.kind t d
    let kc := h.kind t c
    let n := h.getU k
    if n < 1 || 64 < n then .trap x (.illegal 5)
    else x.guarded false
      [h.useFault t useArith d, h.useFault t useArith c, needTag (kd.isIN || kd.isFlt), needTag kc.isIN]
      (x.whole (fun x =>
        let es := ((List.range h.vl).filter (x.act m)).filter (fun e => !(h.value t kd d e).isNan)
        let ranked := sortBy pairBefore (es.map (fun e =>
          (h.value t kd d e, kc.intVal (h.elem t kc c e), (h.elem t kd d e, h.elem t kc c e))))
        let h' := forEach (List.range (min n h.vl)) h (fun (h' : Hart) i =>
          let (v, y) := match ranked[i]? with
            | some p => p.2.2
            | none => (kd.lowest, 2 ^ h.kw kc - 1)
          (h'.setElem t kd d i v).setElem t kc c i y)
        x.put { h' with vstart := 0 })))

end Sys2Proof.Machine
end

