-- ==== Sys2Proof/Machine/Sparse.lean ====
section
/-!
DEFINITION. Sparse tile loads and the prefetch hint (major 0x1F, R181 to R184).
-/
namespace Sys2Proof.Machine

/-! ### Shape records (R181) -/

/-- A shape record. -/
structure ShapeRec where
  vbase : Nat
  mbase : Nat
  mstride : Nat
  rcptr : Nat
  nval : Nat
  brows : Nat
  vtag : Nat
  reserved : Nat
  deriving DecidableEq, Repr

/-- The record whose 48 bytes have the value v. -/
def shapeOf (v : Nat) : ShapeRec where
  vbase := fld v 0 64
  mbase := fld v 64 64
  mstride := fld v 128 64
  rcptr := fld v 192 64
  nval := fld v 256 32
  brows := fld v 288 8
  vtag := fld v 296 8
  reserved := fld v 304 80

/-- A format a shape record may name: I or N, F16 to F64, narrow floating (R181). -/
def shapeTagOk (ew code : Nat) : Bool :=
  let k := if code < 64 then kindOf code else .reserved
  (k.isIN || k.isFlt) && decide (k.width ew ≤ ew)

/-- What a sparse load has found before it writes: its record, the row bits in element order, and nr. -/
structure Shape where
  rec_ : ShapeRec
  bits : List Bool
  nr : Nat

/-- Why a sparse load does not go on. -/
inductive ShapeStop where
  | trap (c : Ctx) (t : Trap)
  | hold (sent : Option (Nat × AccKind))

/-- A fault found before any element is written, reported at VSTART (R183). -/
def shapeFault (start : Nat) : MemStop → ShapeStop
  | .wait sent _ => .hold sent
  | .fault m c => .trap c (m.trap start (some start))

/-- SHAPE with a detail and TELEM; TADDR is the record (R183). -/
def shapeTrap (c : Ctx) (base : Nat) (detail elem : Nat) : ShapeStop :=
  .trap c ⟨causeShape, detail, BitVec.ofNat 64 base, elem, some c.h.vstart, noInfo, false, false⟩

/-- The record: 48 bytes of the scratchpad, aligned to 16. -/
def Ctx.shapeRecord (c : Ctx) (base : Nat) : Got (Nat × Ctx) := do
  if base % 16 != 0 then .error (.fault (plainFault causeMisalign 0 base) c)
  else if c.h.scratchSize < base + 48 then
    .error (.fault (plainFault causePerm 0 (max base (min c.h.scratchSize (base + 48)))) c)
  else
    let (_, c) ← c.interlock base 48 false
    .ok (c.h.scratch.readLe c.s.tick base 48, c)

/-- MISALIGN of the addresses a record names (R183), after detail 2 of SHAPE and before its details 1 and 0; TADDR is the
value that is misaligned. DEDUCED (log entry 60). -/
def shapeMisaligned (r : ShapeRec) (held : Bool) (z : Nat) : Option Nat :=
  if r.mbase % 8 != 0 then some r.mbase
  else if r.mstride % 8 != 0 then some r.mstride
  else if held && r.rcptr % 8 != 0 then some r.rcptr
  else if r.vbase % z != 0 then some r.vbase
  else none

/-- The bits of the columns of one bitmap row. -/
def Ctx.bitmapBytes (c : Ctx) (at_ : Nat) : Nat → Got (List Byte × Ctx)
  | 0 => .ok ([], c)
  | n + 1 => do
    let (bs, c) ← c.bitmapBytes at_ n
    let (b, c) ← c.vload ((at_ + n) % 2 ^ 64) 1
    .ok (bs ++ [BitVec.ofNat 8 b], c)

/-- The first `cols` bits of a list of bytes. -/
def bitsOfBytes (cols : Nat) (bs : List Byte) : List Bool :=
  let v := leValue bs
  (List.range cols).map (bitAt v)

/-- Rows 0 to nr − 1 of the bitmap, one after another. -/
def Ctx.bitmapRows (c : Ctx) (r : ShapeRec) (cols : Nat) : Nat → Got (List Bool × Ctx)
  | 0 => .ok ([], c)
  | n + 1 => do
    let (rows, c) ← c.bitmapRows r cols n
    let at_ := ofInt 64 ((r.mbase : Int) + toSigned 64 r.mstride * (n : Nat))
    let (bs, c) ← c.bitmapBytes at_ ((cols + 7) / 8)
    .ok (rows ++ bitsOfBytes cols bs, c)

/-- The checks of R182, in order; `held` says that the counts come from the count word (VLDSH). TELEM of detail 2, which
R182 does not give, is 0. DEDUCED (log entry 60). -/
def Ctx.readShape (c : Ctx) (base : Nat) (held : Bool) : Except ShapeStop (Shape × Ctx) := do
  let start := c.h.vstart
  let (v, c) ← (c.shapeRecord base).mapError (shapeFault start)
  let r := shapeOf v
  if r.reserved != 0 || (if held then r.nval != 0 else r.rcptr != 0) || r.brows < 1 || 16 < r.brows ||
      !shapeTagOk c.h.ew r.vtag then .error (shapeTrap c base 2 0)
  else
    match shapeMisaligned r held (imageSize ((kindOf r.vtag).width c.h.ew)) with
    | some a => .error (.trap c ((plainFault causeMisalign 0 a).trap start (some start)))
    | none =>
      let (cw, c) ← if held then (c.vload r.rcptr 8).mapError (shapeFault start)
        else .ok (r.nval * 2 ^ 32 + r.brows, c)
      let nr := fld cw 0 32
      if r.brows < nr || c.h.vrows < nr then .error (shapeTrap c base 1 nr)
      else
        let (bits, c) ← (c.bitmapRows r c.h.vcols nr).mapError (shapeFault start)
        let pc := (bits.filter id).length
        if pc != fld cw 32 32 then .error (shapeTrap c base 0 pc)
        else .ok (⟨r, bits, nr⟩, c)

/-- The address of the packed value that element e consumes. -/
def Shape.place (sh : Shape) (z e : Nat) : Nat :=
  (sh.rec_.vbase + z * ((sh.bits.take e).filter id).length) % 2 ^ 64

/-- Element e consumes a packed value. -/
def Shape.bit (sh : Shape) (e : Nat) : Bool := (sh.bits[e]?).getD false

/-- What a sparse load stands on while it is incomplete at `start` (R183). -/
def Ctx.seen (c : Ctx) (base : Nat) (held : Bool) (act : Nat → Bool) (start : Nat) (broken : Bool) : ShapeSeen :=
  let record := if base % 16 == 0 && base + 48 ≤ c.h.scratchSize then some (c.h.scratch.readLe c.s.tick base 48)
    else none
  match record with
  | none => ⟨c.h.pc, start, none, none, [], [], broken⟩
  | some v =>
    let r := shapeOf v
    let counts := if held then c.peek r.rcptr 8 else some (r.nval * 2 ^ 32 + r.brows)
    let rows := min 16 (fld (counts.getD 0) 0 32)
    let bits := (List.range rows).flatMap (fun n => (List.range c.h.vcols).map (fun q =>
      let at_ := ofInt 64 ((r.mbase : Int) + toSigned 64 r.mstride * (n : Nat))
      (c.peek ((at_ + q / 8) % 2 ^ 64) 1).map (fun b => bitAt b (q % 8))))
    let z := imageSize ((kindOf r.vtag).width c.h.ew)
    let sh : Shape := ⟨r, bits.map (fun b => b.getD false), rows⟩
    let values := if bits.all Option.isSome then
        (fromTo start c.h.vl).map (fun e => if act e && sh.bit e then c.peek (sh.place z e) z else none)
      else []
    ⟨c.h.pc, start, some v, counts, bits, values, broken⟩

/-- The record, the counts, the bitmap or a value has changed while the load was incomplete (R183). -/
def ShapeSeen.changed (old new : ShapeSeen) : Bool :=
  old.pc == new.pc && old.start == new.start &&
    (old.broken || differ [old.record] [new.record] || differ [old.counts] [new.counts] ||
      differ old.bits new.bits || differ old.values new.values)

/-- A sparse load that stays incomplete keeps what it stands on; one that completes forgets it. -/
def HRes.keepSeen (see : Ctx → Nat → ShapeSeen) : HRes → HRes
  | .done c => .done { c with h := { c.h with shapeSeen := none } }
  | .trap c t => .trap { c with h := { c.h with shapeSeen := t.idx.map (see c) } } t
  | .stop c idx => .stop { c with h := { c.h with shapeSeen := some (see c idx) } } idx
  | r => r

/-- A sparse tile load (R182). Where what it stands on has changed midway, its elements from VSTART are free values
(R183). DESIGN CHOICE (log entry 7). -/
def Ctx.sparseLoad (c : Ctx) (d : VReg) (base : XReg) (m held : Bool) : HRes :=
  let h := c.h
  let t := c.s.tick
  let see := fun (c : Ctx) (start : Nat) (broken : Bool) => c.seen (h.getU base) held (c.act m) start broken
  let loose := fun (c : Ctx) => h.shapeSeen.any (fun old => old.changed (see c h.vstart false))
  c.guarded false [needLayout (h.blk == 0)]
    (if h.vl == 0 then c.put { h with vstart := 0 }
    else
      match c.readShape (h.getU base) held with
      | .error (.hold sent) => c.holds sent
      | .error (.trap c tr) => (HRes.trap c tr).keepSeen (fun c start => see c start (loose c))
      | .ok (sh, c') =>
        let k := kindOf sh.rec_.vtag
        let z := imageSize (k.width h.ew)
        let tagged : Ctx := { c' with h := c'.h.setTag d sh.rec_.vtag }
        let free := loose c'
        let val := fun (e v : Nat) => if free then (Config.undefWord t (2000000 + e)).toNat else v
        let r := tagged.elementwise (c.act m) id (fun e c =>
          if sh.bit e then
            elemMem e (c.vload (sh.place z e) z) (fun v c => .ok { c with h := c.h.setElem t k d e (val e v) })
          else .ok { c with h := c.h.setElem t k d e (val e 0) })
        match r with
        | .hold c' => .hold { c' with h := { c.h with sentAt := c'.h.sentAt, sentPage := c'.h.sentPage } }
        | r => r.keepSeen (fun c start => see c start free))

/-- VLDSP (R182). -/
def execVldsp (d : VReg) (base : XReg) (m : Bool) (s : State) : Result :=
  runHart (.vldsp d base m) s (fun c => c.sparseLoad d base m false)

/-- VLDSH (R182). -/
def execVldsh (d : VReg) (base : XReg) (m : Bool) (s : State) : Result :=
  runHart (.vldsh d base m) s (fun c => c.sparseLoad d base m true)

/-- VPREF: a hint with no effect, VSTART as it was (R184). -/
def execVpref (base : XReg) (s : State) : Result := runHart (.vpref base) s (fun c => .done c)

end Sys2Proof.Machine
end

