-- ==== Sys2Proof/Machine/Transform.lean ====
section
/-!
DEFINITION. The transform unit (major 0x2D, R243 to R246): run lengths, deltas, planes and sectors. The
fixed-length modes resume through VSTART, the variable-length modes through XFRI.
-/
namespace Sys2Proof.Machine

/-! ### XFRI and the variable-length modes (R244) -/

/-- The fields of XFRI. -/
structure Xfr where
  out : Nat
  run : Nat
  inp : Nat

/-- XFRI as its fields. -/
def Hart.xfr (h : Hart) : Xfr := ⟨fld h.xfri.toNat 48 16, fld h.xfri.toNat 16 32, fld h.xfri.toNat 0 16⟩

/-- Write XFRI. -/
def Hart.setXfr (h : Hart) (x : Xfr) : Hart :=
  { h with xfri := BitVec.ofNat 64 (x.out % 2 ^ 16 * 2 ^ 48 + x.run % 2 ^ 32 * 2 ^ 16 + x.inp % 2 ^ 16) }

/-- One unit of a variable-length mode: it goes on, it has nothing more to do, or it traps. -/
inductive XStep where
  | more (h : Hart) (x : Xfr)
  | finished
  | bad (t : Trap)

/-- Units of a variable-length mode in order; a hard stop falls at an element group boundary of what
`progress` counts. DEDUCED (log entry 35): vd takes its tag, by `fin`, only when the instruction completes. -/
def Ctx.units (stop : Option Nat) (progress : Xfr → Nat) (fin : Hart → Hart) (f : Hart → Xfr → XStep) :
    (fuel : Nat) → Xfr → Ctx → HRes
  | 0, x, c => c.put { (fin c.h).setXfr x with vstart := 0 }
  | fuel + 1, x, c =>
    match f c.h x with
    | .finished => c.put { (fin c.h).setXfr x with vstart := 0 }
    | .bad t => .trap { c with h := c.h.setXfr x } t
    | .more h x' =>
      if stop.any (fun n => decide (n ≤ progress x)) then .stop { c with h := c.h.setXfr x } 0
      else Ctx.units stop progress fin f fuel x' { c with h := h }

/-- A variable-length mode (R244). -/
def Ctx.variable (c : Ctx) (progress : Xfr → Nat) (fin : Hart → Hart) (f : Hart → Xfr → XStep) : HRes :=
  let h := c.h
  let x := h.xfr
  let stop := match h.stopAt with
    | none => none
    | some n => if h.groupCeil n < h.vl then some (h.groupCeil n) else none
  if h.vl == 0 then c.put { h with vstart := 0 }
  else if stop.any (fun n => decide (n ≤ progress x)) then .hold c
  else Ctx.units stop progress fin f (2 * h.vl + 2) x c

/-! ### Refusals (R245) -/

/-- BLK = 0, which .RLE, .DELTA and .SECT need. -/
def Hart.unblocked (h : Hart) : Option Nat := needLayout (h.blk == 0)

/-! ### Run lengths -/

/-- The bits of a tag at an element. -/
def Hart.bitsAt (h : Hart) (tick : Nat) (k : Kind) (a : VReg) (e : Nat) : Nat := h.elem tick k a e

/-- One step of VXFD.RLE: the pair at IN gives one more of its value, or is used up.
DEDUCED (log entry 35). -/
def rleDecode (tick : Nat) (k : Kind) (d a : VReg) (pairs : Nat) (h : Hart) (x : Xfr) : XStep :=
  let i := x.inp / 2
  let count := h.bitsAt tick k a (2 * i + 1) % 2 ^ 32
  if pairs ≤ i then .finished
  else if count ≤ x.run then .more h ⟨x.out, 0, 2 * i + 2⟩
  else if h.vl ≤ x.out then .finished
  else
    let h' := h.setElem tick k d x.out (h.bitsAt tick k a (2 * i))
    if x.run + 1 == count then .more h' ⟨x.out + 1, 0, 2 * i + 2⟩ else .more h' ⟨x.out + 1, x.run + 1, 2 * i⟩

/-- The length of the run of equal bits from element e, below n and at most `most`. -/
def runLength (f : Nat → Nat) (n e : Nat) : (most : Nat) → Nat
  | 0 => 0
  | m + 1 => if e < n then (if f e == f (e + 1) && e + 1 < n then runLength f n (e + 1) m + 1 else 1) else 0

/-- One step of VXFE.RLE: the longest run from IN becomes a pair. DEDUCED (log entry 35). -/
def rleEncode (tick : Nat) (k : Kind) (d a : VReg) (n : Nat) (h : Hart) (x : Xfr) : XStep :=
  if n ≤ x.inp || h.vl ≤ x.out + 1 then .finished
  else
    let w := h.kw k
    let most := min (min (2 ^ w - 1) (2 ^ 32 - 1)) (n - x.inp)
    let len := runLength (h.bitsAt tick k a) n x.inp most
    let h' := (h.setElem tick k d x.out (h.bitsAt tick k a x.inp)).setElem tick k d (x.out + 1) len
    .more h' ⟨x.out + 2, x.run, x.inp + len⟩

/-- VXFD.RLE (R245). -/
def execVxfdRle (d a : VReg) (b : XReg) (ca : Bool) (s : State) : Result :=
  runHart (.vxfdRle d a b ca) s (fun c =>
    let h := c.h
    let t := c.s.tick
    c.guarded false [h.unblocked, h.useFault t useArith a]
      (c.variable Xfr.out (fun h' => h'.setTag d (h.tag t a))
        (rleDecode t (h.kind t a) d a (min (h.getU b) (h.vl / 2)))))

/-- VXFE.RLE (R245). -/
def execVxfeRle (d a : VReg) (b : XReg) (ca : Bool) (s : State) : Result :=
  runHart (.vxfeRle d a b ca) s (fun c =>
    let h := c.h
    let t := c.s.tick
    c.guarded false [h.unblocked, h.useFault t useArith a]
      (c.variable Xfr.inp (fun h' => h'.setTag d (h.tag t a))
        (rleEncode t (h.kind t a) d a (min (h.getU b) h.vl))))

/-! ### Deltas -/

/-- The refusals of .DELTA: I or N tags, both equal. DEDUCED (log entry 35). -/
def Hart.deltaFaults (h : Hart) (tick : Nat) (d a : VReg) : List (Option Nat) :=
  [h.unblocked, h.useFault tick useArith a, h.useFault tick useArith d, needTag (h.kind tick a).isIN,
   needTag (h.tag tick d == h.tag tick a)]

/-- VXFD.DELTA: running sums from the seed (R245). -/
def execVxfdDelta (d a : VReg) (b : XReg) (ca : Bool) (s : State) : Result :=
  runHart (.vxfdDelta d a b ca) s (fun c =>
    let t := c.s.tick
    let k := c.h.kind t a
    let seed := c.h.getU b
    c.guarded false (c.h.deltaFaults t d a) (c.elementwise (fun _ => true) id (fun e c =>
      let prev := if e == 0 then seed else c.h.elem t k d (e - 1)
      .ok { c with h := c.h.setElem t k d e (prev + c.h.elem t k a e) })))

/-- VXFE.DELTA: differences from the seed (R245). -/
def execVxfeDelta (d a : VReg) (b : XReg) (ca : Bool) (s : State) : Result :=
  runHart (.vxfeDelta d a b ca) s (fun c =>
    let t := c.s.tick
    let k := c.h.kind t a
    let w := c.h.kw k
    let seed := c.h.getU b
    c.guarded false (c.h.deltaFaults t d a) (c.elementwise (fun _ => true) id (fun e c =>
      let prev := if e == 0 then seed else c.h.elem t k a (e - 1)
      .ok { c with h := c.h.setElem t k d e (c.h.elem t k a e + (2 ^ w - prev % 2 ^ w)) })))

/-! ### Planes -/

/-- n bits of the string that 16-bit pieces make, from bit q upward (R245). -/
def stringBits (f : Nat → Nat) (q : Nat) : Nat → Nat
  | 0 => 0
  | n + 1 => stringBits f q n + 2 ^ n * bool01 (bitAt (f ((q + n) / 16)) ((q + n) % 16))

/-- VXFD.PLANE (R245). -/
def execVxfdPlane (d a : VReg) (b : XReg) (ca : Bool) (s : State) : Result :=
  runHart (.vxfdPlane d a b ca) s (fun c =>
    let h := c.h
    let t := c.s.tick
    let kd := h.kind t d
    let ka := h.kind t a
    let w := h.kw kd
    c.guarded false [needLayout (h.blk == 2), h.useFault t useBits d, h.useFault t useBits a, needTag kd.isBlock]
      (c.elementwise (fun _ => true) id (fun e c =>
        .ok { c with h := c.h.setElem t kd d e (stringBits (h.elem t ka a) (w * e) w) })))

/-- The bits of slot q of the packed string: bit i is bit (16q + i) mod w of element (16q + i) ÷ w below
VL. -/
def Hart.packedSlot (h : Hart) (tick : Nat) (k : Kind) (a : VReg) (q : Nat) : Nat → Nat
  | 0 => 0
  | n + 1 =>
    let i := 16 * q + n
    let w := h.kw k
    h.packedSlot tick k a q n +
      2 ^ n * (if i / w < h.vl then bool01 (bitAt (h.elem tick k a (i / w)) (i % w)) else 0)

/-- VXFE.PLANE (R245). -/
def execVxfePlane (d a : VReg) (b : XReg) (ca : Bool) (s : State) : Result :=
  runHart (.vxfePlane d a b ca) s (fun c =>
    let h := c.h
    let t := c.s.tick
    let ka := h.kind t a
    let slots := (h.vl * h.kw ka + 15) / 16
    c.guarded false [needLayout (h.blk == 2), h.useFault t useBits a, needTag ka.isBlock]
      (c.elementwise (fun e => decide (e < slots)) (fun h' => h'.setTag d 0) (fun e c =>
        .ok { c with h := c.h.setElem t .raw d e (h.packedSlot t ka a e 16) })))

/-! ### Sectors (R246) -/

/-- Byte q of a register's byte string: byte q mod 8 of the bits of element q ÷ 8. -/
def Hart.stringByte (h : Hart) (tick : Nat) (a : VReg) (q : Nat) : Nat :=
  fld (h.bitsAt tick (h.kind tick a) a (q / 8)) (8 * (q % 8)) 8

/-- Write byte q of a register's byte string. -/
def Hart.setStringByte (h : Hart) (tick : Nat) (d : VReg) (q v : Nat) : Hart :=
  let s := h.ordSpot (q / 8)
  h.writeSpot tick d ⟨s.key, s.lo + 8 * (q % 8)⟩ 8 v

/-- The length of an encoding by its header; none for a header of 3 or more. -/
def sectorLength (b : Nat) : Option Nat :=
  match b with
  | 0 => some 1 | 1 => some 9 | 2 => some 33 | _ => none

/-- One step of VXFD.SECT: the sector at IN becomes four elements at OUT. -/
def sectDecode (tick : Nat) (d a : VReg) (n : Nat) (h : Hart) (x : Xfr) : XStep :=
  if n ≤ x.inp then .finished
  else
    let byte := h.stringByte tick a
    match sectorLength (byte x.inp) with
    | none => .bad ⟨causeShape, 3, 0, x.inp, some 0, noInfo, false, false⟩
    | some len =>
      if n < x.inp + len || h.vl < x.out + 4 then .finished
      else
        let word := fun (i : Nat) => match byte x.inp with
          | 0 => 0
          | 1 => leValue ((List.range 8).map (fun j => BitVec.ofNat 8 (byte (x.inp + 1 + j))))
          | _ => leValue ((List.range 8).map (fun j => BitVec.ofNat 8 (byte (x.inp + 1 + 8 * i + j))))
        let h' := forEach (List.range 4) h (fun (h' : Hart) i =>
          h'.writeSpot tick d (h.ordSpot (x.out + i)) 64 (word i))
        .more h' ⟨x.out + 4, x.run, x.inp + len⟩

/-- One step of VXFE.SECT: four elements from IN become one sector at byte OUT. -/
def sectEncode (tick : Nat) (d a : VReg) (n : Nat) (h : Hart) (x : Xfr) : XStep :=
  if n < x.inp + 4 then .finished
  else
    let e := fun (i : Nat) => h.bitsAt tick (h.kind tick a) a (x.inp + i)
    let words := (List.range 4).map e
    let bytes :=
      if words.all (· == 0) then [0]
      else if words.all (· == e 0) then 1 :: (leBytes 8 (e 0)).map BitVec.toNat
      else 2 :: (words.flatMap (leBytes 8)).map BitVec.toNat
    if 8 * h.vl < x.out + bytes.length then .finished
    else
      let h' := forEach (withIndex x.out bytes) h (fun (h' : Hart) (q, v) => h'.setStringByte tick d q v)
      .more h' ⟨x.out + bytes.length, x.run, x.inp + 4⟩

/-- The refusals of .SECT: BLK = 0 and EW = 64. DEDUCED (log entry 18). -/
def Hart.sectFaults (h : Hart) (tick : Nat) (a : VReg) : List (Option Nat) :=
  [h.unblocked, needLayout (h.ew == 64), h.useFault tick useBits a]

/-- VXFD.SECT (R245, R246). -/
def execVxfdSect (d a : VReg) (b : XReg) (ca : Bool) (s : State) : Result :=
  runHart (.vxfdSect d a b ca) s (fun c =>
    let t := c.s.tick
    c.guarded false (c.h.sectFaults t a)
      (c.variable Xfr.out (fun h' => h'.setTag d 0) (sectDecode t d a (min (c.h.getU b) (8 * c.h.vl)))))

/-- VXFE.SECT (R245, R246). -/
def execVxfeSect (d a : VReg) (b : XReg) (ca : Bool) (s : State) : Result :=
  runHart (.vxfeSect d a b ca) s (fun c =>
    let t := c.s.tick
    c.guarded false (c.h.sectFaults t a)
      (c.variable Xfr.inp (fun h' => h'.setTag d 0)
        (sectEncode t d a (min (downTo 4 (c.h.getU b)) c.h.vl))))

end Sys2Proof.Machine
end

