-- ==== Sys2Proof/Machine/VPermute.lean ====
section
/-!
DEFINITION. Register permutations and bitmaps (major 0x20, R185 to R187), random draws and acceptance
(major 0x21, R188 to R190).
-/
namespace Sys2Proof.Machine

/-! ### What the permutations share (R185) -/

/-- A source of a permutation: any unblocked register no wider than EW. -/
def Hart.moveFaults (h : Hart) (tick : Nat) (a : VReg) : List (Option Nat) :=
  [h.useFault tick useBits a, needLayout (!h.blocked (h.kind tick a))]

/-- A register that carries an I or N tag no wider than EW. -/
def Hart.intFaults (h : Hart) (tick : Nat) (r : VReg) : List (Option Nat) :=
  [h.useFault tick useArith r, needTag (h.kind tick r).isIN]

/-- The active elements below VL; VSTART is read as 0. -/
def Ctx.allActive (c : Ctx) (m : Bool) : List Nat := (List.range c.h.vl).filter (c.act m)

/-- A permutation: it runs whole, leaves VSTART 0, and under VL = 0 writes nothing. DEDUCED (log entry 24). -/
def Ctx.permute (c : Ctx) (faults : List (Option Nat)) (f : Ctx → Hart) : HRes :=
  c.guarded false faults (c.whole (fun c =>
    if c.h.vl == 0 then c.put { c.h with vstart := 0 } else c.put { f c with vstart := 0 }))

/-- Copy slots of va to vd, (destination, source) in order, and give vd va's tag. -/
def Hart.moveSlots (h : Hart) (tick : Nat) (d a : VReg) (pairs : List (Nat × Nat)) : Hart :=
  let k := h.kind tick a
  let h' := forEach pairs h (fun (h' : Hart) (i, j) => h'.setElem tick k d i (h.elem tick k a j))
  h'.setTag d (h.tag tick a)

/-- A moving form. -/
def Ctx.moveForm (c : Ctx) (d a : VReg) (faults : List (Option Nat)) (pairs : Ctx → List (Nat × Nat)) : HRes :=
  c.permute (c.h.moveFaults c.s.tick a ++ faults) (fun c => c.h.moveSlots c.s.tick d a (pairs c))

/-- Write integers into vd's own tag. -/
def Hart.putInts (h : Hart) (tick : Nat) (d : VReg) (vs : List (Nat × Int)) : Hart :=
  let k := h.kind tick d
  forEach vs h (fun (h' : Hart) (e, v) => h'.setElem tick k d e (ofInt (h.kw k) v))

/-! ### Moving forms (R185) -/

/-- VCOMPRESS (R185). -/
def execVcompress (d a : VReg) (m ca : Bool) (s : State) : Result :=
  runHart (.vcompress d a m ca) s (fun c => c.moveForm d a [] (fun c => withIndex 0 (c.allActive m)))

/-- VEXPAND (R185). -/
def execVexpand (d a : VReg) (m ca : Bool) (s : State) : Result :=
  runHart (.vexpand d a m ca) s (fun c =>
    c.moveForm d a [] (fun c => (withIndex 0 (c.allActive m)).map (fun (i, e) => (e, i))))

/-- VSLDN (R185). -/
def execVsldn (d a : VReg) (b : XReg) (m ca : Bool) (s : State) : Result :=
  runHart (.vsldn d a b m ca) s (fun c =>
    let k := c.h.getU b
    c.moveForm d a [] (fun c =>
      ((c.allActive m).filter (fun e => decide (e + k < c.h.vl))).map (fun e => (e, e + k))))

/-- VSLUP (R185). -/
def execVslup (d a : VReg) (b : XReg) (m ca : Bool) (s : State) : Result :=
  runHart (.vslup d a b m ca) s (fun c =>
    let k := c.h.getU b
    c.moveForm d a [] (fun c =>
      ((c.allActive m).filter (fun e => decide (k ≤ e))).map (fun e => (e, e - k))))

/-- The index v(vb[e]) as a position below VL; none when it is out of range. -/
def Hart.indexOf (h : Hart) (tick : Nat) (b : VReg) (e : Nat) : Option Nat :=
  let k := h.kind tick b
  let i := k.intVal (h.elem tick k b e)
  if 0 ≤ i && i < (h.vl : Int) then some i.toNat else none

/-- VPULL: an index out of range gives an all-zero slot (R185). -/
def execVpull (d a b : VReg) (m ca cb : Bool) (s : State) : Result :=
  runHart (.vpull d a b m ca cb) s (fun c =>
    let t := c.s.tick
    c.permute (c.h.moveFaults t a ++ c.h.intFaults t b) (fun c =>
      let h := c.h
      let k := h.kind t a
      let h' := forEach (c.allActive m) h (fun (h' : Hart) e =>
        h'.setElem t k d e (match h.indexOf t b e with
          | some i => h.elem t k a i
          | none => 0))
      h'.setTag d (h.tag t a)))

/-- VPUSH: scatter within vd in ascending order; M11 reports what was not delivered (R187). -/
def execVpush (d a b : VReg) (m ca cb : Bool) (s : State) : Result :=
  runHart (.vpush d a b m ca cb) s (fun c =>
    let t := c.s.tick
    c.permute (c.h.moveFaults t a ++ c.h.intFaults t b) (fun c =>
      let h := c.h
      let es := c.allActive m
      let pairs := es.filterMap (fun e => (h.indexOf t b e).map (fun i => (i, e)))
      let lost := fun (e : Nat) =>
        match h.indexOf t b e with
        | none => true
        | some i => pairs.any (fun (j, e') => j == i && decide (e < e'))
      forEach es (h.moveSlots t d a pairs) (fun (h' : Hart) e => h'.setMask 11 e (lost e))))

/-! ### Searches and bitmaps (R185, R186) -/

/-- VCONF: the largest active index below e with the same bits, or −1 (R185); a raw va is admitted. DEDUCED (log
entry 61). -/
def execVconf (d a : VReg) (m ca : Bool) (s : State) : Result :=
  runHart (.vconf d a m ca) s (fun c =>
    let t := c.s.tick
    c.permute (c.h.moveFaults t a ++ c.h.intFaults t d) (fun c =>
      let h := c.h
      let k := h.kind t a
      let es := c.allActive m
      h.putInts t d (es.map (fun e =>
        let x := h.elem t k a e
        match (es.filter (fun i => decide (i < e) && h.elem t k a i == x)).getLast? with
        | some i => (e, (i : Int))
        | none => (e, -1)))))

/-- The set positions of the bitmap in va, ascending: bit p mod 64 of word p ÷ 64 (R186). -/
def Hart.bitmap (h : Hart) (tick : Nat) (a : VReg) : List Nat :=
  (List.range h.vl).flatMap (fun i =>
    let w := h.elem tick (.int false 64) a i
    ((List.range 64).filter (bitAt w)).map (fun j => 64 * i + j))

/-- The refusals of VRANK and VSELB: va carries N64, vb and vd I or N. -/
def Hart.bitmapFaults (h : Hart) (tick : Nat) (d a b : VReg) : List (Option Nat) :=
  [h.useFault tick useArith a, needTag (h.kind tick a == .int false 64)] ++ h.intFaults tick b ++
    h.intFaults tick d

/-- v(vb[e]). -/
def Hart.intAt (h : Hart) (tick : Nat) (b : VReg) (e : Nat) : Int :=
  let k := h.kind tick b
  k.intVal (h.elem tick k b e)

/-- VRANK: set bits below a position (R186). -/
def execVrank (d a b : VReg) (m ca cb : Bool) (s : State) : Result :=
  runHart (.vrank d a b m ca cb) s (fun c =>
    let t := c.s.tick
    c.permute (c.h.bitmapFaults t d a b) (fun c =>
      let h := c.h
      let set := h.bitmap t a
      h.putInts t d ((c.allActive m).map (fun e =>
        let p := (max 0 (min ((64 * h.vl : Nat) : Int) (h.intAt t b e))).toNat
        (e, ((set.filter (fun q => decide (q < p))).length : Int))))))

/-- VSELB: the position of the k-th set bit, or −1 (R186). -/
def execVselb (d a b : VReg) (m ca cb : Bool) (s : State) : Result :=
  runHart (.vselb d a b m ca cb) s (fun c =>
    let t := c.s.tick
    c.permute (c.h.bitmapFaults t d a b) (fun c =>
      let h := c.h
      let set := h.bitmap t a
      h.putInts t d ((c.allActive m).map (fun e =>
        let k := h.intAt t b e
        match (if k < 0 then none else set[k.toNat]?) with
        | some p => (e, (p : Int))
        | none => (e, -1)))))

/-! ### Random draws (R66, R188) -/

/-- The counter of element e: (xb + SB + e) mod 2^64. -/
def Hart.counter (h : Hart) (b : XReg) (e : Nat) : Nat := (h.getU b + h.sb.toNat + e) % 2 ^ 64

/-- VRND (R188). -/
def execVrnd (d : VReg) (b : XReg) (m : Bool) (s : State) : Result :=
  runHart (.vrnd d b m) s (fun c =>
    let h := c.h
    let t := c.s.tick
    let k := h.kind t d
    c.guarded false [h.useFault t useRaw d, needTag (k.isIN || k == .raw)]
      (c.compute (c.act m) id (fun e => (rng h.rkey.toNat (h.counter b e), noFlags)) (h.putResult t d)))

/-- The uniform of 64 bits in a format: F32 or F64 (R66). -/
def uniformOf (f : Fmt) (bits : Nat) : Val :=
  if f.width == 32 then .make false (bits / 2 ^ 40) (-24) else .make false (bits / 2 ^ 11) (-53)

/-- VRNDF (R188); the uniform is exact, so nothing is rounded. -/
def execVrndf (d : VReg) (b : XReg) (m : Bool) (s : State) : Result :=
  runHart (.vrndf d b m) s (fun c =>
    let h := c.h
    let t := c.s.tick
    let k := h.kind t d
    let f := if k == .flt fmtF32 then fmtF32 else fmtF64
    c.guarded false [h.useFault t useArith d, needTag (k == .flt fmtF32 || k == .flt fmtF64)]
      (c.compute (c.act m) id
        (fun e => ((f.round ⟨0, false, 0⟩ (uniformOf f (rng h.rkey.toNat (h.counter b e)))).1, noFlags))
        (h.putResult t d)))

/-! ### Acceptance (R189) -/

/-- a < b, false when one is a NaN. -/
def Val.below (a b : Val) : Bool := !a.isNan && !b.isNan && decide (a.cmp b < 0)

/-- Position e is accepted: p, q and the uniform u. DEDUCED (log entry 24). -/
def accepted (p q u : Val) : Bool :=
  match q with
  | .nan _ => u.below p
  | .zero _ => (Val.zero false).below p
  | .fin false m e st => (u.mul (.fin false m e st)).1.below p
  | _ => false

/-- VACC: positions below the first refusal (R189). -/
def execVacc (d : MReg) (a : VReg) (b : XReg) (ca : Bool) (s : State) : Result :=
  runHart (.vacc d a b ca) s (fun c =>
    let t := c.s.tick
    let q := nextReg a
    let floating := fun (r : VReg) => needTag (c.h.kind t r).isFloating
    c.guarded false [c.h.useFault t useArith a, c.h.useFault t useArith q, floating a, floating q]
      (c.whole (fun c =>
        let h := c.h
        let ok := fun (e : Nat) =>
          accepted (h.value t (h.kind t a) a e) (h.value t (h.kind t q) q e)
            (uniformOf fmtF64 (rng h.rkey.toNat ((h.getU b + 2 * e) % 2 ^ 64)))
        let j := ((List.range h.vl).find? (fun e => !ok e)).getD h.vl
        let h' := forEach (List.range h.vl) h (fun (h' : Hart) e => h'.setMask d e (decide (e < j)))
        c.put { h' with vstart := 0 })))

end Sys2Proof.Machine
end

