-- ==== Sys2Proof/Machine/VReduce.lean ====
section
/-!
DEFINITION. Reductions (major 0x1B, R170 to R172): canonical sums over partial registers (R68 to R72), and
the order-free reductions.
-/
namespace Sys2Proof.Machine

/-! ### Points (R170) -/

/-- A point at which flags are raised: the flags, and the element TELEM names there. -/
abbrev Point := Flags × Nat

/-- OR the flags of the points in order, up to the first one that raises an enabled flag.
DEDUCED (log entry 24). -/
def Hart.takePoints (h : Hart) : List Point → Hart × Option (Nat × Nat)
  | [] => (h, none)
  | (fl, e) :: rest =>
    let h := h.orFlags fl
    match h.enabledFlag fl with
    | some b => (h, some (b, e))
    | none => h.takePoints rest

/-- Go on when no point raises an enabled flag; else FPX, with nothing written and resume index `idx`. -/
def Ctx.afterPoints (c : Ctx) (pts : List Point) (idx : Nat) (k : Ctx → HRes) : HRes :=
  match c.h.takePoints pts with
  | (h, none) => k { c with h := h }
  | (h, some (b, e)) => .trap { c with h := h } (.fpx b e (some idx))

/-! ### Partial registers (R68) -/

/-- A kind a partial register may carry. -/
def Kind.partialOk : Kind → Bool
  | .flt f => f.width == 32 || f.width == 64
  | .int _ w => w == 32 || w == 64
  | _ => false

/-- Slot i of a partial register. -/
def Hart.partialSlot (h : Hart) (tick : Nat) (r : VReg) (w i : Nat) : Nat :=
  h.readSpot tick r (partialSpot w i) w

/-- One addition under a partial kind: rounded once, or modulo 2^n (R70, R71). -/
def Kind.plus (k : Kind) (rd : Rounding) (a b : Nat) : Nat × Flags :=
  match k with
  | .int _ w => ((a + b) % 2 ^ w, 0)
  | k => k.fromReal rd ((k.value a).add rd.rm (k.value b))

/-! ### The tree (R70) -/

/-- One stage: neighbours are added where both are present. -/
def treeStage (add : Nat → Nat → Nat × Flags) : List (Option Nat) → List (Option Nat) × List Flags
  | a :: b :: rest =>
    let (ns, fs) := treeStage add rest
    match a, b with
    | some x, some y => let (s, f) := add x y; (some s :: ns, f :: fs)
    | some x, none => (some x :: ns, fs)
    | none, y => (y :: ns, fs)
  | l => (l, [])

/-- The tree over 2^stages positions: its root, and the flags of its nodes in order. -/
def treeSum (add : Nat → Nat → Nat × Flags) : (stages : Nat) → List (Option Nat) → Option Nat × List Flags
  | 0, nodes => (nodes.head?.join, [])
  | n + 1, nodes =>
    let (next, fs) := treeStage add nodes
    let (r, gs) := treeSum add n next
    (r, fs ++ gs)

/-! ### VREDS and VDOTS (R69 to R71, R170) -/

/-- The blocks present among elements, ascending (R69). -/
def blocksOf (sb : Nat) (es : List Nat) : List Nat :=
  sortBy (fun a b => decide (a < b)) ((es.map (fun e => (sb + e) % 2 ^ 64 / 32)).eraseDups)

/-- The element at position i of block q. -/
def elementAt (sb q i : Nat) : Nat := (32 * q + i + (2 ^ 64 - sb % 2 ^ 64)) % 2 ^ 64

/-- One block added into its slot of `slots`, with the points of its additions. -/
def addBlock (k : Kind) (rd : Rounding) (sb : Nat) (es : List Nat) (leaf : Nat → Nat × Flags)
    (slots : List Nat) (q : Nat) : List Nat × List Point :=
  let here := ((List.range 32).map (elementAt sb q)).map (fun e => if es.contains e then some e else none)
  let low := (es.filter (fun e => (sb + e) % 2 ^ 64 / 32 == q)).foldl min (2 ^ 64)
  let leaves := here.map (fun e? => e?.map leaf)
  let (root, fs) := treeSum (k.plus rd) 5 (leaves.map (fun l? => l?.map (·.1)))
  let leafFlags := leaves.filterMap (fun l? => l?.map (·.2))
  match root with
  | none => (slots, [])
  | some b =>
    let i := q % 32
    let (s, f) := k.plus rd ((slots[i]?).getD 0) b
    (slots.set i s, (leafFlags ++ fs ++ [f]).map (fun fl => (fl, low)))

/-- Every block in turn. -/
def addBlocks (k : Kind) (rd : Rounding) (sb : Nat) (es : List Nat) (leaf : Nat → Nat × Flags) :
    List Nat → List Nat → List Nat × List Point
  | [], slots => (slots, [])
  | q :: qs, slots =>
    let (s1, p1) := addBlock k rd sb es leaf slots q
    let (s2, p2) := addBlocks k rd sb es leaf qs s1
    (s2, p1 ++ p2)

/-- VREDS and VDOTS: add a strip of leaves into the partial register vd; they run whole.
DEDUCED (log entry 24). -/
def Ctx.reduce (c : Ctx) (d : VReg) (m : Bool) (faults : List (Option Nat)) (leaf : Nat → Nat × Flags) :
    HRes :=
  let h := c.h
  let t := c.s.tick
  let k := h.kind t d
  let w := k.width 64
  c.guarded (k.isFloating && k.partialOk) (needTag k.partialOk :: faults) (c.whole (fun c =>
    let es := c.actives m
    let slots := (List.range 32).map (h.partialSlot t d w)
    let blocks := blocksOf h.sb.toNat es
    let (slots', pts) := addBlocks k (h.vecRounding 0) h.sb.toNat es leaf blocks slots
    c.afterPoints pts h.vstart (fun c =>
      let touched := (blocks.map (· % 32)).eraseDups
      let h' := forEach touched c.h (fun (a : Hart) i =>
        a.writeSpot t d (partialSpot w i) w ((slots'[i]?).getD 0))
      c.put { h' with vstart := 0 })))

/-- VREDS (R170). -/
def execVreds (d a : VReg) (m ca : Bool) (s : State) : Result :=
  runHart (.vreds d a m ca) s (fun c =>
    let h := c.h
    let t := c.s.tick
    let k := h.kind t d
    let x := h.src t a
    c.reduce d m [h.useFault t useArith a] (fun e =>
      if x.kind.isInt then k.fromInt (h.vecRounding e) (x.int e)
      else k.fromReal (h.vecRounding e) (x.val e, noFlags)))

/-- VDOTS (R170). -/
def execVdots (d a b : VReg) (m ca cb : Bool) (s : State) : Result :=
  runHart (.vdots d a b m ca cb) s (fun c =>
    let h := c.h
    let t := c.s.tick
    let k := h.kind t d
    c.reduce d m [h.useFault t useArith a, h.useFault t useArith b] (fun e =>
      binElem .mul k (k.width 64) (h.src t a) (h.src t b) (h.vecRounding e) e))

/-! ### Scalar results -/

/-- A result of a kind in an X register: I sign-extended, everything else zero-extended (R171, R172). -/
def Kind.toX (k : Kind) (ew bits : Nat) : Word :=
  match k with
  | .int true w => sext w bits
  | k => BitVec.ofNat 64 (bits % 2 ^ k.width ew)

/-- VFOLD: the tree over the 32 slots, then the seed (R72, R171). -/
def execVfold (d : XReg) (a : VReg) (b : XReg) (ca : Bool) (s : State) : Result :=
  runHart (.vfold d a b ca) s (fun c =>
    let h := c.h
    let t := c.s.tick
    let k := h.kind t a
    let w := k.width 64
    let rd := h.vecRounding 0
    c.guarded (k.isFloating && k.partialOk) [needTag k.partialOk] (c.whole (fun c =>
      if h.vl == 0 then c.wholeX d (h.getX b)
      else
        let (root, fs) := treeSum (k.plus rd) 5 ((List.range 32).map (fun i => some (h.partialSlot t a w i)))
        let (r, f) := k.plus rd (root.getD 0) (h.getU b % 2 ^ w)
        c.afterPoints ((fs ++ [f]).map (fun fl => (fl, 0))) 0 (fun c => c.wholeX d (k.toX h.ew r)))))

/-- The canonical NaN of a kind. -/
def Kind.nanCode : Kind → Nat
  | .flt f => f.nan.getD 0
  | _ => 0xFF

/-- The larger or the smaller of two patterns of a kind, with the flags of R50. -/
def extreme (k : Kind) (largest : Bool) (x y : Nat) : Nat × Flags :=
  if k.isInt then
    let a := k.intVal x
    let b := k.intVal y
    (if largest == decide (a < b) then y else x, 0)
  else
    let a := k.value x
    let b := k.value y
    if a.isNan || b.isNan then (k.nanCode, flagIf (a.isSnan || b.isSnan) flagNV)
    else (if largest == decide (a.rank b < 0) then y else x, 0)

/-- Combine the seed with the elements in order; each element's flags make a point. -/
def combineAll (f : Nat → Nat → Nat × Flags) (elem : Nat → Nat) : List Nat → Nat → Nat × List Point
  | [], acc => (acc, [])
  | e :: es, acc =>
    let (r, fl) := f acc (elem e)
    let (r', ps) := combineAll f elem es r
    (r', (fl, e) :: ps)

/-- An order-free reduction (R172). With no active element xd := xb. -/
def Ctx.orderFree (c : Ctx) (d : XReg) (a : VReg) (b : XReg) (m : Bool) (faults : List (Option Nat))
    (f : Nat → Nat → Nat × Flags) : HRes :=
  let h := c.h
  let t := c.s.tick
  let k := h.kind t a
  c.guarded false faults (c.whole (fun c =>
    match c.actives m with
    | [] => c.wholeX d (h.getX b)
    | es =>
      let (r, pts) := combineAll f (h.elem t k a) es (h.getU b % 2 ^ h.kw k)
      c.afterPoints pts h.vstart (fun c => c.wholeX d (k.toX h.ew r))))

/-- VREDMAX (R172). -/
def execVredmax (d : XReg) (a : VReg) (b : XReg) (m ca : Bool) (s : State) : Result :=
  runHart (.vredmax d a b m ca) s (fun c =>
    c.orderFree d a b m [c.h.useFault c.s.tick useArith a] (extreme (c.h.kind c.s.tick a) true))

/-- VREDMIN (R172). -/
def execVredmin (d : XReg) (a : VReg) (b : XReg) (m ca : Bool) (s : State) : Result :=
  runHart (.vredmin d a b m ca) s (fun c =>
    c.orderFree d a b m [c.h.useFault c.s.tick useArith a] (extreme (c.h.kind c.s.tick a) false))

/-- The refusals of the bitwise reductions: integer and raw tags only. -/
def Hart.bitFaults (h : Hart) (tick : Nat) (a : VReg) : List (Option Nat) :=
  let k := h.kind tick a
  [h.useFault tick useRaw a, needTag (k.isIN || k == .raw)]

/-- VREDAND (R172). -/
def execVredand (d : XReg) (a : VReg) (b : XReg) (m ca : Bool) (s : State) : Result :=
  runHart (.vredand d a b m ca) s (fun c =>
    c.orderFree d a b m (c.h.bitFaults c.s.tick a) (fun x y => (x &&& y, 0)))

/-- VREDOR (R172). -/
def execVredor (d : XReg) (a : VReg) (b : XReg) (m ca : Bool) (s : State) : Result :=
  runHart (.vredor d a b m ca) s (fun c =>
    c.orderFree d a b m (c.h.bitFaults c.s.tick a) (fun x y => (x ||| y, 0)))

end Sys2Proof.Machine
end

