-- ==== Sys2Proof/Machine/VWide.lean ====
section
/-!
DEFINITION. Fused, widening and block arithmetic (major 0x17, R156 to R162): pairs in the placement of R57,
the ordered placement of R160, and the scales of VSCALE and VQUANT.
-/
namespace Sys2Proof.Machine

/-! ### Shapes of instruction -/

/-- The pair at r as an operand: wide elements under the pair's tag. -/
def Hart.wideSrc (h : Hart) (tick : Nat) (r : VReg) : Src :=
  let k := h.kind tick r
  ⟨k, fun e => k.value (h.wide tick r e), fun e => k.intVal (h.wide tick r e)⟩

/-- Wide element e of the pair r, written from 2 × EW bits. -/
def putWide (tick : Nat) (r : VReg) : Hart → Nat → Nat → Hart := fun h e v => h.setWide tick r e v

/-- A widening form: wide element e of the pair vd takes `f` (R157, R158). -/
def Ctx.widen (c : Ctx) (d a b : VReg) (m : Bool) (f : Kind → Src → Src → Rounding → Nat → Nat × Flags) :
    HRes :=
  let h := c.h
  let t := c.s.tick
  let k := h.kind t d
  c.guarded k.isFloating
    [h.useFault t useArith a, h.useFault t useArith b, h.pairFault t false d (nextReg d)]
    (c.compute (c.act m) id (fun e => f k (h.src t a) (h.src t b) (h.vecRounding e) e) (putWide t d))

/-- Wide element e in the ordered placement of two registers (R160). -/
def Hart.ordered (h : Hart) (tick : Nat) (a b : VReg) (e : Nat) : Nat :=
  let (k, sp) := h.orderedSpot e
  h.readSpot tick (if k == 0 then a else b) sp (2 * h.ew)

/-- Write it. -/
def Hart.setOrdered (h : Hart) (tick : Nat) (a b : VReg) (e bits : Nat) : Hart :=
  let (k, sp) := h.orderedSpot e
  h.writeSpot tick (if k == 0 then a else b) sp (2 * h.ew) bits

/-! ### Fused and widening forms (R156, R158) -/

/-- VFMA (R156). -/
def execVfma (d a b : VReg) (m ca cb : Bool) (s : State) : Result :=
  runHart (.vfma d a b m ca cb) s (fun c =>
    let h := c.h
    let t := c.s.tick
    c.fusedOn .fma d (h.src t a) (h.src t b) m [h.useFault t useArith a, h.useFault t useArith b])

/-- VFMS (R156). -/
def execVfms (d a b : VReg) (m ca cb : Bool) (s : State) : Result :=
  runHart (.vfms d a b m ca cb) s (fun c =>
    let h := c.h
    let t := c.s.tick
    c.fusedOn .fms d (h.src t a) (h.src t b) m [h.useFault t useArith a, h.useFault t useArith b])

/-- VFNMA (R156). -/
def execVfnma (d a b : VReg) (m ca cb : Bool) (s : State) : Result :=
  runHart (.vfnma d a b m ca cb) s (fun c =>
    let h := c.h
    let t := c.s.tick
    c.fusedOn .fnma d (h.src t a) (h.src t b) m [h.useFault t useArith a, h.useFault t useArith b])

/-- VWADD (R158). -/
def execVwadd (d a b : VReg) (m ca cb : Bool) (s : State) : Result :=
  runHart (.vwadd d a b m ca cb) s (fun c => c.widen d a b m (fun k a b rd e => binElem .add k (k.width 64) a b rd e))

/-- VWSUB (R158). -/
def execVwsub (d a b : VReg) (m ca cb : Bool) (s : State) : Result :=
  runHart (.vwsub d a b m ca cb) s (fun c => c.widen d a b m (fun k a b rd e => binElem .sub k (k.width 64) a b rd e))

/-- VWMUL (R158). -/
def execVwmul (d a b : VReg) (m ca cb : Bool) (s : State) : Result :=
  runHart (.vwmul d a b m ca cb) s (fun c => c.widen d a b m (fun k a b rd e => binElem .mul k (k.width 64) a b rd e))

/-- VWFMA (R158). -/
def execVwfma (d a b : VReg) (m ca cb : Bool) (s : State) : Result :=
  runHart (.vwfma d a b m ca cb) s (fun c =>
    let add := c.h.wideSrc c.s.tick d
    c.widen d a b m (fun k a b rd e => fusedElem .fma k a b add rd e))

/-! ### Narrowing and placement (R159, R160) -/

/-- VNARROW: a conversion of the pair's elements into vd's tag (R159). -/
def execVnarrow (d a : VReg) (m ca : Bool) (s : State) : Result :=
  runHart (.vnarrow d a m ca) s (fun c =>
    let h := c.h
    let t := c.s.tick
    let k := h.kind t d
    let src := h.wideSrc t a
    c.guarded false [h.useFault t useArith d, h.pairFault t false a (nextReg a)]
      (c.compute (c.act m) id
        (fun e =>
          if src.kind.isInt then k.fromInt (h.vecRounding e) (src.int e)
          else k.fromReal (h.vecRounding e) (src.val e, noFlags))
        (h.putResult t d)))

/-- VILV: from ordered placement in va, vb to the pair vd (R160). -/
def execVilv (d a b : VReg) (m ca cb : Bool) (s : State) : Result :=
  runHart (.vilv d a b m ca cb) s (fun c =>
    let h := c.h
    let t := c.s.tick
    let tag := h.tag t a
    c.guarded false [h.pairFault t false a b]
      (c.compute (c.act m) (fun h' => (h'.setTag d tag).setTag (nextReg d) tag)
        (fun e => (h.ordered t a b e, noFlags)) (putWide t d)))

/-- VDILV: from the pair va to ordered placement in vd, vd + 1 (R160). -/
def execVdilv (d a : VReg) (m ca : Bool) (s : State) : Result :=
  runHart (.vdilv d a m ca) s (fun c =>
    let h := c.h
    let t := c.s.tick
    let tag := h.tag t a
    c.guarded false [h.pairFault t false a (nextReg a)]
      (c.compute (c.act m) (fun h' => (h'.setTag d tag).setTag (nextReg d) tag)
        (fun e => (h.wide t a e, noFlags)) (fun h' e v => h'.setOrdered t d (nextReg d) e v)))

/-! ### Block scales (R161, R162) -/

/-- VSCALE: dequantise into the pair vd; the tag of the pair is no block tag (R161). -/
def execVscale (d a b : VReg) (m ca cb : Bool) (s : State) : Result :=
  runHart (.vscale d a b m ca cb) s (fun c =>
    let h := c.h
    let t := c.s.tick
    let k := h.kind t d
    let ka := h.kind t a
    c.guarded k.isFloating
      [h.useFault t useScaled a, needTag (h.kind t b == .e8m0), h.pairFault t false d (nextReg d),
       needTag (!k.isBlock), h.scaleFault t ka]
      (c.compute (c.act m) id
        (fun e =>
          let x := h.elem t .e8m0 b e
          let v := if x == 255 then .nan false else (h.value t ka a e).scale ((x : Int) - 127)
          k.fromReal (h.vecRounding e) (v, noFlags))
        (putWide t d)))

/-- emax of a tag (R162). -/
def emaxOf : Kind → Int
  | .flt f =>
    match f.width, f.p with
    | 8, 4 => 8 | 8, 3 => 15 | 6, 3 => 4 | 6, 4 => 2 | 4, _ => 2 | 16, 11 => 15 | _, _ => 127
  | .sliced true 1 => 0
  | .sliced true w => w - 2
  | .sliced false w => w - 1
  | _ => 0

/-- A NaN or an infinity. -/
def Val.special : Val → Bool
  | .nan _ => true | .inf _ => true | _ => false

/-- floor(log2 |v|) of the largest of a list of values; none when every one is zero. -/
def topExponent (vs : List Val) : Option Int :=
  forEach vs none (fun acc v =>
    match v with
    | .fin _ m e _ =>
      let x := exponentOf m e
      match acc with
      | none => some x
      | some y => some (max x y)
    | _ => acc)

/-- The scale code of a block's active values (R162). -/
def quantCode (k : Kind) (vs : List Val) : Nat :=
  if vs.any Val.special then 0xFF
  else
    match topExponent vs with
    | none => 0x7F
    | some x => (max (-127) (min 127 (x - emaxOf k)) + 127).toNat

/-- VQUANT: quantise the pair va into scaled blocks of vd; the scales go to vb (R162). The pair may carry a
block tag of width 2 × EW: V47 is not read. Under code 0xFF the NaN and infinite elements raise NV, each its own,
and the scale of a block is written before its first element. DESIGN CHOICE (log entry 58). -/
def execVquant (d a b : VReg) (m ca : Bool) (s : State) : Result :=
  runHart (.vquant d a b m ca) s (fun c =>
    let h := c.h
    let t := c.s.tick
    let k := h.kind t d
    let src := h.wideSrc t a
    let size := h.blockSize
    let code := fun (e : Nat) =>
      let q := e / size
      quantCode k (((fromTo (size * q) (min h.vl (size * (q + 1)))).filter (c.act m)).map src.val)
    c.guarded false
      [h.useFault t useScaled d, needTag k.isBlock, h.pairFault t true a (nextReg a),
       needLayout (h.blk == 1 || h.blk == 2)]
      (c.elementwise (c.act m) (fun h' => h'.setTag b 0x12) (fun e c =>
        let x := code e
        let (v, fl) := if x == 0xFF then (0, flagIf (src.val e).special flagNV)
          else k.fromReal (h.vecRounding e) ((src.val e).scale (127 - (x : Int)), noFlags)
        Ctx.flagged { c with h := c.h.setElem t .e8m0 b (e / size) x } e fl (fun c =>
          .ok { c with h := c.h.setElem t k d e v }))))

end Sys2Proof.Machine
end

