-- ==== Sys2Proof/Machine/Dispatch.lean ====
section
/-!
DEFINITION. The dispatch: one arm for each constructor of Instr.
-/
namespace Sys2Proof.Machine

/-- What an instruction or event does. -/
def exec (i : Instr) (s : State) : Host.Outcome State Fault Refusal :=
  match i with
  | .srd d num => Sys2Proof.Machine.execSrd d num s
  | .swr num a => Sys2Proof.Machine.execSwr num a s
  | .fence scope bits => Sys2Proof.Machine.execFence scope bits s
  | .gbar scope => Sys2Proof.Machine.execGbar scope s
  | .pfx mask inv copy slices => Sys2Proof.Machine.execPfx mask inv copy slices s
  | .add d a b => Sys2Proof.Machine.execAdd d a b s
  | .sub d a b => Sys2Proof.Machine.execSub d a b s
  | .and d a b => Sys2Proof.Machine.execAnd d a b s
  | .or d a b => Sys2Proof.Machine.execOr d a b s
  | .xor d a b => Sys2Proof.Machine.execXor d a b s
  | .sll d a b => Sys2Proof.Machine.execSll d a b s
  | .srl d a b => Sys2Proof.Machine.execSrl d a b s
  | .sra d a b => Sys2Proof.Machine.execSra d a b s
  | .slt d a b => Sys2Proof.Machine.execSlt d a b s
  | .sltu d a b => Sys2Proof.Machine.execSltu d a b s
  | .min d a b => Sys2Proof.Machine.execMin d a b s
  | .max d a b => Sys2Proof.Machine.execMax d a b s
  | .minu d a b => Sys2Proof.Machine.execMinu d a b s
  | .maxu d a b => Sys2Proof.Machine.execMaxu d a b s
  | .mul d a b => Sys2Proof.Machine.execMul d a b s
  | .mulh d a b => Sys2Proof.Machine.execMulh d a b s
  | .mulhu d a b => Sys2Proof.Machine.execMulhu d a b s
  | .div d a b => Sys2Proof.Machine.execDiv d a b s
  | .divu d a b => Sys2Proof.Machine.execDivu d a b s
  | .rem d a b => Sys2Proof.Machine.execRem d a b s
  | .remu d a b => Sys2Proof.Machine.execRemu d a b s
  | .clz d a => Sys2Proof.Machine.execClz d a s
  | .ctz d a => Sys2Proof.Machine.execCtz d a s
  | .cnt d a => Sys2Proof.Machine.execCnt d a s
  | .sel d a b c => Sys2Proof.Machine.execSel d a b c s
  | .addi d a imm => Sys2Proof.Machine.execAddi d a imm s
  | .andi d a imm => Sys2Proof.Machine.execAndi d a imm s
  | .ori d a imm => Sys2Proof.Machine.execOri d a imm s
  | .xori d a imm => Sys2Proof.Machine.execXori d a imm s
  | .slli d a shamt => Sys2Proof.Machine.execSlli d a shamt s
  | .srli d a shamt => Sys2Proof.Machine.execSrli d a shamt s
  | .srai d a shamt => Sys2Proof.Machine.execSrai d a shamt s
  | .slti d a imm => Sys2Proof.Machine.execSlti d a imm s
  | .sltiu d a imm => Sys2Proof.Machine.execSltiu d a imm s
  | .lui d imm => Sys2Proof.Machine.execLui d imm s
  | .addpc d imm => Sys2Proof.Machine.execAddpc d imm s
  | .fadd d a b single => Sys2Proof.Machine.execFadd d a b single s
  | .fsub d a b single => Sys2Proof.Machine.execFsub d a b single s
  | .fmul d a b single => Sys2Proof.Machine.execFmul d a b single s
  | .fdiv d a b single => Sys2Proof.Machine.execFdiv d a b single s
  | .fsqrt d a single => Sys2Proof.Machine.execFsqrt d a single s
  | .fmin d a b single => Sys2Proof.Machine.execFmin d a b single s
  | .fmax d a b single => Sys2Proof.Machine.execFmax d a b single s
  | .fma d a b c single => Sys2Proof.Machine.execFma d a b c single s
  | .fnma d a b c single => Sys2Proof.Machine.execFnma d a b c single s
  | .feq d a b single => Sys2Proof.Machine.execFeq d a b single s
  | .flt d a b single => Sys2Proof.Machine.execFlt d a b single s
  | .fle d a b single => Sys2Proof.Machine.execFle d a b single s
  | .fcvtDL d a single => Sys2Proof.Machine.execFcvtDL d a single s
  | .fcvtLD d a single => Sys2Proof.Machine.execFcvtLD d a single s
  | .fcvtDS d a => Sys2Proof.Machine.execFcvtDS d a s
  | .fcvtSD d a => Sys2Proof.Machine.execFcvtSD d a s
  | .fabs d a single => Sys2Proof.Machine.execFabs d a single s
  | .fneg d a single => Sys2Proof.Machine.execFneg d a single s
  | .fkind d a single => Sys2Proof.Machine.execFkind d a single s
  | .lb d a off => Sys2Proof.Machine.execLb d a off s
  | .lbu d a off => Sys2Proof.Machine.execLbu d a off s
  | .lh d a off => Sys2Proof.Machine.execLh d a off s
  | .lhu d a off => Sys2Proof.Machine.execLhu d a off s
  | .lw d a off => Sys2Proof.Machine.execLw d a off s
  | .lwu d a off => Sys2Proof.Machine.execLwu d a off s
  | .ld d a off => Sys2Proof.Machine.execLd d a off s
  | .stb xs a off => Sys2Proof.Machine.execStb xs a off s
  | .sth xs a off => Sys2Proof.Machine.execSth xs a off s
  | .stw xs a off => Sys2Proof.Machine.execStw xs a off s
  | .std xs a off => Sys2Proof.Machine.execStd xs a off s
  | .lda d a scope wide => Sys2Proof.Machine.execLda d a scope wide s
  | .stl xs a scope wide => Sys2Proof.Machine.execStl xs a scope wide s
  | .beq a b off => Sys2Proof.Machine.execBeq a b off s
  | .bne a b off => Sys2Proof.Machine.execBne a b off s
  | .blt a b off => Sys2Proof.Machine.execBlt a b off s
  | .bge a b off => Sys2Proof.Machine.execBge a b off s
  | .bltu a b off => Sys2Proof.Machine.execBltu a b off s
  | .bgeu a b off => Sys2Proof.Machine.execBgeu a b off s
  | .jal off => Sys2Proof.Machine.execJal off s
  | .jalr d a imm => Sys2Proof.Machine.execJalr d a imm s
  | .aadd d a b scope order wide => Sys2Proof.Machine.execAadd d a b scope order wide s
  | .aincb d a b scope order wide => Sys2Proof.Machine.execAincb d a b scope order wide s
  | .acas d a b scope order wide => Sys2Proof.Machine.execAcas d a b scope order wide s
  | .aswp d a b scope order wide => Sys2Proof.Machine.execAswp d a b scope order wide s
  | .amin d a b scope order wide => Sys2Proof.Machine.execAmin d a b scope order wide s
  | .amax d a b scope order wide => Sys2Proof.Machine.execAmax d a b scope order wide s
  | .aand d a b scope order wide => Sys2Proof.Machine.execAand d a b scope order wide s
  | .aor d a b scope order wide => Sys2Proof.Machine.execAor d a b scope order wide s
  | .lmove d a b scope order => Sys2Proof.Machine.execLmove d a b scope order s
  | .setvl d a => Sys2Proof.Machine.execSetvl d a s
  | .setvlx d a b => Sys2Proof.Machine.execSetvlx d a b s
  | .setshape d a b => Sys2Proof.Machine.execSetshape d a b s
  | .setvt d a => Sys2Proof.Machine.execSetvt d a s
  | .vtag d code => Sys2Proof.Machine.execVtag d code s
  | .setsb a => Sys2Proof.Machine.execSetsb a s
  | .setpseq a => Sys2Proof.Machine.execSetpseq a s
  | .vadd d a b m ca cb => Sys2Proof.Machine.execVadd d a b m ca cb s
  | .vsub d a b m ca cb => Sys2Proof.Machine.execVsub d a b m ca cb s
  | .vmul d a b m ca cb => Sys2Proof.Machine.execVmul d a b m ca cb s
  | .vdiv d a b m ca cb => Sys2Proof.Machine.execVdiv d a b m ca cb s
  | .vsqrt d a m ca => Sys2Proof.Machine.execVsqrt d a m ca s
  | .vmin d a b m ca cb => Sys2Proof.Machine.execVmin d a b m ca cb s
  | .vmax d a b m ca cb => Sys2Proof.Machine.execVmax d a b m ca cb s
  | .vabs d a m ca => Sys2Proof.Machine.execVabs d a m ca s
  | .vneg d a m ca => Sys2Proof.Machine.execVneg d a m ca s
  | .vand d a b m ca cb => Sys2Proof.Machine.execVand d a b m ca cb s
  | .vor d a b m ca cb => Sys2Proof.Machine.execVor d a b m ca cb s
  | .vxor d a b m ca cb => Sys2Proof.Machine.execVxor d a b m ca cb s
  | .vnot d a m ca => Sys2Proof.Machine.execVnot d a m ca s
  | .vsll d a b m ca cb => Sys2Proof.Machine.execVsll d a b m ca cb s
  | .vsrl d a b m ca cb => Sys2Proof.Machine.execVsrl d a b m ca cb s
  | .vsra d a b m ca cb => Sys2Proof.Machine.execVsra d a b m ca cb s
  | .vmulh d a b m ca cb => Sys2Proof.Machine.execVmulh d a b m ca cb s
  | .vrem d a b m ca cb => Sys2Proof.Machine.execVrem d a b m ca cb s
  | .vclz d a m ca => Sys2Proof.Machine.execVclz d a m ca s
  | .vcnt d a m ca => Sys2Proof.Machine.execVcnt d a m ca s
  | .vrcpe d a m ca => Sys2Proof.Machine.execVrcpe d a m ca s
  | .vrsqe d a m ca => Sys2Proof.Machine.execVrsqe d a m ca s
  | .vmv d a m ca => Sys2Proof.Machine.execVmv d a m ca s
  | .vmerge d a b ca cb => Sys2Proof.Machine.execVmerge d a b ca cb s
  | .vcvt d a code m ca => Sys2Proof.Machine.execVcvt d a code m ca s
  | .vfma d a b m ca cb => Sys2Proof.Machine.execVfma d a b m ca cb s
  | .vfms d a b m ca cb => Sys2Proof.Machine.execVfms d a b m ca cb s
  | .vfnma d a b m ca cb => Sys2Proof.Machine.execVfnma d a b m ca cb s
  | .vwadd d a b m ca cb => Sys2Proof.Machine.execVwadd d a b m ca cb s
  | .vwsub d a b m ca cb => Sys2Proof.Machine.execVwsub d a b m ca cb s
  | .vwmul d a b m ca cb => Sys2Proof.Machine.execVwmul d a b m ca cb s
  | .vwfma d a b m ca cb => Sys2Proof.Machine.execVwfma d a b m ca cb s
  | .vnarrow d a m ca => Sys2Proof.Machine.execVnarrow d a m ca s
  | .vilv d a b m ca cb => Sys2Proof.Machine.execVilv d a b m ca cb s
  | .vdilv d a m ca => Sys2Proof.Machine.execVdilv d a m ca s
  | .vscale d a b m ca cb => Sys2Proof.Machine.execVscale d a b m ca cb s
  | .vquant d a b m ca => Sys2Proof.Machine.execVquant d a b m ca s
  | .vaddX d a b m ca => Sys2Proof.Machine.execVaddX d a b m ca s
  | .vsubX d a b m ca => Sys2Proof.Machine.execVsubX d a b m ca s
  | .vmulX d a b m ca => Sys2Proof.Machine.execVmulX d a b m ca s
  | .vminX d a b m ca => Sys2Proof.Machine.execVminX d a b m ca s
  | .vmaxX d a b m ca => Sys2Proof.Machine.execVmaxX d a b m ca s
  | .vandX d a b m ca => Sys2Proof.Machine.execVandX d a b m ca s
  | .vorX d a b m ca => Sys2Proof.Machine.execVorX d a b m ca s
  | .vxorX d a b m ca => Sys2Proof.Machine.execVxorX d a b m ca s
  | .vsllX d a b m ca => Sys2Proof.Machine.execVsllX d a b m ca s
  | .vsrlX d a b m ca => Sys2Proof.Machine.execVsrlX d a b m ca s
  | .vsraX d a b m ca => Sys2Proof.Machine.execVsraX d a b m ca s
  | .vfmaX d a b m ca => Sys2Proof.Machine.execVfmaX d a b m ca s
  | .vbcst d b m => Sys2Proof.Machine.execVbcst d b m s
  | .vidx d m => Sys2Proof.Machine.execVidx d m s
  | .vcmpEq d a b m ca => Sys2Proof.Machine.execVcmpEq d a b m ca s
  | .vcmpNe d a b m ca => Sys2Proof.Machine.execVcmpNe d a b m ca s
  | .vcmpLt d a b m ca => Sys2Proof.Machine.execVcmpLt d a b m ca s
  | .vcmpLe d a b m ca => Sys2Proof.Machine.execVcmpLe d a b m ca s
  | .vcmpGt d a b m ca => Sys2Proof.Machine.execVcmpGt d a b m ca s
  | .vcmpGe d a b m ca => Sys2Proof.Machine.execVcmpGe d a b m ca s
  | .vcmpUn d a b m ca => Sys2Proof.Machine.execVcmpUn d a b m ca s
  | .vcmpOr d a b m ca => Sys2Proof.Machine.execVcmpOr d a b m ca s
  | .mand d a b m => Sys2Proof.Machine.execMand d a b m s
  | .mor d a b m => Sys2Proof.Machine.execMor d a b m s
  | .mxor d a b m => Sys2Proof.Machine.execMxor d a b m s
  | .mandn d a b m => Sys2Proof.Machine.execMandn d a b m s
  | .mnot d a m => Sys2Proof.Machine.execMnot d a m s
  | .mcnt d a m => Sys2Proof.Machine.execMcnt d a m s
  | .mffs d a m => Sys2Proof.Machine.execMffs d a m s
  | .mtox d a b m => Sys2Proof.Machine.execMtox d a b m s
  | .mxtom d a b m => Sys2Proof.Machine.execMxtom d a b m s
  | .mpref d a m => Sys2Proof.Machine.execMpref d a m s
  | .msbf d a m => Sys2Proof.Machine.execMsbf d a m s
  | .vreds d a m ca => Sys2Proof.Machine.execVreds d a m ca s
  | .vdots d a b m ca cb => Sys2Proof.Machine.execVdots d a b m ca cb s
  | .vfold d a b ca => Sys2Proof.Machine.execVfold d a b ca s
  | .vredmax d a b m ca => Sys2Proof.Machine.execVredmax d a b m ca s
  | .vredmin d a b m ca => Sys2Proof.Machine.execVredmin d a b m ca s
  | .vredand d a b m ca => Sys2Proof.Machine.execVredand d a b m ca s
  | .vredor d a b m ca => Sys2Proof.Machine.execVredor d a b m ca s
  | .vld d base m => Sys2Proof.Machine.execVld d base m s
  | .vlds d base stride m => Sys2Proof.Machine.execVlds d base stride m s
  | .vldx d base idx m ca => Sys2Proof.Machine.execVldx d base idx m ca s
  | .vldO d base m => Sys2Proof.Machine.execVldO d base m s
  | .vldsO d base stride m => Sys2Proof.Machine.execVldsO d base stride m s
  | .vldxO d base idx m ca => Sys2Proof.Machine.execVldxO d base idx m ca s
  | .vst vs base m ca => Sys2Proof.Machine.execVst vs base m ca s
  | .vsts vs base stride m ca => Sys2Proof.Machine.execVsts vs base stride m ca s
  | .vstx vs base idx m ca => Sys2Proof.Machine.execVstx vs base idx m ca s
  | .vstO vs base m ca => Sys2Proof.Machine.execVstO vs base m ca s
  | .vstsO vs base stride m ca => Sys2Proof.Machine.execVstsO vs base stride m ca s
  | .vstxO vs base idx m ca => Sys2Proof.Machine.execVstxO vs base idx m ca s
  | .vldt d a b m ca => Sys2Proof.Machine.execVldt d a b m ca s
  | .vstt vs a b m ca => Sys2Proof.Machine.execVstt vs a b m ca s
  | .vldsp d base m => Sys2Proof.Machine.execVldsp d base m s
  | .vldsh d base m => Sys2Proof.Machine.execVldsh d base m s
  | .vpref base => Sys2Proof.Machine.execVpref base s
  | .vcompress d a m ca => Sys2Proof.Machine.execVcompress d a m ca s
  | .vexpand d a m ca => Sys2Proof.Machine.execVexpand d a m ca s
  | .vconf d a m ca => Sys2Proof.Machine.execVconf d a m ca s
  | .vrank d a b m ca cb => Sys2Proof.Machine.execVrank d a b m ca cb s
  | .vselb d a b m ca cb => Sys2Proof.Machine.execVselb d a b m ca cb s
  | .vpush d a b m ca cb => Sys2Proof.Machine.execVpush d a b m ca cb s
  | .vpull d a b m ca cb => Sys2Proof.Machine.execVpull d a b m ca cb s
  | .vsldn d a b m ca => Sys2Proof.Machine.execVsldn d a b m ca s
  | .vslup d a b m ca => Sys2Proof.Machine.execVslup d a b m ca s
  | .vrnd d b m => Sys2Proof.Machine.execVrnd d b m s
  | .vrndf d b m => Sys2Proof.Machine.execVrndf d b m s
  | .vacc d a b ca => Sys2Proof.Machine.execVacc d a b ca s
  | .opload d a slot => Sys2Proof.Machine.execOpload d a slot s
  | .opqry d slot => Sys2Proof.Machine.execOpqry d slot s
  | .opclr slot => Sys2Proof.Machine.execOpclr slot s
  | .pass d c slot first cnt desc ksrc => Sys2Proof.Machine.execPass d c slot first cnt desc ksrc s
  | .passk d c k slot => Sys2Proof.Machine.execPassk d c k slot s
  | .vmergek d c k m ca => Sys2Proof.Machine.execVmergek d c k m ca s
  | .matt d a b => Sys2Proof.Machine.execMatt d a b s
  | .mzro bin typ => Sys2Proof.Machine.execMzro bin typ s
  | .masy bin k => Sys2Proof.Machine.execMasy bin k s
  | .mrd d bin r => Sys2Proof.Machine.execMrd d bin r s
  | .mwr bin vs r => Sys2Proof.Machine.execMwr bin vs r s
  | .maget d c bin r => Sys2Proof.Machine.execMaget d c bin r s
  | .mthr d bin r => Sys2Proof.Machine.execMthr d bin r s
  | .mopa bin a b m ca cb => Sys2Proof.Machine.execMopa bin a b m ca cb s
  | .mops bin a b vmeta m ca cb cm => Sys2Proof.Machine.execMops bin a b vmeta m ca cb cm s
  | .masv bin a c r m ca cb => Sys2Proof.Machine.execMasv bin a c r m ca cb s
  | .mdrn bin src base => Sys2Proof.Machine.execMdrn bin src base s
  | .vfetch a b => Sys2Proof.Machine.execVfetch a b s
  | .lfetch a b => Sys2Proof.Machine.execLfetch a b s
  | .lvpid d => Sys2Proof.Machine.execLvpid d s
  | .vwhileEq a b off => Sys2Proof.Machine.execVwhileEq a b off s
  | .vwhileNe a b off => Sys2Proof.Machine.execVwhileNe a b off s
  | .vwhileLt a b off => Sys2Proof.Machine.execVwhileLt a b off s
  | .vwhileLe a b off => Sys2Proof.Machine.execVwhileLe a b off s
  | .vwhileGt a b off => Sys2Proof.Machine.execVwhileGt a b off s
  | .vwhileGe a b off => Sys2Proof.Machine.execVwhileGe a b off s
  | .vwhileUn a b off => Sys2Proof.Machine.execVwhileUn a b off s
  | .vwhileOr a b off => Sys2Proof.Machine.execVwhileOr a b off s
  | .cpy d a b c => Sys2Proof.Machine.execCpy d a b c s
  | .cpyb d a => Sys2Proof.Machine.execCpyb d a s
  | .coll d a => Sys2Proof.Machine.execColl d a s
  | .ewait a => Sys2Proof.Machine.execEwait a s
  | .etst d a => Sys2Proof.Machine.execEtst d a s
  | .vxfdRle d a b ca => Sys2Proof.Machine.execVxfdRle d a b ca s
  | .vxfdDelta d a b ca => Sys2Proof.Machine.execVxfdDelta d a b ca s
  | .vxfdPlane d a b ca => Sys2Proof.Machine.execVxfdPlane d a b ca s
  | .vxfdSect d a b ca => Sys2Proof.Machine.execVxfdSect d a b ca s
  | .vxfeRle d a b ca => Sys2Proof.Machine.execVxfeRle d a b ca s
  | .vxfeDelta d a b ca => Sys2Proof.Machine.execVxfeDelta d a b ca s
  | .vxfePlane d a b ca => Sys2Proof.Machine.execVxfePlane d a b ca s
  | .vxfeSect d a b ca => Sys2Proof.Machine.execVxfeSect d a b ca s
  | .nop => Sys2Proof.Machine.execNop s
  | .halt => Sys2Proof.Machine.execHalt s
  | .yield => Sys2Proof.Machine.execYield s
  | .sysc => Sys2Proof.Machine.execSysc s
  | .bkpt => Sys2Proof.Machine.execBkpt s
  | .tret => Sys2Proof.Machine.execTret s
  | .mdet => Sys2Proof.Machine.execMdet s
  | .lsplit => Sys2Proof.Machine.execLsplit s
  | .ljoin => Sys2Proof.Machine.execLjoin s
  | .stallChangeRequest => Sys2Proof.Machine.execStallChangeRequest s
  | .stallAdoption => Sys2Proof.Machine.execStallAdoption s
  | .setvlYield => Sys2Proof.Machine.execSetvlYield s
  | .hartEnd => Sys2Proof.Machine.execHartEnd s
  | .barrierCompletion => Sys2Proof.Machine.execBarrierCompletion s
  | .engineTransferEnd => Sys2Proof.Machine.execEngineTransferEnd s
  | .engineTransferFailure => Sys2Proof.Machine.execEngineTransferFailure s
  | .hardStop => Sys2Proof.Machine.execHardStop s
  | .contextRestore => Sys2Proof.Machine.execContextRestore s
  | .yieldRequest => Sys2Proof.Machine.execYieldRequest s
  | .yieldWindowExpiry => Sys2Proof.Machine.execYieldWindowExpiry s
  | .narrowingTimeout => Sys2Proof.Machine.execNarrowingTimeout s
  | .matrixArbitration => Sys2Proof.Machine.execMatrixArbitration s
  | .laneBlockReady => Sys2Proof.Machine.execLaneBlockReady s
  | .laneRunJoin => Sys2Proof.Machine.execLaneRunJoin s
  | .malformedAccess => Sys2Proof.Machine.execMalformedAccess s
  | .hostRead => Sys2Proof.Machine.execHostRead s
  | .hostWrite => Sys2Proof.Machine.execHostWrite s
  | .hostAtomic => Sys2Proof.Machine.execHostAtomic s
  | .hostLmove => Sys2Proof.Machine.execHostLmove s
  | .hostRegisterWrite => Sys2Proof.Machine.execHostRegisterWrite s
  | .linkHold => Sys2Proof.Machine.execLinkHold s
  | .linkHoldRelease => Sys2Proof.Machine.execLinkHoldRelease s
  | .linkDown => Sys2Proof.Machine.execLinkDown s
  | .linkUp => Sys2Proof.Machine.execLinkUp s
  | .linkAccessTimeout => Sys2Proof.Machine.execLinkAccessTimeout s
  | .queueEnable => Sys2Proof.Machine.execQueueEnable s
  | .queueReset => Sys2Proof.Machine.execQueueReset s
  | .queueResetDone => Sys2Proof.Machine.execQueueResetDone s
  | .launchAccept => Sys2Proof.Machine.execLaunchAccept s
  | .gangPlacement => Sys2Proof.Machine.execGangPlacement s
  | .completionPost => Sys2Proof.Machine.execCompletionPost s
  | .preemption => Sys2Proof.Machine.execPreemption s
  | .agingExpiry => Sys2Proof.Machine.execAgingExpiry s
  | .syscNull => Sys2Proof.Machine.execSyscNull s
  | .syscTime => Sys2Proof.Machine.execSyscTime s
  | .syscBudget => Sys2Proof.Machine.execSyscBudget s
  | .syscPrefault => Sys2Proof.Machine.execSyscPrefault s
  | .syscUnknown => Sys2Proof.Machine.execSyscUnknown s
  | .devicePageMap => Sys2Proof.Machine.execDevicePageMap s
  | .faultRecordPost => Sys2Proof.Machine.execFaultRecordPost s
  | .frespRetry => Sys2Proof.Machine.execFrespRetry s
  | .frespEnd => Sys2Proof.Machine.execFrespEnd s
  | .invalidate => Sys2Proof.Machine.execInvalidate s
  | .invalidationComplete => Sys2Proof.Machine.execInvalidationComplete s
  | .deviceReset => Sys2Proof.Machine.execDeviceReset s
  | .recoveryGo => Sys2Proof.Machine.execRecoveryGo s
  | .firmwareFlashWrite => Sys2Proof.Machine.execFirmwareFlashWrite s
  | .attestRequest => Sys2Proof.Machine.execAttestRequest s
  | .attestReportComplete => Sys2Proof.Machine.execAttestReportComplete s
  | .domainEnable => Sys2Proof.Machine.execDomainEnable s
  | .fabricAckTimeout => Sys2Proof.Machine.execFabricAckTimeout s
  | .flitCrcReplay => Sys2Proof.Machine.execFlitCrcReplay s
  | .portTrain => Sys2Proof.Machine.execPortTrain s
  | .collectiveTimeout => Sys2Proof.Machine.execCollectiveTimeout s
  | .collectiveEnd => Sys2Proof.Machine.execCollectiveEnd s
  | .hbmScrub => Sys2Proof.Machine.execHbmScrub s
  | .governorTick => Sys2Proof.Machine.execGovernorTick s
  | .thermalThrottle => Sys2Proof.Machine.execThermalThrottle s
  | .thermalThrottleEnd => Sys2Proof.Machine.execThermalThrottleEnd s
  | .thermalTrip => Sys2Proof.Machine.execThermalTrip s
  | .remoteAccess => Sys2Proof.Machine.execRemoteAccess s
  | .dmembWrite => Sys2Proof.Machine.execDmembWrite s
  | .powerLoss => Sys2Proof.Machine.execPowerLoss s

end Sys2Proof.Machine
end

