-- ==== Sys2Proof/Machine/Record.lean ====
section
/-!
DEFINITION. The bytes of a context record (R367 to R369), in the order in which its sections follow one another. No
address space maps the hall's save area, so that the machine keeps a record by its content; an undefined position of
it is a free value here too.
-/
namespace Sys2Proof.Machine

/-- Bytes padded with zeros to a multiple of 8. -/
def padTo8 (bs : List Byte) : List Byte := bs ++ List.replicate (upTo 8 bs.length - bs.length) 0

/-- The number that packs values of w bits, the first lowest. -/
def packValue (w : Nat) : List Nat → Nat
  | [] => 0
  | v :: vs => v % 2 ^ w + 2 ^ w * packValue w vs

/-- Values of w bits, packed. -/
def packBits (w : Nat) (vs : List Nat) : List Byte := leBytes ((w * vs.length + 7) / 8) (packValue w vs)

/-- Words of 8 bytes. -/
def wordBytes (ws : List Nat) : List Byte := ws.flatMap (leBytes 8)

/-- A vector entry: register, tag and live length, then its positions (R368). DESIGN CHOICE (log entry 7). -/
def VecEntry.bytes (en : VecEntry) (tick ew : Nat) : List Byte :=
  let tag := match en.tag with | some t => t.toNat | none => (Config.undefTag tick en.reg).toNat
  let w := en.kind.width ew
  leBytes 8 (en.reg + 2 ^ 8 * tag + 2 ^ 32 * en.positions.length) ++
    padTo8 (packBits w ((withIndex 0 en.positions).map (fun (e, b) =>
      (b.getD (Config.undefWord tick (4096 * en.reg + e))).toNat)))

/-- The masks' bits 0 to VLS − 1, in doublewords (R369). -/
def maskBytes (tick vls r : Nat) (m : Mask) : List Byte :=
  padTo8 (packBits 1 ((List.range vls).map (fun e => bool01 (m.bit tick r e))))

/-- The code of a row type (R369). -/
def RowType.code : RowType → Nat
  | .f32 => 0 | .i32 => 1 | .f64 => 2 | .assayF32 => 4 | .assayI32 => 5

/-- An assay row: 64 pairs in rank order, the empty ones last. -/
def AssayList.bytes (l : AssayList) (typ : RowType) : List Byte :=
  (List.range 64).flatMap (fun t =>
    let (v, i) := match l.pairs[t]? with
      | some (v, i) => (v.toNat, i.toNat)
      | none => (typ.emptyValue, 0xFFFFFFFF)
    leBytes 4 v ++ leBytes 4 i)

/-- A bin's rows, and after an assay bin n and the refusal count of each. -/
def BinRows.bytes (b : BinRows) (tick bin rows : Nat) : List Byte :=
  match b.typ with
  | .assayF32 | .assayI32 =>
    let ls := (List.range rows).map (fun i => (b.lists[i]?).getD ⟨[], 0⟩)
    ls.flatMap (fun l => l.bytes b.typ) ++
      padTo8 (ls.flatMap (fun l => leBytes 4 (l.pairs.length + 2 ^ 8 * l.refused)))
  | _ => (List.range (128 * rows)).flatMap (fun key =>
      leBytes 4 ((b.cells.get key).map (·.toNat) |>.getD
        ((Config.undefWord tick (0x2000000 + 0x10000 * bin + key)).toNat % 2 ^ 32)))

/-- The matrix section: its head, then the bins (R369). -/
def matrixBytes (tick grant : Nat) (bins : Vector BinRows 4) : List Byte :=
  let bs := bins.toList
  leBytes 4 grant ++ bs.flatMap (fun b => leBytes 1 b.typ.code) ++ bs.flatMap (fun b => leBytes 1 b.k) ++
    leBytes 4 0 ++ (withIndex 0 bs).flatMap (fun (i, b) => b.bytes tick i grant)

/-- The sections after the header, X and SYS: vectors, masks, operator slots, engine tags, matrix, local image. -/
structure RecordParts where
  vectors : List Byte
  masks : List Byte
  slots : List Byte
  tags : List Byte
  matrix : List Byte
  image : List Byte

/-- The sections of a record; `scratch` and `sdata` are the sizes of the hart's local memories. -/
def CtxRecord.parts (cr : CtxRecord) (tick scratch sdata : Nat) : RecordParts where
  vectors :=
    let ew := 8 * 2 ^ fld ((cr.sys[1]?).getD 0).toNat 0 3
    cr.vectors.flatMap (fun en => en.bytes tick ew)
  masks := (withIndex 0 cr.masks).flatMap (fun (r, m) => maskBytes tick cr.vls r m)
  slots := wordBytes (cr.slots.map (·.toNat))
  tags := cr.tags.flatMap (fun (st, cause) => [BitVec.ofNat 8 st, BitVec.ofNat 8 cause])
  matrix := match cr.matrix with
    | some (grant, bins) => matrixBytes tick grant bins
    | none => []
  image := match cr.image with
    | some (a, b) => a.readBytes tick 0 scratch ++ b.readBytes tick 0 sdata
    | none => []

/-- FLAGS (R367). -/
def CtxRecord.flags (cr : CtxRecord) : Nat :=
  bool01 cr.wp + 2 * bool01 cr.pfxWord.isSome + 4 * bool01 cr.matrix.isSome + 8 * bool01 cr.image.isSome

/-- Where the vector section starts. -/
def vectorsAt : Nat := 0x248

/-- The bytes of a context record (R367). -/
def CtxRecord.bytes (cr : CtxRecord) (tick scratch sdata : Nat) : List Byte :=
  let p := cr.parts tick scratch sdata
  let offM := vectorsAt + p.vectors.length
  let offO := offM + p.masks.length
  let offE := offO + p.slots.length
  let offMX := offE + p.tags.length
  let offL := offMX + p.matrix.length
  leBytes 2 1 ++ leBytes 1 cr.state ++ leBytes 1 (Nat.log2 cr.width) ++ leBytes 2 cr.flags ++
    leBytes 2 cr.vectors.length ++ leBytes 8 cr.spc.toNat ++ leBytes 8 cr.rpc.toNat ++
    leBytes 4 ((cr.pfxWord.map (·.toNat)).getD 0) ++ leBytes 4 cr.vls ++ leBytes 4 offM ++ leBytes 4 offO ++
    leBytes 4 offE ++ leBytes 4 (if cr.matrix.isSome then offMX else 0) ++
    leBytes 4 (if cr.image.isSome then offL else 0) ++ leBytes 4 (offL + p.image.length) ++ leBytes 8 0 ++
    wordBytes ((0 : Word) :: cr.x.toList.drop 1 |>.map (·.toNat)) ++ wordBytes (cr.sys.map (·.toNat)) ++
    p.vectors ++ p.masks ++ p.slots ++ p.tags ++ p.matrix ++ p.image

end Sys2Proof.Machine
end

