-- ==== Sys2Proof/Machine/Replay.lean ====
section
/-!
DEFINITION. The results of a span that has not been left as it stood at the stop (R287): undefined values in the place of
what its instructions write and store.
-/
namespace Sys2Proof.Machine

/-- The instruction at the PC has undefined results: it is replayed in a span that has been changed, or stands in a span
whose WIN0 a handler has cleared (R287). -/
def Hart.isLoose (h : Hart) : Bool :=
  (h.replay.isSome && h.span.any (·.broken)) || h.loose.any (fun (a, n) => decide ((h.pc - a).toNat < 4 * n))

/-- A list of an assay bin that nothing fixes. -/
def looseList (tick key k : Nat) : AssayList :=
  let word := fun (i : Nat) => (Config.undefWord tick (key + i)).setWidth 32
  ⟨(List.range ((word 0).toNat % (k + 1))).map (fun i => (word (2 * i + 1), word (2 * i + 2))), (word 200).toNat % 256⟩

/-- An undefined value at element e of register r, in its tag's width. -/
def Hart.looseElem (h : Hart) (tick : Nat) (r : VReg) (e : Nat) : Hart :=
  h.setElem tick (h.kind tick r) r e (Config.undefWord tick (0x6000000 + 0x10000 * r.val + e)).toNat

/-- A bin whose rows nothing fixes. -/
def BinRows.looseRows (b : BinRows) (tick bin : Nat) : BinRows :=
  { b with
    cells := .undefined
    lists := (withIndex 0 b.lists).map (fun (i, _) => looseList tick (0x7000000 + 0x10000 * bin + 0x100 * i) b.k) }

/-- Undefined values in the place of the results of an instruction; `act` picks its active elements. One that did not
complete has written the elements below `upto` alone. DESIGN CHOICE (log entry 62). -/
def Hart.loosen (h : Hart) (tick : Nat) (r : Results) (act : Nat → Bool) (whole : Bool) (upto : Nat) : Hart :=
  let es := (List.range upto).filter act
  let h := forEach r.elems h (fun (h : Hart) d => forEach es h (fun (h : Hart) e => h.looseElem tick d e))
  if !whole then h
  else
    let h := forEach r.x h (fun (h : Hart) d => h.setX d (Config.undefWord tick (0x8000000 + d.val)))
    { h with
      v := Vector.ofFn (fun (d : Fin 48) => if r.regs.contains d then { h.v[d] with words := .undefined } else h.v[d])
      m := Vector.ofFn (fun (d : Fin 12) => if r.masks.contains d then h.m[d].hideFrom 0 else h.m[d])
      bins := Vector.ofFn (fun (b : Fin 4) => if r.bins.contains b then h.bins[b].looseRows tick b.val else h.bins[b])
      athr := if r.athr then BitVec.ofNat 64 (fld (Config.undefWord tick 0x8000040).toNat 0 33) else h.athr }

/-- The lowest vector register that an instruction does not name, V47 aside. -/
def spareReg (i : Instr) : VReg :=
  ((List.finRange 47).find? (fun r => !i.vregs.contains r.val)).elim 0 (fun r => ⟨r.val, by omega⟩)

/-- Register q with undefined contents under the tag of r. -/
def Hart.lendReg (h : Hart) (q r : VReg) : Hart := { h with v := h.v.set q ⟨h.v[r].tag, .undefined⟩ }

/-- Register q again as it stood in `h₀`, in a context record too. -/
def Hart.regainReg (h h₀ : Hart) (q : VReg) : Hart :=
  { h with
    v := h.v.set q h₀.v[q]
    record := h.record.map (fun cr => { cr with vectors := cr.vectors.map (fun en =>
      if en.reg == q.val then h₀.saveEntry q else en) }) }

/-- Change hart k of what a step comes to. -/
def afterHart (k : Nat) (f : Hart → Hart) (r : Result) : Result :=
  match r with
  | .next s =>
    match s.harts[k]? with
    | some h => .next (s.setHart k (f h))
    | none => r
  | r => r

/-- Run an instruction of hart k whose results are undefined: what it stores is read from a register of undefined
contents. DESIGN CHOICE (log entry 62). -/
def runLoose (k : Nat) (i : Instr) (h : Hart) (s : State) : Result :=
  let t := s.tick
  let r := i.results
  let act := h.active t r.m
  let done := fun (h' : Hart) => h'.pc == h.pc + 4 && h'.status == h.status
  let close := fun (h' : Hart) =>
    if h'.loose.any (fun (a, n) => h'.pc == a + BitVec.ofNat 64 (4 * n)) then { h' with loose := none } else h'
  let result := match i.stored with
    | none => exec i s
    | some q =>
      let p := spareReg i
      afterHart k (fun h' => h'.regainReg h p) (exec (i.storing p) (s.setHart k (h.lendReg p q)))
  afterHart k (fun h' => close (h'.loosen t r act (done h') (if done h' then h.vl else h'.vstart))) result

/-- Run the instruction that hart k has fetched (R287). -/
def runFetched (k : Nat) (i : Instr) (s : State) : Result :=
  match s.harts[k]? with
  | some h => if h.isLoose then runLoose k i h s else exec i s
  | none => exec i s

end Sys2Proof.Machine
end

