-- ==== Sys2Proof/Machine/Schedule.lean ====
section
/-!
DEFINITION. Whose turn it is in a step (log entry 1): the agenda, and with nothing on it the harts and their
transfers in rotation; and the placing of a word where the next step fetches (log entry 6).
-/
namespace Sys2Proof.Machine

/-! ### Whose turn it is -/

/-- What moves in a step. -/
inductive Move where
  | hart (k : Nat)
  | window (k : Nat) (ahead : List Nat)
  | vp (k p : Nat)
  | event (i : Instr)
  | soft (e : SoftError)
  | outside (x : RemoteAccess)
  | sensor (temp : Nat)
  | boot
  | idle
  deriving DecidableEq, Repr

/-- The move of hart k when nothing else is asked of it: its next instruction, or the next thing that can
happen in its lane-thread run (R230 to R235). DESIGN CHOICE (log entry 1). -/
def hartMove (k : Nat) (h : Hart) : Option Turn :=
  if h.status == .halting && !h.busyTag then some (.event (.hartEnd k))
  else if h.status != .running then none
  else
    match h.run with
    | none => some (.hart k)
    | some vps =>
      let at_ := fun (f : VpState → Bool) => vps.findIdx? (fun v => f v.state)
      let isBlock : VpState → Bool := fun st => match st with | .waitBlock _ _ => true | _ => false
      let isFault : VpState → Bool := fun st => match st with | .waitFault => true | .faultBlock _ _ => true | _ => false
      match at_ (· == .ready), at_ isBlock, at_ isFault with
      | some p, _, _ => some (.vp k p)
      | none, some p, _ => some (.event (.laneBlockReady k p))
      | none, none, some _ => none
      | none, none, none => some (.event (.laneRunJoin k))

/-- The harts in turn, from the one after `cur`. -/
def rotation (s : State) : List (Nat × Hart) :=
  let hs := withIndex 0 s.harts
  hs.drop (s.cur + 1) ++ hs.take (s.cur + 1)

/-- The end or the failure of tag t of hart k, when nothing from outside is needed for it: a copy, and a
collective that fails or has no other member. -/
def tagMove (s : State) (k : Nat) (h : Hart) (t : Slot) : Option Turn :=
  match h.tags[t] with
  | .busy f =>
    if s.faultKnown k (.engine t.val) then none
    else
      match f.transfer with
      | .copy _ _ _ _ =>
        if (s.transferFails k t).isSome then some (.event (.engineTransferFailure k t))
        else some (.event (.engineTransferEnd k t))
      | .coll d st =>
        if st.met.isSome || d.group.toNat == 2 ^ s.fab.dord then some (.event (.collectiveEnd k t [] none))
        else none
  | _ => none

/-- The first transfer that can end by itself. DESIGN CHOICE (log entry 1). -/
def transferMove (s : State) : Option Turn :=
  (rotation s).findSome? (fun (k, h) => (List.finRange 16).findSome? (fun t => tagMove s k h t))

/-- The first hart in rotation that can move. -/
def firstHart (s : State) : Option Turn := (rotation s).findSome? (fun (k, h) => hartMove k h)

/-- The boot goes on when nothing else moves. -/
def bootMove (s : State) : Option Turn := if s.sec.booting then some .boot else none

/-- The turn that comes next: the agenda's head; with nothing on it, transfers and harts by turns, and the boot.
DESIGN CHOICE (log entry 1). -/
def nextTurn (s : State) : Option Turn × State :=
  match s.agenda with
  | t :: rest => (some t, { s with agenda := rest })
  | [] =>
    let hart := firstHart s
    if s.tick % 2 == 0 || hart.isNone then (((transferMove s).or hart).or (bootMove s), s) else (hart, s)

/-- After a thermal trip nothing acts but a reset or the loss of power (R407). -/
def Turn.wakes : Turn → Bool
  | .event .deviceReset => true
  | .event (.powerLoss _) => true
  | _ => false

/-- The move of a turn, with `cur` and `input` set for it. -/
def moveOf (t : Turn) (s : State) : Move × State :=
  match t with
  | .hart k => (.hart k, { s with cur := k, vp := none })
  | .vp k p => (.vp k p, { s with cur := k, vp := some p })
  | .event x =>
    match eventOf x with
    | none => (.idle, s)
    | some i => (.event i, { s with input := x })
  | .window k ahead =>
    (.window k ahead, { s with cur := k, vp := none })
  | .soft e => (.soft e, s)
  | .outside x => (.outside x, s)
  | .sensor t => (.sensor t, s)
  | .boot => (.boot, s)

/-- The move of this step. DESIGN CHOICE (log entry 1). -/
def pickMove (s : State) : Move × State :=
  match nextTurn s with
  | (none, s) => (.idle, s)
  | (some t, s) => if s.rel.tripped && !t.wakes then (.idle, s) else moveOf t s

/-! ### Placing a word where the next step fetches (the host's probe) -/

/-- The physical address of the word that the next step fetches, when it fetches one.
DEDUCED (log entry 6). -/
def fetchPlace (s₀ : State) : Option Nat :=
  let s := s₀.passTime
  match nextTurn s with
  | (some (.hart k), _) =>
    match s.harts[k]? with
    | none => none
    | some h =>
      if !h.canIssue || h.replay.isSome || s.rel.tripped then none
      else
        match Ctx.checked ⟨h, s⟩ h.pc.toNat 4 .fetch none with
        | .ok (.phys pa, _) => some pa
        | _ => none
  | _ => none

/-- The ASID table and the page tables of `installHart`: descriptor 0 at 0x1_0000 and three levels from
0x2_0000, whose one leaf maps the first GiB at its own address with R, W and X. DEDUCED (log entry 6). -/
def installTables (m : Memory) : Memory :=
  let m := m.clear 0x10000 64
  let m := (m.writeLe 0x10000 8 0x20000).writeLe 0x10018 8 1
  let m := ((m.clear 0x20000 0x800).clear 0x21000 0x1000).clear 0x22000 0x1000
  ((m.writeLe 0x20000 8 0x21001).writeLe 0x21000 8 0x22001).writeLe 0x22000 8 0x1F

/-- The launch of `installHart`: one hart of class 0 at 0x0100_0000 under ASID 0. DEDUCED (log entry 6). -/
def installLaunch : Launch where
  queue := 0
  req := ⟨1, 0, 0, 1, 8, 1, 0, 0, 0, 0, 0x1000000, 0, 0, 0, 0, 0, 0, 0, 0, 0, 0⟩
  accepted := 0
  phase := .started
  aged := false
  target := none
  failure := none
  status := 0
  startedAt := 0

/-- A machine in which no hart can fetch gets one that can: what the host's launch, the hall and a
program's load would have done (log entry 6). -/
def installHart (s : State) : State :=
  { s with
    harts := [{ Hart.reset with
      launch := s.hall.launches.length
      status := .running
      gangn := 1
      scratchSize := 0x8000
      sdataSize := 0x1000
      pc := 0x1000000 }]
    mem := installTables s.mem
    poison := []
    tlb := []
    hall := { s.hall with atbase := 0x10000, atlim := 1, launches := s.hall.launches ++ [installLaunch] }
    fab := { s.fab with dord := 0 }
    rel := { s.rel with tripped := false }
    sec := { s.sec with stage := 5 }
    cur := 0
    vp := none
    agenda := [] }

/-- Store a word at a physical address. DEDUCED (log entry 6). -/
def State.placeWord (s : State) (pa w : Nat) : State :=
  { s with mem := s.mem.writeLe pa 4 w, poison := s.poison.filter (fun p => p != pa / 32) }

end Sys2Proof.Machine
end

