-- ==== Sys2Proof/Machine/Window.lean ====
section
/-!
DEFINITION. The chain window (R277 to R285): when the oldest instruction of a hart stays unfinished at a trap or a
hard stop, how far the instructions behind it have come, as the hart's `ahead` says.
-/
namespace Sys2Proof.Machine

/-! ### What a window instruction reads and writes -/

/-- The memory a window instruction touches. -/
inductive Touch where
  | quiet
  /-- Consecutive elements from an X register's address, under a register's tag. -/
  | unit (store : Bool) (base : XReg) (r : VReg)
  | anywhere (store : Bool)
  deriving DecidableEq, Repr

/-- A window instruction's registers: V and M registers read and written by their numbers, X registers read; its
memory; and whether it takes its elements in order, so that a consumer may follow it (R285). Of the V registers it
reads, those in `late` have a clear chain bit: it starts only after their producer's last element group (R82). -/
structure Streams where
  reads : List Nat
  late : List Nat
  writes : List Nat
  mreads : List Nat
  mwrites : List Nat
  xreads : List Nat
  touch : Touch
  inOrder : Bool
  deriving DecidableEq, Repr

/-- The predicate that an instruction reads, under a pending prefix word (R93). -/
def predicateOf (pfx : Option (BitVec 32)) (m : Bool) : List Nat :=
  if m then [match pfx with | some w => fld w.toNat 22 4 % 12 | none => 0] else []

/-- The registers of sources whose chain bit is clear (R82). -/
def lateOf (srcs : List (VReg × Bool)) : List Nat := (srcs.filter (fun x => !x.2)).map (fun x => x.1.val)

/-- An element-wise instruction over registers, each source with its chain bit; V47 may hold the scales of its
operands (R35), and `acc` says that it reads vd too. -/
def streamAlu (pm : List Nat) (d : VReg) (acc : Bool) (srcs : List (VReg × Bool)) (xs : List XReg) :
    Option Streams :=
  some ⟨47 :: (if acc then [d.val] else []) ++ srcs.map (fun x => x.1.val), lateOf srcs, [d.val], pm, [],
    xs.map (·.val), .quiet, true⟩

/-- A comparison. -/
def streamCompare (pm : List Nat) (d : MReg) (a : VReg) (b : CmpOperand) (ca : Bool) : Option Streams :=
  let (vs, xs) := match b with
    | .vec b => ([(a, ca), (b, ca)], [])
    | .scalar x => ([(a, ca)], [x.val])
    | .athr => ([(a, ca)], [])
  some ⟨47 :: vs.map (fun x => x.1.val), lateOf vs, [], pm, [d.val], xs, .quiet, true⟩

/-- An operation on masks. -/
def streamMask (pm : List Nat) (d : MReg) (reads : List MReg) : Option Streams :=
  some ⟨[], [], [], reads.map (·.val) ++ pm, [d.val], [], .quiet, true⟩

/-- A vector load. -/
def streamLoad (pm : List Nat) (d : VReg) (srcs : List (VReg × Bool)) (xs : List XReg) (touch : Touch) :
    Option Streams :=
  some ⟨srcs.map (fun x => x.1.val), lateOf srcs, [d.val], pm, [], xs.map (·.val), touch, true⟩

/-- A vector store. -/
def streamStore (pm : List Nat) (srcs : List (VReg × Bool)) (xs : List XReg) (touch : Touch) : Option Streams :=
  some ⟨srcs.map (fun x => x.1.val), lateOf srcs, [], pm, [], xs.map (·.val), touch, true⟩

/-- A pass (R206), which has no chain bit (R82). -/
def streamPass (vs : List VReg) : Option Streams :=
  some ⟨vs.map (·.val), vs.map (·.val), vs.map (·.val), [10, 11], [10, 11], [], .quiet, false⟩

/-- What a window instruction that sets no tag and writes no X register reads and writes; none for another
instruction, behind which, and as which, nothing is begun. DEDUCED (log entry 14). -/
def streamsOf (pfx : Option (BitVec 32)) (i : Instr) : Option Streams :=
  let p := predicateOf pfx
  match i with
  | .vadd d a b m ca cb => streamAlu (p m) d false [(a, ca), (b, cb)] []
  | .vsub d a b m ca cb => streamAlu (p m) d false [(a, ca), (b, cb)] []
  | .vmul d a b m ca cb => streamAlu (p m) d false [(a, ca), (b, cb)] []
  | .vdiv d a b m ca cb => streamAlu (p m) d false [(a, ca), (b, cb)] []
  | .vmin d a b m ca cb => streamAlu (p m) d false [(a, ca), (b, cb)] []
  | .vmax d a b m ca cb => streamAlu (p m) d false [(a, ca), (b, cb)] []
  | .vmulh d a b m ca cb => streamAlu (p m) d false [(a, ca), (b, cb)] []
  | .vrem d a b m ca cb => streamAlu (p m) d false [(a, ca), (b, cb)] []
  | .vand d a b m ca cb => streamAlu (p m) d false [(a, ca), (b, cb)] []
  | .vor d a b m ca cb => streamAlu (p m) d false [(a, ca), (b, cb)] []
  | .vxor d a b m ca cb => streamAlu (p m) d false [(a, ca), (b, cb)] []
  | .vsll d a b m ca cb => streamAlu (p m) d false [(a, ca), (b, cb)] []
  | .vsrl d a b m ca cb => streamAlu (p m) d false [(a, ca), (b, cb)] []
  | .vsra d a b m ca cb => streamAlu (p m) d false [(a, ca), (b, cb)] []
  | .vsqrt d a m ca => streamAlu (p m) d false [(a, ca)] []
  | .vabs d a m ca => streamAlu (p m) d false [(a, ca)] []
  | .vneg d a m ca => streamAlu (p m) d false [(a, ca)] []
  | .vnot d a m ca => streamAlu (p m) d false [(a, ca)] []
  | .vclz d a m ca => streamAlu (p m) d false [(a, ca)] []
  | .vcnt d a m ca => streamAlu (p m) d false [(a, ca)] []
  | .vrcpe d a m ca => streamAlu (p m) d false [(a, ca)] []
  | .vrsqe d a m ca => streamAlu (p m) d false [(a, ca)] []
  | .vfma d a b m ca cb => streamAlu (p m) d true [(a, ca), (b, cb)] []
  | .vfms d a b m ca cb => streamAlu (p m) d true [(a, ca), (b, cb)] []
  | .vfnma d a b m ca cb => streamAlu (p m) d true [(a, ca), (b, cb)] []
  | .vaddX d a b m ca => streamAlu (p m) d false [(a, ca)] [b]
  | .vsubX d a b m ca => streamAlu (p m) d false [(a, ca)] [b]
  | .vmulX d a b m ca => streamAlu (p m) d false [(a, ca)] [b]
  | .vminX d a b m ca => streamAlu (p m) d false [(a, ca)] [b]
  | .vmaxX d a b m ca => streamAlu (p m) d false [(a, ca)] [b]
  | .vandX d a b m ca => streamAlu (p m) d false [(a, ca)] [b]
  | .vorX d a b m ca => streamAlu (p m) d false [(a, ca)] [b]
  | .vxorX d a b m ca => streamAlu (p m) d false [(a, ca)] [b]
  | .vsllX d a b m ca => streamAlu (p m) d false [(a, ca)] [b]
  | .vsrlX d a b m ca => streamAlu (p m) d false [(a, ca)] [b]
  | .vsraX d a b m ca => streamAlu (p m) d false [(a, ca)] [b]
  | .vfmaX d a b m ca => streamAlu (p m) d true [(a, ca)] [b]
  | .vbcst d b m => streamAlu (p m) d false [] [b]
  | .vidx d m => streamAlu (p m) d false [] []
  | .vcmpEq d a b m ca => streamCompare (p m) d a b ca
  | .vcmpNe d a b m ca => streamCompare (p m) d a b ca
  | .vcmpLt d a b m ca => streamCompare (p m) d a b ca
  | .vcmpLe d a b m ca => streamCompare (p m) d a b ca
  | .vcmpGt d a b m ca => streamCompare (p m) d a b ca
  | .vcmpGe d a b m ca => streamCompare (p m) d a b ca
  | .vcmpUn d a b m ca => streamCompare (p m) d a b ca
  | .vcmpOr d a b m ca => streamCompare (p m) d a b ca
  | .mand d a b m => streamMask (p m) d [a, b]
  | .mor d a b m => streamMask (p m) d [a, b]
  | .mxor d a b m => streamMask (p m) d [a, b]
  | .mandn d a b m => streamMask (p m) d [a, b]
  | .mnot d a m => streamMask (p m) d [a]
  | .vld d x m => streamLoad (p m) d [] [x] (.unit false x d)
  | .vldO d x m => streamLoad (p m) d [] [x] (.unit false x d)
  | .vlds d x y m => streamLoad (p m) d [] [x, y] (.anywhere false)
  | .vldsO d x y m => streamLoad (p m) d [] [x, y] (.anywhere false)
  | .vldx d x i m ca => streamLoad (p m) d [(i, ca)] [x] (.anywhere false)
  | .vldxO d x i m ca => streamLoad (p m) d [(i, ca)] [x] (.anywhere false)
  | .vst r x m ca => streamStore (p m) [(r, ca)] [x] (.unit true x r)
  | .vstO r x m ca => streamStore (p m) [(r, ca)] [x] (.unit true x r)
  | .vsts r x y m ca => streamStore (p m) [(r, ca)] [x, y] (.anywhere true)
  | .vstsO r x y m ca => streamStore (p m) [(r, ca)] [x, y] (.anywhere true)
  | .vstx r x i m ca => streamStore (p m) [(r, ca), (i, ca)] [x] (.anywhere true)
  | .vstxO r x i m ca => streamStore (p m) [(r, ca), (i, ca)] [x] (.anywhere true)
  | .pass d c _ _ _ _ _ => streamPass [d, c]
  | .passk d c k _ => streamPass [d, c, k]
  | _ => none

/-! ### What one instruction owes another -/

/-- Some number stands in both lists. -/
def meets (a b : List Nat) : Bool := a.any (fun n => b.contains n)

/-- The registers of two instructions, the first writing one that the second names. -/
def Streams.feeds (a b : Streams) : Bool :=
  meets a.writes (b.reads ++ b.writes) || meets a.mwrites (b.mreads ++ b.mwrites)

/-- The bytes that an instruction touches, where they are known; their number. -/
def Touch.range (h : Hart) (tick : Nat) : Touch → Option (Nat × Nat)
  | .unit _ base r => some ((h.getX base).toNat, imageSize (h.kw (h.kind tick r)) * h.vl)
  | _ => none

/-- It stores. -/
def Touch.stores : Touch → Bool
  | .quiet => false | .unit st _ _ => st | .anywhere st => st

/-- Two instructions may touch a byte that one of them stores to. -/
def Touch.conflicts (h : Hart) (tick : Nat) (a b : Touch) : Bool :=
  a != .quiet && b != .quiet && (a.stores || b.stores) &&
    match a.range h tick, b.range h tick with
    | some (x, n), some (y, m) =>
      overlap x n y m || decide (2 ^ 64 < x + n) || decide (2 ^ 64 < y + m)
    | _, _ => true

/-- The element group boundary at or below element n (R281). -/
def Hart.groupFloor (h : Hart) (n : Nat) : Nat :=
  if h.vcols == 0 then 0 else n / h.vcols * h.vcols + n % h.vcols / h.groupCols * h.groupCols

/-- An instruction of the window that is unfinished: its distance, its resume index, and what it reads and writes. -/
structure Begun where
  dist : Nat
  idx : Nat
  streams : Option Streams
  deriving DecidableEq, Repr

/-- How many elements the instruction `y` may complete behind one that is unfinished (R82, R83, R285). -/
def Begun.limit (h : Hart) (tick : Nat) (o : Begun) (y : Streams) : Nat :=
  match o.streams with
  | none => 0
  | some x =>
    if x.touch.conflicts h tick y.touch || meets x.writes y.late then 0
    else if x.feeds y || y.feeds x then (if x.inOrder && y.inOrder then h.groupFloor o.idx else 0)
    else h.vl

/-! ### The instructions behind the oldest one -/

/-- The window while it is looked at: the machine, the instructions unfinished, in program order, the distance of the
next word, and how far the window instructions to come may come. -/
structure Window where
  s : State
  begun : List Begun
  nxt : Nat
  ahead : List Nat

/-- How an attempt to run an instruction of the window ends. -/
inductive Tried where
  /-- It traps at issue, so that it has not issued. -/
  | unissued
  | finished (s : State)
  /-- Unfinished at an index; it met a fault there. -/
  | begun (s : State) (idx : Nat) (fault : Bool)

/-- What an instruction of the window leaves in the hart. -/
def Hart.absorb (h h' : Hart) : Hart :=
  { h with
    v := h'.v
    m := h'.m
    fpcsr := h'.fpcsr
    passst := h'.passst
    scratch := h'.scratch
    tags := h'.tags
    noAck := h'.noAck }

/-- Run instruction i of hart k at `pc` under a prefix, up to element g, a group boundary: as a hart at it would
with a stop that falls inside it, whose window is looked at. -/
def tryInstr (k : Nat) (i : Instr) (pfx : Option (BitVec 32)) (pc : Word) (g : Nat) (s : State) : Tried :=
  match s.harts[k]? with
  | none => .unissued
  | some h =>
    let probe : Hart := { h with
      pc := pc
      pfx := pfx
      waits := false
      vstart := 0
      stopAt := some g
      ahead := [0]
      drain := none
      lt := true
      tvec := 1 }
    match exec i (s.setHart k probe) with
    | .next s' =>
      match s'.harts[k]? with
      | none => .unissued
      | some h' =>
        let back := s'.setHart k (h.absorb h')
        match h'.drain with
        | some d => .begun back d.idx d.trap.isSome
        | none =>
          if h'.pc = pc + 4 then .finished back
          else if h'.pc = pc then .begun s 0 false
          else .unissued
    | _ => .unissued

/-- The same; an instruction that meets a fault of its own has come only to the group below (R285). -/
def beginInstr (k : Nat) (i : Instr) (pfx : Option (BitVec 32)) (pc : Word) (g : Nat) (s : State) : Tried :=
  match tryInstr k i pfx pc g s with
  | .begun _ idx true =>
    let low := match s.harts[k]? with
      | some h => h.groupFloor idx
      | none => 0
    match tryInstr k i pfx pc low s with
    | .begun s' idx false => .begun s' idx false
    | _ => .begun s 0 false
  | r => r

/-- A scalar register instruction at a word of the window (R277). -/
def scalarWord (h : Hart) (w : Nat) : Bool :=
  let m := fld w 26 6
  (decide (2 ≤ m) && decide (m ≤ 0x0B)) || (m == 0x0C && fld h.fpcsr.toNat 5 5 == 0)

/-- An X register is read by an instruction that is unfinished, or may be (R278). -/
def Begun.holdsX (o : Begun) (r : XReg) : Bool :=
  match o.streams with
  | none => true
  | some x => x.xreads.contains r.val

/-- The instruction at a word of the window that has been fetched. -/
def Ctx.wordAt (c : Ctx) (a : Word) : Option (Nat × Instr) :=
  match c.fetch a with
  | .ok (w, _) =>
    match decodeWord w with
    | .instr i => some (w, i)
    | .illegal _ _ => none
  | .error _ => none

/-- A scalar register instruction of the window completes (R284). -/
def Window.scalar (win : Window) (k : Nat) (h : Hart) (pc : Word) (i : Instr) : Option Window :=
  match vpScalar i with
  | none => none
  | some e =>
    if win.begun.any (fun o => match e.dest with | some r => o.holdsX r | none => true) then none
    else
      match e.run ⟨{ h with pc := pc, pfx := none }, win.s⟩ with
      | .done c => some { win with
          s := win.s.setHart k { h with x := c.h.x, fpcsr := c.h.fpcsr }
          nxt := win.nxt + 1 }
      | _ => none

/-- A window instruction of the window, `skip` words after its prefix: at most four are unfinished; a second pass
waits for the first (R278). -/
def Window.vector (win : Window) (k : Nat) (h : Hart) (pc : Word) (i : Instr) (pfx : Option (BitVec 32))
    (skip : Nat) : Option Window :=
  match streamsOf pfx i, win.ahead with
  | some y, a :: rest =>
    let pass := !y.inOrder && win.begun.any (fun o => match o.streams with | some x => !x.inOrder | none => true)
    if 4 ≤ win.begun.length || h.blk == 2 || pass then none
    else
      let g := h.groupFloor (win.begun.foldl (fun g o => min g (o.limit h win.s.tick y)) (min a h.vl))
      match beginInstr k i pfx pc g win.s with
      | .unissued => none
      | .finished s => some { win with s := s, nxt := win.nxt + skip + 1, ahead := rest }
      | .begun s idx _ => some { win with
          s := s
          begun := win.begun ++ [⟨win.nxt + skip, idx, some y⟩]
          nxt := win.nxt + skip + 1
          ahead := rest }
  | _, _ => none

/-- The next word of the window; none where issue stops (R277, R278). -/
def Window.next (win : Window) (k : Nat) (base : Word) : Option Window :=
  if 255 ≤ win.nxt + 1 then none
  else
    match win.s.harts[k]? with
    | none => none
    | some h =>
      let c : Ctx := ⟨h, win.s⟩
      let pc := base + BitVec.ofNat 64 (4 * win.nxt)
      match c.wordAt pc with
      | none => none
      | some (w, i) =>
        if fld w 26 6 == 1 then
          match c.wordAt (pc + 4) with
          | none => none
          | some (_, j) => win.vector k h (pc + 4) j (some (BitVec.ofNat 32 w)) 1
        else if scalarWord h w then win.scalar k h pc i
        else win.vector k h pc i none 0

/-- Look at the words of the window until issue stops. -/
def Window.run (win : Window) (k : Nat) (base : Word) : Nat → Window
  | 0 => win
  | n + 1 =>
    match win.next k base with
    | none => win
    | some win => win.run k base n

/-- When the instruction at hart k's PC has stayed unfinished, look at the window behind it, and then take its trap or
its stop (R284). DEDUCED (log entry 14). -/
def settleWindow (k : Nat) (s : State) : State :=
  match s.harts[k]? with
  | none => s
  | some h =>
    match h.drain with
    | none => s.setHart k { h with ahead := [] }
    | some d =>
      let before := bool01 h.pfx.isSome
      let base := h.pc - BitVec.ofNat 64 (4 * before)
      let oldest : Begun := ⟨before, d.idx, (Ctx.wordAt ⟨h, s⟩ h.pc).bind (fun (_, i) => streamsOf h.pfx i)⟩
      let win := Window.run ⟨s, [oldest], before + 1, h.ahead⟩ k base 256
      match win.s.harts[k]? with
      | none => s
      | some h' =>
        let younger := (win.begun.drop 1).map (fun o => (o.dist, o.idx))
        let c : Ctx := ⟨{ h' with drain := some { d with entries := younger, nxt := win.nxt } }, win.s⟩
        match d.trap with
        | some t => enterTrap k c t
        | none => c.stopInside k d.idx

end Sys2Proof.Machine
end

