-- ==== Sys2Proof/Machine/Step.lean ====
section
/-!
DEFINITION. One step of the machine: time passes, the agenda says what moves, and the instruction or event
that moves has its effect; and the placing of a word where the next step fetches.
-/
namespace Sys2Proof.Machine

/-- One step. DESIGN CHOICE (log entry 1). -/
def step (s : State) : Host.Outcome State Fault Refusal :=
  match pickMove s.passTime with
  | (.idle, s) => .next s
  | (.event i, s) => exec i s
  | (.vp k p, s) => .next (vpStep k p s)
  | (.soft e, s) => .next (softError e s)
  | (.outside x, s) => .next (outsideAccess x s)
  | (.sensor t, s) => .next (s.heat t)
  | (.boot, s) => .next (bootStep s)
  | (.hart k, s) =>
    match fetchHart k s with
    | .rest s => .next s
    | .run i s => runFetched k i s
  | (.window k ahead, s) =>
    match fetchHart k { s with harts := s.harts.modify k (fun h => { h with ahead := ahead }) } with
    | .rest s => .next (settleWindow k s)
    | .run i s =>
      match runFetched k i s with
      | .next s => .next (settleWindow k s)
      | r => r

/-- The state in which the next step fetches and runs the instruction whose bits are `w` (`nbits` of them,
every bit above zero): stored where the next hart to move fetches, or in a machine with such a hart.
DEDUCED (log entry 6). -/
def State.withFetchWord (s : State) (nbits w : Nat) : State :=
  let word := w % 2 ^ nbits % 2 ^ 32
  match fetchPlace s with
  | some pa => s.placeWord pa word
  | none => (installHart s).placeWord 0x1000000 word

end Sys2Proof.Machine
end

