-- ==== Sys2Proof/Safety.lean ====
section
/-!
DEFINITION. The terms in which claims speak of runs: reachability by steps, invariants of the step, and a
run that meets no stop.
-/
namespace Sys2Proof.Machine

/-- `t` follows from `s` by steps that answer a next state. -/
inductive Reaches : State → State → Prop where
  | refl (s : State) : Reaches s s
  | tail {s t u : State} (h : Reaches s t) (h' : step t = .next u) : Reaches s u

/-- A property that every step keeps, from any state that has it. -/
def StepKeeps (p : State → Prop) : Prop := ∀ s t : State, p s → step s = .next t → p t

/-- A step that neither faults nor is refused. -/
def Runs (s : State) : Prop := ∃ t : State, step s = .next t

end Sys2Proof.Machine
end

