-- ==== Sys2Proof/Certificates/Slice0/Obligations.lean ====
section
/-!
DEFINITION. The statements for the provers, from the numbered rules of spec/, and the words they are written
in. `Claims` holds the words: when a hart may issue an instruction (`Issues`), the machine after an instruction
that completes (`finished`, `jumped`), and one table for each family that says, from the family's rule, what its
instructions write. Each statement is a `def Obligations.… : Prop`.
-/
section ObligationsOfSlice0

open Sys2Proof Sys2Proof.Machine

/-! ## Words -/

namespace Sys2Proof.Claims

/-- Hart `h`, whose turn it is in `s`, may issue `i`: it runs, it waits for no lane-thread run, the pending
prefix admits `i` (R94), VTYPE is well formed where `i` depends on it (R30), and after LSPLIT `i` is VFETCH
(R228). -/
structure Issues (i : Instr) (s : State) (h : Hart) : Prop where
  turn : s.harts[s.cur]? = some h
  running : h.status = .running
  noRun : h.run = none
  prefixOk : h.prefixAdmits i = true
  vtypeOk : i.usesVtype = true → h.vill = false
  splitOk : h.split = true → i.isVfetch = true

/-- A hart whose instruction no longer waits: its prefix is used up. -/
def issuedHart (h : Hart) : Hart := { h with pfx := none, waits := false, sentAt := none, sentPage := none }

/-- A hart with no unfinished instruction: WIN0 to WIN3 are zero. -/
def shutHart (h : Hart) : Hart := { h with win := Vector.replicate 4 0, windowed := false, replay := none }

/-- The machine after an instruction that completes with hart `h'`: the hart goes on at PC + 4
(`Obligations.CompletedInstruction` says what that is). -/
def finished (s : State) (h' : Hart) : State := settle s.cur (.done ⟨h', s⟩)

/-- The machine after a control transfer to `pc`. -/
def jumped (s : State) (h' : Hart) (pc : Word) : State := settle s.cur (.goto ⟨h', s⟩ pc)

/-- The machine after a trap of hart `h` (`Obligations.TrapToTvec` and `Obligations.TrapToHall` say what that
is). -/
def trapped (s : State) (h : Hart) (t : Trap) : State := deliverTrap s.cur ⟨h, s⟩ t

/-- A word from a truth value. -/
def truth (b : Prop) [Decidable b] : Word := if b then 1 else 0

/-! ### Integer instructions (R125 to R127) -/

/-- xa shifted left, right with zeros, right with its sign, by any amount (R125). -/
def sllOf (a : Word) (sh : Nat) : Word := if 64 ≤ sh then 0 else BitVec.ofNat 64 (a.toNat * 2 ^ sh)
/-- u(xa) ÷ 2^sh. -/
def srlOf (a : Word) (sh : Nat) : Word := if 64 ≤ sh then 0 else BitVec.ofNat 64 (a.toNat / 2 ^ sh)
/-- floor(s(xa) ÷ 2^sh), 0 or −1 for sh ≥ 64. -/
def sraOf (a : Word) (sh : Nat) : Word :=
  if 64 ≤ sh then (if a.toInt < 0 then BitVec.allOnes 64 else 0) else BitVec.ofInt 64 (a.toInt / 2 ^ sh)

/-- The leading zero bits of a word. -/
def clzOf (a : Word) : Nat := if a = 0 then 64 else 63 - Nat.log2 a.toNat
/-- The trailing zero bits of a word: the position of its lowest one bit. -/
def ctzOf (a : Word) : Nat := ((List.range 64).find? (fun k => a.getLsbD k)).getD 64
/-- The one bits of a word. -/
def cntOf (a : Word) : Nat := ((List.range 64).filter (fun k => a.getLsbD k)).length

/-- xd and its new value, for the register and immediate forms (R125, R126, R127). -/
def intResult (h : Hart) : Instr → Option (XReg × Word)
  | .add d a b => some (d, h.getX a + h.getX b)
  | .sub d a b => some (d, h.getX a - h.getX b)
  | .and d a b => some (d, h.getX a &&& h.getX b)
  | .or d a b => some (d, h.getX a ||| h.getX b)
  | .xor d a b => some (d, h.getX a ^^^ h.getX b)
  | .sll d a b => some (d, sllOf (h.getX a) (h.getU b))
  | .srl d a b => some (d, srlOf (h.getX a) (h.getU b))
  | .sra d a b => some (d, sraOf (h.getX a) (h.getU b))
  | .slt d a b => some (d, truth ((h.getX a).toInt < (h.getX b).toInt))
  | .sltu d a b => some (d, truth (h.getU a < h.getU b))
  | .min d a b => some (d, if (h.getX a).toInt ≤ (h.getX b).toInt then h.getX a else h.getX b)
  | .max d a b => some (d, if (h.getX a).toInt ≤ (h.getX b).toInt then h.getX b else h.getX a)
  | .minu d a b => some (d, if h.getU a ≤ h.getU b then h.getX a else h.getX b)
  | .maxu d a b => some (d, if h.getU a ≤ h.getU b then h.getX b else h.getX a)
  | .mul d a b => some (d, BitVec.ofNat 64 (h.getU a * h.getU b))
  | .mulh d a b => some (d, BitVec.ofInt 64 ((h.getX a).toInt * (h.getX b).toInt / 2 ^ 64))
  | .mulhu d a b => some (d, BitVec.ofNat 64 (h.getU a * h.getU b / 2 ^ 64))
  | .div d a b => some (d, if h.getX b = 0 then BitVec.allOnes 64 else
      BitVec.ofInt 64 ((h.getX a).toInt.tdiv (h.getX b).toInt))
  | .divu d a b => some (d, if h.getX b = 0 then BitVec.allOnes 64 else BitVec.ofNat 64 (h.getU a / h.getU b))
  | .rem d a b => some (d, if h.getX b = 0 then h.getX a else
      BitVec.ofInt 64 ((h.getX a).toInt.tmod (h.getX b).toInt))
  | .remu d a b => some (d, if h.getX b = 0 then h.getX a else BitVec.ofNat 64 (h.getU a % h.getU b))
  | .clz d a => some (d, BitVec.ofNat 64 (clzOf (h.getX a)))
  | .ctz d a => some (d, BitVec.ofNat 64 (ctzOf (h.getX a)))
  | .cnt d a => some (d, BitVec.ofNat 64 (cntOf (h.getX a)))
  | .sel d a b c => some (d, if h.getX c ≠ 0 then h.getX a else h.getX b)
  | .addi d a imm => some (d, h.getX a + imm.signExtend 64)
  | .andi d a imm => some (d, h.getX a &&& imm.zeroExtend 64)
  | .ori d a imm => some (d, h.getX a ||| imm.zeroExtend 64)
  | .xori d a imm => some (d, h.getX a ^^^ imm.zeroExtend 64)
  | .slti d a imm => some (d, truth ((h.getX a).toInt < imm.toInt))
  | .sltiu d a imm => some (d, truth (h.getU a < (imm.signExtend 64 : Word).toNat))
  | .slli d a sh => some (d, sllOf (h.getX a) sh.toNat)
  | .srli d a sh => some (d, srlOf (h.getX a) sh.toNat)
  | .srai d a sh => some (d, sraOf (h.getX a) sh.toNat)
  | .lui d imm => some (d, imm.signExtend 64 <<< 16)
  | .addpc d imm => some (d, h.pc + imm.signExtend 64)
  | _ => none

/-! ### Scalar floating point (R128, R129) -/

/-- The value of an operand: all 64 bits as F64, or bits [31:0] as F32 (R19). -/
def fpValue (h : Hart) (single : Bool) (r : XReg) : Val :=
  if single then fmtF32.value (h.getU r % 2 ^ 32) else fmtF64.value (h.getU r)

/-- round(v, T) under FPCSR.RM with its flags, after an operation that itself raised some. -/
def fpRounded (h : Hart) (single : Bool) (v : Val × Flags) : Nat × Flags :=
  let r := (if single then fmtF32 else fmtF64).round h.scalarRounding v.1
  (r.1, r.2 ||| v.2)

/-- A comparison: false on a NaN; NV for a signalling operand, or for any NaN when `all`. -/
def fpCompared (x y : Val) (all holds : Bool) : Nat × Flags :=
  (if !x.isNan && !y.isNan && holds then 1 else 0,
   if x.isSnan || y.isSnan || (all && (x.isNan || y.isNan)) then flagNV else 0)

/-- xd, its new bits and the flags raised (R128, R129). -/
def fpResult (h : Hart) : Instr → Option (XReg × (Nat × Flags))
  | .fadd d a b g => some (d, fpRounded h g ((fpValue h g a).add h.scalarRm (fpValue h g b)))
  | .fsub d a b g => some (d, fpRounded h g ((fpValue h g a).sub h.scalarRm (fpValue h g b)))
  | .fmul d a b g => some (d, fpRounded h g ((fpValue h g a).mul (fpValue h g b)))
  | .fdiv d a b g => some (d, fpRounded h g ((fpValue h g a).div (fpValue h g b)))
  | .fsqrt d a g => some (d, fpRounded h g (fpValue h g a).sqrt)
  | .fmin d a b g => some (d, fpRounded h g ((fpValue h g a).minimum (fpValue h g b)))
  | .fmax d a b g => some (d, fpRounded h g ((fpValue h g a).maximum (fpValue h g b)))
  | .fma d a b c g =>
    some (d, fpRounded h g ((fpValue h g a).fma h.scalarRm (fpValue h g b) (fpValue h g c)))
  | .fnma d a b c g =>
    some (d, fpRounded h g ((fpValue h g a).negate.fma h.scalarRm (fpValue h g b) (fpValue h g c)))
  | .feq d a b g => some (d, let x := fpValue h g a; let y := fpValue h g b
      fpCompared x y false (x.cmp y == 0))
  | .flt d a b g => some (d, let x := fpValue h g a; let y := fpValue h g b
      fpCompared x y true (decide (x.cmp y < 0)))
  | .fle d a b g => some (d, let x := fpValue h g a; let y := fpValue h g b
      fpCompared x y true (decide (x.cmp y ≤ 0)))
  | .fcvtDL d a g => some (d, fpRounded h g (.ofInt (h.getX a).toInt, 0))
  | .fcvtLD d a g => some (d, roundInt true 64 h.scalarRounding (fpValue h g a))
  | .fcvtDS d a => some (d, fpRounded h false (fpValue h true a, 0))
  | .fcvtSD d a => some (d, fpRounded h true (fpValue h false a, 0))
  | .fabs d a g => some (d, (if g then h.getU a % 2 ^ 31 else h.getU a % 2 ^ 63, 0))
  | .fneg d a g =>
    some (d, (if g then (h.getU a % 2 ^ 32) ^^^ 2 ^ 31 else h.getU a ^^^ 2 ^ 63, 0))
  | .fkind d a g =>
    some (d, (if g then kindWord fmtF32 (h.getU a % 2 ^ 32) else kindWord fmtF64 (h.getU a), 0))
  | _ => none

end Sys2Proof.Claims

open Sys2Proof.Claims

/-! ## Completion and traps -/

/-- R78, R93, R95, R286, R292: an instruction that completes leaves the hart at PC + 4 with the prefix used up
and everything else as its own effect left it; a control transfer leaves it at the target; a replay goes on to
its next distance, and its last word leaves WIN0 to WIN3 zero; a hard stop that waited for the boundary falls there,
outside lane-thread mode, with an empty window. (`waits`, `sentAt` and `sentPage`, which only an instruction that waits
sets, are the model's, log entries 44 and 54.) -/
def Obligations.CompletedInstruction : Prop :=
  ∀ (s : State) (h : Hart),
    (h.stopAt = none → h.replay = none →
      finished s h = s.setHart s.cur { issuedHart h with pc := h.pc + 4 } ∧
      ∀ pc : Word, jumped s h pc = s.setHart s.cur { issuedHart h with pc := pc }) ∧
    (h.stopAt = none → ∀ rp : Replay, h.replay = some rp →
      finished s h = s.setHart s.cur (if rp.n ≤ rp.d + 1
        then { shutHart (issuedHart h) with pc := h.pc + 4 }
        else { issuedHart h with pc := h.pc + 4, replay := some ⟨rp.base, rp.n, rp.d + 1⟩ })) ∧
    (h.stopAt.isSome = true → h.lt = false → h.replay = none →
      finished s h = s.hardStop s.cur { shutHart (issuedHart h) with pc := h.pc + 4 } .stopped 2 (h.pc + 4))

/-! ## Scalar instructions -/

/-- R125, R126, R127: an integer instruction of a hart that may issue it completes, and writes to xd the
value the tables give; it sets no flag and changes nothing else (a write to X0 is discarded, R19).

R19: X0 reads as zero and a write to it is discarded; a write to another register is read back, and
changes no other register. -/
def Obligations.IntegerResults : Prop :=
  (∀ (s : State) (h : Hart) (i : Instr) (d : XReg) (w : Word),
     Issues i s h → intResult h i = some (d, w) → exec i s = .next (finished s (h.setX d w))) ∧
  (∀ (h : Hart) (d r : XReg) (w : Word),
     h.getX 0 = 0 ∧ h.setX 0 w = h ∧ (d ≠ 0 → (h.setX d w).getX d = w) ∧
     (r ≠ d → (h.setX d w).getX r = h.getX r))

/-- R129: FKIND's word: KIND in [2:0] is 0 for zero, 1 for a subnormal, 2 for a normal number, 3 for an infinity, 4 and
5 for a quiet and a signalling NaN; SIGN in [3] is the operand's sign bit; EXP in [31:16] is floor(log2 |x|) of a finite
non-zero operand x = m × 2^e, subnormals included, as a signed 16-bit integer, else 0; every other bit is 0.

R128, R129, R19: a scalar floating instruction computes its result and its flags as the tables give them,
ORs the flags into FPCSR, and writes xd when no raised flag is enabled; F32 results leave bits [63:32] zero.
With a raised flag enabled it raises FPX, the flags set and xd unchanged. -/
def Obligations.FloatResults : Prop :=
  (∀ (f : Fmt) (bits : Nat), f = fmtF32 ∨ f = fmtF64 → bits < 2 ^ f.width →
     ∃ kind ex : Nat, kind < 8 ∧ ex < 2 ^ 16 ∧
       kindWord f bits = kind + 8 * (bits / 2 ^ (f.width - 1)) + 2 ^ 16 * ex ∧
       (∀ (neg : Bool) (m : Nat) (e : Int) (st : Bool), f.value bits = .fin neg m e st →
         kind = (if 2 ^ (f.p - 1) ≤ bits % 2 ^ (f.width - 1) then 2 else 1) ∧
         ∃ k : Nat, 2 ^ k ≤ m ∧ m < 2 ^ (k + 1) ∧ toSigned 16 ex = e + k) ∧
       (∀ neg : Bool, f.value bits = .zero neg → kind = 0 ∧ ex = 0) ∧
       (∀ neg : Bool, f.value bits = .inf neg → kind = 3 ∧ ex = 0) ∧
       (∀ sig : Bool, f.value bits = .nan sig → kind = (if sig then 5 else 4) ∧ ex = 0)) ∧
  (∀ (s : State) (h : Hart) (i : Instr) (d : XReg) (bits : Nat) (fl : Flags),
     Issues i s h → fpResult h i = some (d, (bits, fl)) →
     (h.enabledFlag fl = none →
       exec i s = .next (finished s
         ({ h with fpcsr := h.fpcsr ||| fl.zeroExtend 64 }.setX d (BitVec.ofNat 64 bits)))) ∧
     (∀ k : Nat, h.enabledFlag fl = some k →
       exec i s = .next (trapped s { h with fpcsr := h.fpcsr ||| fl.zeroExtend 64 } (Trap.fpx k 0 none))))

/-! ## Scalar memory, branches and atomics -/

namespace Sys2Proof.Claims

/-- xa + sext(off13, 13), modulo 2^64 (R130). -/
def addressOf (h : Hart) (a : XReg) (off : BitVec 13) : Nat := (h.getX a + off.signExtend 64).toNat

/-- A byte, halfword or word extended by its sign, or by zeros. -/
def signed8 (v : Nat) : Word := (BitVec.ofNat 8 v).signExtend 64
/-- A halfword extended by its sign. -/
def signed16 (v : Nat) : Word := (BitVec.ofNat 16 v).signExtend 64
/-- A word extended by its sign. -/
def signed32 (v : Nat) : Word := (BitVec.ofNat 32 v).signExtend 64

/-- A load: xd, its address, its size in bytes, and what it makes of the value (R130, R131). -/
def loadForm (h : Hart) : Instr → Option (XReg × Nat × Nat × (Nat → Word))
  | .lb d a off => some (d, addressOf h a off, 1, signed8)
  | .lbu d a off => some (d, addressOf h a off, 1, BitVec.ofNat 64)
  | .lh d a off => some (d, addressOf h a off, 2, signed16)
  | .lhu d a off => some (d, addressOf h a off, 2, BitVec.ofNat 64)
  | .lw d a off => some (d, addressOf h a off, 4, signed32)
  | .lwu d a off => some (d, addressOf h a off, 4, BitVec.ofNat 64)
  | .ld d a off => some (d, addressOf h a off, 8, BitVec.ofNat 64)
  | .lda d a _ wide => some (d, h.getU a, if wide then 8 else 4, BitVec.ofNat 64)
  | _ => none

/-- A store: the value, its address and its size in bytes (R130, R131). -/
def storeForm (h : Hart) : Instr → Option (Nat × Nat × Nat)
  | .stb x a off => some (h.getU x, addressOf h a off, 1)
  | .sth x a off => some (h.getU x, addressOf h a off, 2)
  | .stw x a off => some (h.getU x, addressOf h a off, 4)
  | .std x a off => some (h.getU x, addressOf h a off, 8)
  | .stl x a _ wide => some (h.getU x, h.getU a, if wide then 8 else 4)
  | _ => none

/-- A branch: its offset and whether it is taken (R132). -/
def branchForm (h : Hart) : Instr → Option (BitVec 13 × Bool)
  | .beq a b off => some (off, decide (h.getX a = h.getX b))
  | .bne a b off => some (off, decide (h.getX a ≠ h.getX b))
  | .blt a b off => some (off, decide ((h.getX a).toInt < (h.getX b).toInt))
  | .bge a b off => some (off, decide ((h.getX b).toInt ≤ (h.getX a).toInt))
  | .bltu a b off => some (off, decide (h.getU a < h.getU b))
  | .bgeu a b off => some (off, decide (h.getU b ≤ h.getU a))
  | _ => none

/-- An atomic. -/
structure Atomic where
  d : XReg
  addr : Nat
  bytes : Nat
  scope : Scope
  order : Order
  /-- The new memory value of an old one, at the access width. -/
  new : Nat → Nat

/-- The atomics: xa the address, xb the operand at the access width (R134). -/
def atomicForm (h : Hart) : Instr → Option Atomic
  | .aadd d a b sc o w => let n := if w then 8 else 4
    some ⟨d, h.getU a, n, sc, o, fun old => (old + h.getU b) % 2 ^ (8 * n)⟩
  | .aincb d a b sc o w => let n := if w then 8 else 4
    some ⟨d, h.getU a, n, sc, o, fun old => if old < h.getU b % 2 ^ (8 * n) then old + 1 else old⟩
  | .acas d a b sc o w => let n := if w then 8 else 4
    some ⟨d, h.getU a, n, sc, o,
      fun old => if old = h.getU d % 2 ^ (8 * n) then h.getU b % 2 ^ (8 * n) else old⟩
  | .aswp d a b sc o w => let n := if w then 8 else 4
    some ⟨d, h.getU a, n, sc, o, fun _ => h.getU b % 2 ^ (8 * n)⟩
  | .amin d a b sc o w => let n := if w then 8 else 4
    some ⟨d, h.getU a, n, sc, o, fun old =>
      if toSigned (8 * n) old ≤ toSigned (8 * n) (h.getU b) then old else h.getU b % 2 ^ (8 * n)⟩
  | .amax d a b sc o w => let n := if w then 8 else 4
    some ⟨d, h.getU a, n, sc, o, fun old =>
      if toSigned (8 * n) (h.getU b) ≤ toSigned (8 * n) old then old else h.getU b % 2 ^ (8 * n)⟩
  | .aand d a b sc o w => let n := if w then 8 else 4
    some ⟨d, h.getU a, n, sc, o, fun old => old &&& (h.getU b % 2 ^ (8 * n))⟩
  | .aor d a b sc o w => let n := if w then 8 else 4
    some ⟨d, h.getU a, n, sc, o, fun old => old ||| (h.getU b % 2 ^ (8 * n))⟩
  | _ => none

/-- No engine transfer of the hart is under way: none of its accesses has to wait for one (R261, R265). -/
def NoTransfers (h : Hart) : Prop := ∀ t : Slot, (h.tags[t]).isBusy = false

/-- What an instruction's access writes where it reads `old`: a store's value, an atomic's new one (R130, R134). -/
def storedValue (h : Hart) (i : Instr) (old : Nat) : Option Nat :=
  match storeForm h i, atomicForm h i with
  | some (v, _, _), _ => some v
  | none, some x => some (x.new old)
  | none, none => none

/-- The checks of an instruction's access of n bytes at `va` (R115), and for a store or an atomic the check of what it
is to write, which a compressed page may have no room for (R380, R403). -/
def accessCheck (s : State) (h : Hart) (i : Instr) (va n : Nat) : Got (Loc × Ctx) :=
  match storeForm h i, atomicForm h i with
  | some (v, _, _), _ => Ctx.checkedStore ⟨h, s⟩ va n .store none (fun _ _ => v)
  | none, some x => Ctx.checkedStore ⟨h, s⟩ va n .both none (fun c loc => x.new (c.readLoc loc n))
  | none, none => Ctx.checked ⟨h, s⟩ va n .load none

/-- Hart `h` of `s`, which waits for its access, as `c`: of an access sent while the link is down it keeps the moment of
the first sending (R339) and the page translated (R378); of another it keeps nothing. -/
def Sends (s : State) (h : Hart) (va : Nat) (k : AccKind) (sent : Option (Nat × AccKind)) (c : Ctx) : Prop :=
  (sent = none ∧ c = ⟨{ h with sentAt := none }, s⟩) ∨
  (sent = some (va, k) ∧
    ((∃ (loc : Loc) (l : Leaf) (d : Ctx), Ctx.resolve ⟨h, s⟩ va k = .ok ((loc, l), d) ∧
        c = ⟨{ h with sentAt := some (h.sentAt.getD s.hall.hcnt), sentPage := some (l.page va k) }, d.s⟩) ∨
     ((∀ (x : Loc × Leaf) (d : Ctx), Ctx.resolve ⟨h, s⟩ va k ≠ .ok (x, d)) ∧
        c = ⟨{ h with sentAt := some (h.sentAt.getD s.hall.hcnt) }, s⟩)))

/-- A trap at the word of a list that lies at `va`, aligned to `align` (R137): MISALIGN; the fault of its checks; or
PERM where it does not lie in generic memory. -/
def ListFault (s : State) (h : Hart) (va align : Nat) (t : Trap) (c : Ctx) : Prop :=
  (va % align ≠ 0 ∧ c = ⟨h, s⟩ ∧ t = { Trap.plain causeMisalign 0 with addr := BitVec.ofNat 64 va }) ∨
  (va % align = 0 ∧ ∃ m : MemFault, Ctx.checked ⟨h, s⟩ va 8 .both none = .error (.fault m c) ∧ t = m.trap 0 none) ∨
  (va % align = 0 ∧ ∃ loc : Loc, Ctx.checked ⟨h, s⟩ va 8 .both none = .ok (loc, c) ∧ loc.isGeneric = false ∧
    t = { Trap.plain causePerm 1 with addr := BitVec.ofNat 64 va })

/-- Every byte of the memory outside the n bytes at `a` reads as before. -/
def SameOutside (m m' : Memory) (a n : Nat) : Prop :=
  ∀ tick b : Nat, b < a ∨ a + n ≤ b → m'.read tick b = m.read tick b

/-- The memory of LMOVE's pseudo-code, from its words' physical addresses: the list at `a`, the list at `b`, the
moved node `n` at `pn`, and the old tail node at `pt` (R136). -/
def movedList (m : Memory) (tick a b pn n pt : Nat) : Memory :=
  let nx := m.readLe tick pn 8
  let m := m.writeLe a 8 nx
  let m := if nx = 0 then m.writeLe (a + 8) 8 0 else m
  let m := m.writeLe pn 8 0
  let t := m.readLe tick (b + 8) 8
  let m := if t = 0 then m.writeLe b 8 n else m.writeLe pt 8 n
  m.writeLe (b + 8) 8 n

end Sys2Proof.Claims

/-- R130, R131: a load whose access passes the checks of R115 completes: xd takes the value in memory, sign- or
zero-extended as the table says, and nothing else of the hart or of memory changes but what the checks themselves
did (`Obligations.TranslationKeepsMemory`); the bytes are those at the place that the address resolves to. -/
def Obligations.ScalarLoads : Prop :=
  ∀ (s : State) (h : Hart) (i : Instr) (d : XReg) (va n : Nat) (f : Nat → Word) (loc : Loc) (c : Ctx),
    Issues i s h → loadForm h i = some (d, va, n, f) → NoTransfers h →
    Ctx.checked ⟨h, s⟩ va n .load none = .ok (loc, c) →
    exec i s = .next (settle s.cur (.done ⟨c.h.setX d (f (c.readLoc loc n)), c.s⟩))

/-- R130, R131, R319: a store whose access passes the checks of R115, and of a compressed page's room, completes and
writes its n bytes at the place that the address resolves to: n bytes of physical memory, of the scratchpad or of the
scalar data memory, or of a sector of a compressed page, whose slot is encoded again. In each case the other bytes of
that memory read as before, and nothing else of the machine changes: not the other two memories, not a register but
the PC and the prefix. (A compressed sector is read and written byte by byte through the place.) The memories are in
their canonical form (`Obligations.MemoryStaysCanonical`). -/
def Obligations.ScalarStores : Prop :=
  ∀ (s : State) (h : Hart) (i : Instr) (v va n : Nat) (loc : Loc) (c : Ctx),
    Issues i s h → storeForm h i = some (v, va, n) → NoTransfers h →
    s.mem.wf = true → h.scratch.wf = true → h.sdata.wf = true →
    Ctx.checkedStore ⟨h, s⟩ va n .store none (fun _ _ => v) = .ok (loc, c) →
    exec i s = .next (settle s.cur (.done (c.writeLoc loc n v))) ∧
    (∀ pa : Nat, loc = .phys pa → (c.writeLoc loc n v).h = c.h ∧
      (c.writeLoc loc n v).s = { c.s with mem := (c.writeLoc loc n v).s.mem } ∧
      SameOutside c.s.mem (c.writeLoc loc n v).s.mem pa n ∧
      ∀ tick : Nat, (c.writeLoc loc n v).s.mem.readLe tick pa n = v % 2 ^ (8 * n)) ∧
    (∀ a : Nat, loc = .scratch a → (c.writeLoc loc n v).s = c.s ∧
      (c.writeLoc loc n v).h = { c.h with scratch := (c.writeLoc loc n v).h.scratch } ∧
      SameOutside c.h.scratch (c.writeLoc loc n v).h.scratch a n ∧
      ∀ tick : Nat, (c.writeLoc loc n v).h.scratch.readLe tick a n = v % 2 ^ (8 * n)) ∧
    (∀ a : Nat, loc = .sdata a → (c.writeLoc loc n v).s = c.s ∧
      (c.writeLoc loc n v).h = { c.h with sdata := (c.writeLoc loc n v).h.sdata } ∧
      SameOutside c.h.sdata (c.writeLoc loc n v).h.sdata a n ∧
      ∀ tick : Nat, (c.writeLoc loc n v).h.sdata.readLe tick a n = v % 2 ^ (8 * n)) ∧
    (∀ frame off : Nat, loc = .packed frame off → off % 32 + n ≤ 32 → (c.writeLoc loc n v).h = c.h ∧
      (c.writeLoc loc n v).s = { c.s with mem := (c.writeLoc loc n v).s.mem } ∧
      SameOutside c.s.mem (c.writeLoc loc n v).s.mem (frame + 64 * (off / 32)) 33 ∧
      (c.writeLoc loc n v).readLoc loc n = v % 2 ^ (8 * n) ∧
      ∀ o : Nat, o / 32 = off / 32 → o < off ∨ off + n ≤ o →
        (c.writeLoc loc n v).readLoc (.packed frame o) 1 = c.readLoc (.packed frame o) 1)

/-- R115, R117, R288, R395: a scalar load, store or atomic at an address that is no multiple of its size raises
MISALIGN with TADDR at that address, and one that fails a later check raises that check's fault with xd, every other
register and both local memories as they were, and the device's memory too where pages are not device-managed. Where
the fabric gives no acknowledgement (`noAck`), a store that faults on it may have left the value it writes at its place,
and no other change; an atomic that faults changes nothing. One that must wait for the link leaves the hart at the
instruction, and one that was sent while the link is down keeps the page it has translated.
(`timedOut`, `noAck`, `sentAt` and `sentPage` are the model's, log entries 44 and 45.) -/
def Obligations.ScalarAccessFaults : Prop :=
  ∀ (s : State) (h : Hart) (i : Instr) (va n : Nat) (k : AccKind),
    Issues i s h → NoTransfers h →
    ((∃ (d : XReg) (f : Nat → Word), loadForm h i = some (d, va, n, f) ∧ k = .load) ∨
     (∃ v : Nat, storeForm h i = some (v, va, n) ∧ k = .store) ∨
     (∃ x : Atomic, atomicForm h i = some x ∧ va = x.addr ∧ n = x.bytes ∧ k = .both)) →
    (va % n ≠ 0 →
      exec i s = .next (trapped s h { Trap.plain causeMisalign 0 with addr := BitVec.ofNat 64 va })) ∧
    (∀ (m : MemFault) (c : Ctx), accessCheck s h i va n = .error (.fault m c) →
      c.h = { h with timedOut := c.h.timedOut, noAck := c.h.noAck } ∧
      (s.dmPaging h = false → c.s.mem = s.mem) ∧
      (h.noAck = false ∨ k ≠ .store → exec i s = .next (deliverTrap s.cur c (m.trap 0 none))) ∧
      ∃ c' : Ctx, exec i s = .next (deliverTrap s.cur c' (m.trap 0 none)) ∧
        (c' = c ∨ ∃ (loc : Loc) (w : Nat), storedValue h i (c.readLoc loc n) = some w ∧ c' = c.writeLoc loc n w ∧
          ∃ (l : Leaf) (d : Ctx), Ctx.resolve ⟨h, s⟩ va k = .ok ((loc, l), d))) ∧
    (∀ (sent : Option (Nat × AccKind)) (c : Ctx), accessCheck s h i va n = .error (.wait sent c) →
      ∃ c' : Ctx, exec i s = .next (settle s.cur (.hold c')) ∧ Sends s h va k sent c')

/-- R376, R379, R395: without DMPAGING the checks and the translation of an access that passes change nothing of the
machine but the TLB, where entries may enter and none leaves, and so do those of one that waits; of one that faults,
besides that, at most the count of unreachable addresses rises by one, and the hart's marks `timedOut` and `noAck` (the
model's, log entries 44 and 45) may fall. The check of what a store is to write adds nothing to that. -/
def Obligations.TranslationKeepsMemory : Prop :=
  ∀ (s : State) (h : Hart) (va n : Nat) (k : AccKind) (whole : Option (Nat × Nat)) (r : Got (Loc × Ctx)),
    s.dmPaging h = false →
    (r = Ctx.checked ⟨h, s⟩ va n k whole ∨
      ∃ val : Ctx → Loc → Nat, r = Ctx.checkedStore ⟨h, s⟩ va n k whole val) →
    (∀ (loc : Loc) (c : Ctx), r = .ok (loc, c) →
      c.h = h ∧ c.s = { s with tlb := c.s.tlb } ∧ ∀ e ∈ s.tlb, e ∈ c.s.tlb) ∧
    (∀ (sent : Option (Nat × AccKind)) (c : Ctx), r = .error (.wait sent c) →
      c.h = h ∧ c.s = { s with tlb := c.s.tlb } ∧ ∀ e ∈ s.tlb, e ∈ c.s.tlb) ∧
    (∀ (m : MemFault) (c : Ctx), r = .error (.fault m c) →
      c.h = { h with timedOut := c.h.timedOut, noAck := c.h.noAck } ∧
      c.s = { s with tlb := c.s.tlb, fab := { s.fab with unreach := c.s.fab.unreach } } ∧
      (c.s.fab.unreach = s.fab.unreach ∨ c.s.fab.unreach = s.fab.unreach + 1) ∧ ∀ e ∈ s.tlb, e ∈ c.s.tlb)

/-- R132: a branch goes to PC + 4 × sext(off13, 13) when its condition holds, and to the next instruction when
it does not; it writes no register.

R133: JAL sets X1 := PC + 4 and goes to PC + 4 × sext(off26, 26). JALR goes to t = xa + 4 × sext(imm16, 16)
with xa as it was before and xd := PC + 4; when t is no multiple of 4 it raises MISALIGN, detail 1, with
TADDR = t, and xd is unchanged. -/
def Obligations.ControlTransfers : Prop :=
  (∀ (s : State) (h : Hart) (i : Instr) (off : BitVec 13) (taken : Bool),
     Issues i s h → branchForm h i = some (off, taken) →
     exec i s = .next (if taken then jumped s h (h.pc + 4 * off.signExtend 64) else finished s h)) ∧
  (∀ (s : State) (h : Hart),
     (∀ off : BitVec 26, Issues (.jal off) s h →
       exec (.jal off) s = .next (jumped s (h.setX 1 (h.pc + 4)) (h.pc + 4 * off.signExtend 64))) ∧
     (∀ (d a : XReg) (imm : BitVec 16) (t : Word), Issues (.jalr d a imm) s h →
       t = h.getX a + 4 * imm.signExtend 64 →
       (t.toNat % 4 = 0 → exec (.jalr d a imm) s = .next (jumped s (h.setX d (h.pc + 4)) t)) ∧
       (t.toNat % 4 ≠ 0 → exec (.jalr d a imm) s =
         .next (trapped s h { Trap.plain causeMisalign 1 with addr := t }))))

/-- R134, R135: an atomic whose access passes the checks of R115, and of a compressed page's room, completes: xd takes
the old value, zero-extended, and memory takes what the table gives for the operation, in one step. -/
def Obligations.Atomics : Prop :=
  ∀ (s : State) (h : Hart) (i : Instr) (x : Atomic) (loc : Loc) (c : Ctx),
    Issues i s h → atomicForm h i = some x → NoTransfers h →
    Ctx.checkedStore ⟨h, s⟩ x.addr x.bytes .both none (fun c loc => x.new (c.readLoc loc x.bytes)) = .ok (loc, c) →
    exec i s = .next (settle s.cur (.done
      ⟨(c.writeLoc loc x.bytes (x.new (c.readLoc loc x.bytes))).h.setX x.d
         (BitVec.ofNat 64 (c.readLoc loc x.bytes)),
       (c.writeLoc loc x.bytes (x.new (c.readLoc loc x.bytes))).s⟩))

/-- R136, R137: LMOVE on lists in generic memory. `place` says where each word lies: the address passes the checks
of R115 and they change nothing. With an empty source list xd := 0 and memory is unchanged; otherwise the head
node moves to the tail of the other list as the pseudo-code says and xd takes its address. A descriptor address
that is no multiple of 16 raises MISALIGN, the source's first, and a descriptor, head node or tail node that is
misaligned, faults or lies outside generic memory raises that trap before any word is written: memory is as its checks
left it, and xd unchanged. (The order of these checks is the model's, log entry 29.) -/
def Obligations.ListMoves : Prop :=
  ∀ (s : State) (h : Hart) (d a b : XReg) (sc : Scope) (o : Order) (place : Nat → Nat),
    Issues (.lmove d a b sc o) s h → NoTransfers h →
    (h.getU a % 16 ≠ 0 → exec (.lmove d a b sc o) s =
      .next (trapped s h { Trap.plain causeMisalign 0 with addr := h.getX a })) ∧
    (h.getU a % 16 = 0 → h.getU b % 16 ≠ 0 → exec (.lmove d a b sc o) s =
      .next (trapped s h { Trap.plain causeMisalign 0 with addr := h.getX b })) ∧
    (∀ (t : Trap) (c : Ctx), h.getU a % 16 = 0 → h.getU b % 16 = 0 → ListFault s h (h.getU a) 16 t c →
      exec (.lmove d a b sc o) s = .next (deliverTrap s.cur c t)) ∧
    (∀ (pa : Nat) (t : Trap) (c : Ctx), h.getU a % 16 = 0 → h.getU b % 16 = 0 →
      Ctx.checked ⟨h, s⟩ (h.getU a) 8 .both none = .ok (.phys pa, ⟨h, s⟩) → ListFault s h (h.getU b) 16 t c →
      exec (.lmove d a b sc o) s = .next (deliverTrap s.cur c t)) ∧
    (∀ (va align : Nat) (t : Trap) (c : Ctx), ListFault s h va align t c → s.dmPaging h = false →
      c.s.mem = s.mem ∧ c.h = { h with timedOut := c.h.timedOut, noAck := c.h.noAck }) ∧
    (h.getU a % 16 = 0 → h.getU b % 16 = 0 →
      (∀ va : Nat, va = h.getU a ∨ va = h.getU b →
        Ctx.checked ⟨h, s⟩ va 8 .both none = .ok (.phys (place va), ⟨h, s⟩)) →
      ∀ n : Nat, n = s.mem.readLe s.tick (place (h.getU a)) 8 →
      (n = 0 → exec (.lmove d a b sc o) s = .next (finished s (h.setX d 0))) ∧
      (∀ (t : Trap) (c : Ctx), n ≠ 0 → ListFault s h n 8 t c →
        exec (.lmove d a b sc o) s = .next (deliverTrap s.cur c t)) ∧
      (n ≠ 0 → n % 8 = 0 → Ctx.checked ⟨h, s⟩ n 8 .both none = .ok (.phys (place n), ⟨h, s⟩) →
        (∀ t : Nat, t ≠ 0 → t % 8 = 0 → t = ((Ctx.mk h s).unlink (.phys (place (h.getU a))) (.phys (place n))).readLoc
            (.phys (place (h.getU b) + 8)) 8 →
          Ctx.checked ⟨h, s⟩ t 8 .both none = .ok (.phys (place t), ⟨h, s⟩) →
          exec (.lmove d a b sc o) s = .next (finished
            { s with mem := movedList s.mem s.tick (place (h.getU a)) (place (h.getU b)) (place n) n (place t) }
            (h.setX d (BitVec.ofNat 64 n)))) ∧
        (∀ (t : Nat) (tr : Trap) (c : Ctx), t ≠ 0 →
          t = ((Ctx.mk h s).unlink (.phys (place (h.getU a))) (.phys (place n))).readLoc
            (.phys (place (h.getU b) + 8)) 8 → ListFault s h t 8 tr c →
          exec (.lmove d a b sc o) s = .next (deliverTrap s.cur c tr)) ∧
        (((Ctx.mk h s).unlink (.phys (place (h.getU a))) (.phys (place n))).readLoc
            (.phys (place (h.getU b) + 8)) 8 = 0 →
          exec (.lmove d a b sc o) s = .next (finished
            { s with mem := movedList s.mem s.tick (place (h.getU a)) (place (h.getU b)) (place n) n 0 }
            (h.setX d (BitVec.ofNat 64 n))))))

/-! ## Configuration -/

namespace Sys2Proof.Claims

/-- The grant of R31 for the request n: VROWS and VCOLS. -/
def grantFor (h : Hart) (n : Nat) : Nat × Nat :=
  let w := h.w
  let rows := if w ≤ n then min 16 (n / w) else 1
  let cols := if w ≤ n then w else if 32 ≤ n then n - n % 32 else n
  let cols := if h.blk = 1 then cols - cols % 16 else if h.blk = 2 then cols - cols % 32 else cols
  (rows, cols)

/-- The hart after a grant: VROWS, VCOLS, xd := VL, SPC := PC, WP cleared (R31, R141). -/
def grantedHart (h : Hart) (d : XReg) (n : Nat) : Hart :=
  let g := grantFor h n
  { h.setX d (BitVec.ofNat 64 (g.1 * g.2)) with
    vrows := g.1
    vcols := g.2
    spc := h.pc
    wp := false }

/-- A value that VTYPE takes with ILL = 1 (R28, R29): a reserved EW, BLK or RM, a reserved field that is not
zero, bit 63 set, or BLK = 2 with EW other than 1. -/
def vtypeBad (v : Word) : Prop :=
  4 ≤ fld v.toNat 0 3 ∨ fld v.toNat 3 2 = 3 ∨ 6 ≤ fld v.toNat 5 3 ∨ fld v.toNat 9 54 ≠ 0 ∨
  bitAt v.toNat 63 = true ∨ (fld v.toNat 3 2 = 2 ∧ fld v.toNat 0 3 ≠ 1)

/-- Writing VTYPE: an ill-formed value sets ILL, and its reserved bits read as zero (R5, R29, R39, R144). -/
def WritesVtype (h h' : Hart) (v : Word) : Prop :=
  (vtypeBad v → h' = { h with vtype := v &&& 0x1FF ||| 0x8000000000000000 }) ∧
  (¬ vtypeBad v → ∃ cols : Nat, h' = { h with vtype := v, vcols := cols } ∧
    cols ≤ h.vcols ∧ cols ≤ ({ h with vtype := v } : Hart).w ∧
    cols % ({ h with vtype := v } : Hart).blockSize = 0 ∧
    min h.vcols ({ h with vtype := v } : Hart).w < cols + ({ h with vtype := v } : Hart).blockSize)

/-- SETPSEQ admits xa (R146): no bit above 35, a count of 1 to 8, no nibble at or above the count. -/
def pseqGood (v : Nat) : Prop :=
  v < 2 ^ 36 ∧ 1 ≤ v / 2 ^ 32 ∧ v / 2 ^ 32 ≤ 8 ∧ v % 2 ^ 32 < 2 ^ (4 * (v / 2 ^ 32))

end Sys2Proof.Claims

/-- R16, R17, R18: adopting a stall of c' clusters makes it the hart's stall and c' its shape width, with nothing
pending; of every live register, unless it is blocked or the shape has several rows narrower than W, position n below
P = 16 rows of the narrower width keeps its bits where they were defined; a register that LIVEV does not name is
undefined, tag included; mask bits below P stay; the lane tables are undefined; X registers, VROWS, VCOLS, VTYPE, NBASE
and NSIZE and the local memories stay. (That positions count rows of W columns, above VL too, is the model's reading,
log entry 20; so is the old width of a hart whose shape width is not its stall's size, the shape width, log entry
53.)

R31, R141, R142: SETVL and SETVLX with YREQ = 0 adopt a pending stall if there is one, then grant VROWS and
VCOLS by R31 for their request, write VL to xd and the PC to SPC and clear WP; SB, VSTART and every element stay
unless a stall is adopted. With YREQ = 1 the hart yields at the instruction.

R33, R143, R144, R145, R146: SETSHAPE within its limits sets VROWS and VCOLS and writes VL to xd, and outside
them raises ILLEGAL, detail 5; SETVT writes VTYPE by R29 and xd the value stored; VTAG writes the code, with ILL
for a reserved one; SETSB writes SB; SETPSEQ writes PSEQ or raises ILLEGAL, detail 5. -/
def Obligations.VectorSetup : Prop :=
  (∀ (h : Hart) (tick : Nat) (p : PendingStall), h.pend = some p →
     (h.width = 1 ∨ h.width = 2 ∨ h.width = 4 ∨ h.width = 8) →
     (h.adopt tick).base = p.base.toNat ∧ (h.adopt tick).size = p.size.toNat ∧ (h.adopt tick).pend = none ∧
     (h.adopt tick).offer = h.offer ∧ (h.adopt tick).width = 2 ^ p.size.toNat ∧
     (h.adopt tick).x = h.x ∧ (h.adopt tick).vrows = h.vrows ∧
     (h.adopt tick).vcols = h.vcols ∧ (h.adopt tick).vtype = h.vtype ∧ (h.adopt tick).scratch = h.scratch ∧
     (h.adopt tick).sdata = h.sdata ∧ (h.adopt tick).lanes = .undefined ∧
     (∀ (r : VReg) (n : Nat), h.isLive r.val = true → h.blocked (h.kind tick r) = false →
       ¬ (1 < h.vrows ∧ 0 < h.vcols ∧ h.vcols < h.w) → n < 16 * min h.w (h.adopt tick).w →
       (h.v[r].words.get (spotAt h.ew (n / h.w) (n % h.w)).key).isSome = true →
       (h.adopt tick).v[r].tag = h.v[r].tag ∧ ∀ t : Nat,
         (h.adopt tick).readSpot t r (spotAt h.ew (n / (h.adopt tick).w) (n % (h.adopt tick).w)) h.ew =
           h.readSpot t r (spotAt h.ew (n / h.w) (n % h.w)) h.ew) ∧
     (∀ r : VReg, h.isLive r.val = false →
       (h.adopt tick).v[r].tag = none ∧ ∀ key : Nat, (h.adopt tick).v[r].words.get key = none) ∧
     (∀ (r : MReg) (e t : Nat), e < 16 * min h.w (h.adopt tick).w → (h.adopt tick).mask t r e = h.mask t r e)) ∧
  (∀ (s : State) (h : Hart) (i : Instr) (d : XReg) (n : Nat),
     Issues i s h →
     ((∃ a : XReg, i = .setvl d a ∧ n = h.getU a) ∨
      (∃ a b : XReg, i = .setvlx d a b ∧ n = min (h.getU a) (h.getU b))) →
     (h.yreq = false → exec i s = .next (finished s (grantedHart (h.adopt s.tick) d n))) ∧
     (h.yreq = true → exec i s = .next (s.yieldStop s.cur h)) ∧
     (h.pend = none → 2 ^ h.size = h.width → h.adopt s.tick = h)) ∧
  (∀ (s : State) (h : Hart),
     (∀ (d a b : XReg), Issues (.setshape d a b) s h →
       (1 ≤ h.getU a ∧ h.getU a ≤ 16 ∧ h.getU b ≤ h.w ∧ h.getU b % h.blockSize = 0 →
         exec (.setshape d a b) s = .next (finished s
           { h.setX d (BitVec.ofNat 64 (h.getU a * h.getU b)) with vrows := h.getU a, vcols := h.getU b })) ∧
       (¬ (1 ≤ h.getU a ∧ h.getU a ≤ 16 ∧ h.getU b ≤ h.w ∧ h.getU b % h.blockSize = 0) →
         exec (.setshape d a b) s = .next (trapped s h (Trap.illegal 5)))) ∧
     (∀ (d a : XReg), Issues (.setvt d a) s h → ∃ h' : Hart, WritesVtype h h' (h.getX a) ∧
       exec (.setvt d a) s = .next (finished s (h'.setX d h'.vtype))) ∧
     (∀ (d : VReg) (code : BitVec 6), Issues (.vtag d code) s h →
       exec (.vtag d code) s = .next (finished s { h with v := h.v.set d { h.v[d] with
         tag := some (if 0x13 ≤ code.toNat ∧ code.toNat ≤ 0x1F then BitVec.ofNat 7 (code.toNat + 64)
           else code.zeroExtend 7) } })) ∧
     (∀ a : XReg, Issues (.setsb a) s h →
       exec (.setsb a) s = .next (finished s { h with sb := h.getX a })) ∧
     (∀ a : XReg, Issues (.setpseq a) s h →
       (pseqGood (h.getU a) → exec (.setpseq a) s = .next (finished s { h with pseq := h.getX a })) ∧
       (¬ pseqGood (h.getU a) → exec (.setpseq a) s = .next (trapped s h (Trap.illegal 5)))))

/-! ## The system group -/

namespace Sys2Proof.Claims

/-- HSTAT as SRD sees it: PP is clear by the time SRD runs (R41, R95). -/
def hstatValue (h : Hart) : Nat :=
  (if h.lt then 2 else 0) + (if h.ma then 4 else 0) + (if h.wp then 8 else 0) + 16 * h.cwo

/-- LGRP (R14). -/
def lgrpValue (h : Hart) : Nat :=
  h.base % 8 + 8 * (h.size % 4) +
  match h.pend with
  | none => 2 ^ 8 * h.offer.base.toNat + 2 ^ 11 * h.offer.size.toNat
  | some p => 2 ^ 8 * p.base.toNat + 2 ^ 11 * p.size.toNat + 2 ^ 15

/-- The value of a system register (R39). -/
def sysValue (h : Hart) (cyc : Word) : Nat → Word
  | 0x000 => BitVec.ofNat 64 (hstatValue h) | 0x001 => h.vtype
  | 0x002 => BitVec.ofNat 64 h.vrows | 0x003 => BitVec.ofNat 64 h.vcols
  | 0x004 => BitVec.ofNat 64 (h.vrows * h.vcols) | 0x005 => BitVec.ofNat 64 h.vstart
  | 0x006 => h.sb | 0x007 => h.rkey | 0x008 => h.passst | 0x009 => h.pseq | 0x00A => h.fpcsr
  | 0x00B => h.athr | 0x00C => BitVec.ofNat 64 h.mgrant | 0x00D => BitVec.ofNat 64 h.mvl
  | 0x00E => h.xfri | 0x00F => h.livev | 0x010 => h.tvec | 0x011 => h.tpc | 0x012 => h.tcause
  | 0x013 => h.taddr | 0x014 => h.telem | 0x015 => h.spc | 0x016 => h.win[0] | 0x017 => h.win[1]
  | 0x018 => h.win[2] | 0x019 => h.win[3] | 0x01A => cyc | 0x01B => h.hartid | 0x01C => h.gangid
  | 0x01D => h.gangn | 0x01E => BitVec.ofNat 64 (lgrpValue h) | 0x01F => if h.yreq then 1 else 0
  | 0x020 => BitVec.ofNat 64 h.engst
  | _ => 0

/-- The hart after an SWR of v to a register other than VTYPE, or none where the write is refused with ILLEGAL,
detail 5 (R33, R39, R40, R207, R282). -/
def swrResult (h : Hart) (v : Word) : Nat → Option Hart
  | 0x002 => if 1 ≤ v.toNat ∧ v.toNat ≤ 16 then some { h with vrows := v.toNat } else none
  | 0x003 => if v.toNat ≤ h.w ∧ v.toNat % h.blockSize = 0 then some { h with vcols := v.toNat } else none
  | 0x005 => if v.toNat < 16 * h.w then some { h with vstart := v.toNat } else none
  | 0x006 => some { h with sb := v }
  | 0x007 => some { h with rkey := v }
  | 0x008 => some { h with passst := v &&& 0x0000FFFFFFFF01FF }
  | 0x009 => if v.toNat < 2 ^ 36 then some { h with pseq := v } else none
  | 0x00A => if v.toNat < 2 ^ 13 ∧ v.toNat / 2 ^ 10 ≤ 4 then some { h with fpcsr := v } else none
  | 0x00B => if v.toNat < 2 ^ 33 then some { h with athr := v } else none
  | 0x00D => if 1 ≤ v.toNat ∧ v.toNat ≤ 128 then some { h with mvl := v.toNat } else none
  | 0x00E => some { h with xfri := v }
  | 0x00F => if v.toNat < 2 ^ 48 then some { h with livev := v } else none
  | 0x010 => if v.toNat % 4 = 0 then some { h with tvec := v } else none
  | 0x011 => some { h with tpc := v }
  | 0x012 => some { h with tcause := v &&& 0xFFF }
  | 0x013 => some { h with taddr := v }
  | 0x014 => some { h with telem := v }
  | 0x016 => if v &&& 0x7F0000FFFFFE0000 = 0 then some { h with win := h.win.set 0 v } else none
  | 0x017 => if v &&& 0x7F0000FFFFFE0000 = 0 then some { h with win := h.win.set 1 v } else none
  | 0x018 => if v &&& 0x7F0000FFFFFE0000 = 0 then some { h with win := h.win.set 2 v } else none
  | 0x019 => if v &&& 0x7F0000FFFFFE0000 = 0 then some { h with win := h.win.set 3 v } else none
  | _ => none

end Sys2Proof.Claims

/-- R39, R41, R14, R122: SRD writes the register's value to xd and changes nothing else.

R39, R40, R29, R33, R207, R282: SWR stores a value the register admits, with the reserved bits of PASSST and
TCAUSE cleared; a write to an RO register, a reserved bit or a value out of range raises ILLEGAL, detail 5, and
the register is unchanged. VTYPE is written by R29 and never traps. -/
def Obligations.SystemRegisters : Prop :=
  (∀ (s : State) (h : Hart) (d : XReg) (num : BitVec 12), Issues (.srd d num) s h →
     exec (.srd d num) s = .next (finished s (h.setX d (sysValue h (s.cycOf h.core) num.toNat)))) ∧
  (∀ (s : State) (h : Hart) (num : BitVec 12) (a : XReg), Issues (.swr num a) s h →
     (num.toNat = 1 → ∃ h' : Hart, WritesVtype h h' (h.getX a) ∧
       exec (.swr num a) s = .next (finished s h')) ∧
     (num.toNat ≠ 1 → ∀ h' : Hart, swrResult h (h.getX a) num.toNat = some h' →
       exec (.swr num a) s = .next (finished s h')) ∧
     (num.toNat ≠ 1 → swrResult h (h.getX a) num.toNat = none →
       exec (.swr num a) s = .next (trapped s h (Trap.illegal 5))))

/-- R119, R120, R121, R123, R124: NOP has no effect; HALT ends the hart, once its transfers have ended; YIELD has
no effect with YREQ = 0 and stops the hart at PC + 4, width-pinned, with YREQ = 1; a FENCE with no transfer under
way only advances; a GBAR that every other hart of the gang has reached, or that only ended harts have not,
completes and counts one barrier, and another one waits.

R119, R121, R122, R288: SYSC raises SYSC to the hall and BKPT raises BKPT, with no detail; TRET goes back to
TPC as R286 says and changes nothing else, or raises MISALIGN with TADDR = TPC when TPC is no multiple of 4. (`spans`,
`span` and `loose`, by which R287's undefined results are known, are the model's, log entry 62.) -/
def Obligations.SystemGroup : Prop :=
  (∀ (s : State) (h : Hart),
     (Issues .nop s h → exec .nop s = .next (finished s h)) ∧
     (Issues .halt s h → NoTransfers h → exec .halt s = .next (s.haltHart s.cur h)) ∧
     (Issues .halt s h → ¬ NoTransfers h →
       exec .halt s = .next (s.setHart s.cur { h with status := .halting })) ∧
     (Issues .yield s h → h.yreq = false → exec .yield s = .next (finished s h)) ∧
     (Issues .yield s h → h.yreq = true → h.replay = none →
       exec .yield s = .next (s.hardStop s.cur { shutHart (issuedHart h) with pc := h.pc + 4 } .stopped 2
         (h.pc + 4))) ∧
     (∀ (sc : Scope) (bits : BitVec 4), Issues (.fence sc bits) s h → NoTransfers h →
       exec (.fence sc bits) s = .next (finished s h)) ∧
     (∀ sc : Scope, Issues (.gbar sc) s h → NoTransfers h →
       ((∀ (j : Nat) (o : Hart), s.harts[j]? = some o → j ≠ s.cur → o.launch = h.launch →
           o.status = .ended ∨ h.barriers < o.barriers ∨ (o.barriers = h.barriers ∧ o.arrived = true)) →
         exec (.gbar sc) s = .next (finished s { h with barriers := h.barriers + 1, arrived := false })) ∧
       (∀ (j : Nat) (o : Hart), s.harts[j]? = some o → j ≠ s.cur → o.launch = h.launch →
           ¬ (o.status = .ended ∨ h.barriers < o.barriers ∨ (o.barriers = h.barriers ∧ o.arrived = true)) →
         exec (.gbar sc) s = .next (settle s.cur (.hold ⟨{ h with arrived := true }, s⟩))))) ∧
  (∀ (s : State) (h : Hart),
     (Issues .sysc s h → exec .sysc s = .next (trapped s h (Trap.plain causeSysc 0))) ∧
     (Issues .bkpt s h → exec .bkpt s = .next (trapped s h (Trap.plain causeBkpt 0))) ∧
     (Issues .tret s h → h.tpc.toNat % 4 ≠ 0 →
       exec .tret s = .next (trapped s h { Trap.plain causeMisalign 1 with addr := h.tpc })) ∧
     (Issues .tret s h → h.tpc.toNat % 4 = 0 → h.stopAt = none →
       exec .tret s = .next (s.setHart s.cur ((issuedHart h).resumeAt h.tpc))) ∧
     (Issues .tret s h → h.tpc.toNat % 4 = 0 → h.stopAt = none → winValid h.win[0] = false →
       h.vfetchAt = none → exec .tret s = .next (s.setHart s.cur
         { issuedHart h with
           pc := h.tpc
           replay := none
           windowed := false
           spans := h.spans.filter (fun x => x.pc != h.tpc)
           span := h.spans.find? (fun x => x.pc == h.tpc)
           loose := if (h.win.toList.drop 1).any winValid then some (h.tpc, h.spanAt h.tpc) else h.loose })))

/-! ## Traps -/

namespace Sys2Proof.Claims

/-- What every trap writes of its report, and the prefix it clears (R288); the rest are the model's own fields. -/
def trapSaved (s : State) (h : Hart) (t : Trap) : Hart :=
  { issuedHart h with
    spans := (Ctx.trapHart ⟨h, s⟩ t).spans
    tcause := BitVec.ofNat 64 (256 * t.detail + t.cause)
    taddr := t.addr
    telem := BitVec.ofNat 64 t.elem
    windowed := true
    ahead := []
    drain := none }

end Sys2Proof.Claims

/-- R92, R93, R95: PFX leaves its word pending for the instruction at PC + 4, with the fields as written, and
changes nothing else.

R94, R30, R228, R98: an instruction of the hart whose turn it is that its prefix does not admit raises ILLEGAL,
detail 3, reported at itself; with the prefix in order, one that depends on VTYPE under VTYPE.ILL raises ILLCFG, detail
0; then, after LSPLIT, any other than VFETCH raises ILLEGAL, detail 4, and leaves lane-thread mode, unless it raises
NOMAT or NOOP. In each case nothing of the instruction's own effect has happened.

R93, R34: the predicate of the instruction after a PFX is the mask it names, inverted or not; without a prefix
it is M0. -/
def Obligations.Prefixes : Prop :=
  (∀ (s : State) (h : Hart) (mask : PfxMask) (inv : Bool) (copy : PfxCopy) (slices : BitVec 3),
     Issues (.pfx mask inv copy slices) s h → h.stopAt = none → h.replay = none →
     ∃ w : BitVec 32, exec (.pfx mask inv copy slices) s =
         .next (s.setHart s.cur { issuedHart h with pc := h.pc + 4, pfx := some w }) ∧
       fld w.toNat 26 6 = 1 ∧ fld w.toNat 22 4 = mask.val ∧ bitAt w.toNat 21 = inv ∧
       fld w.toNat 15 6 = (match copy with | some v => v.val | none => 63) ∧
       fld w.toNat 12 3 = slices.toNat ∧ fld w.toNat 0 12 = 0) ∧
  (∀ (s : State) (h : Hart) (i : Instr), (encode i).isSome = true → s.vp = none →
     s.harts[s.cur]? = some h → h.status = .running → h.run = none →
     (h.prefixAdmits i = false → exec i s = .next (trapped s h { Trap.illegal 3 with atSelf := true })) ∧
     (h.prefixAdmits i = true → i.usesVtype = true → h.vill = true → exec i s = .next (trapped s h (Trap.illcfg 0))) ∧
     (h.prefixAdmits i = true → (i.usesVtype = true → h.vill = false) → h.split = true → i.isVfetch = false →
       exec i s = .next (trapped s { h with lt := false, split := false } (Trap.illegal 4)) ∨
       ∃ (c : Ctx) (t : Trap), (t.cause = causeNomat ∨ t.cause = causeNoop) ∧
         exec i s = .next (deliverTrap s.cur c t))) ∧
  (∀ (h : Hart) (tick e : Nat) (mask : PfxMask) (inv : Bool) (copy : PfxCopy) (slices : BitVec 3),
     ({ h with pfx := none } : Hart).pred tick e = h.mask tick 0 e ∧
     ({ h with pfx := some (pfxWord mask inv copy slices) } : Hart).pred tick e =
       (if inv then !h.mask tick mask e else h.mask tick mask e))

/-- R284, R288, R290: a trap that goes to TVEC, with TVEC ≠ 0, outside a replay and a split, writes TPC with the
instruction's PC or its prefix's, TCAUSE with code and detail, TADDR and TELEM, clears the prefix, and sets PC :=
TVEC. WIN0 names the instruction with its resume index, VSTART taking it, when the instruction was unfinished, and
WIN1 to WIN3 the younger ones that are unfinished behind it, NXT at the first word not issued; else the window
registers are zero. Nothing else of the hart changes, nor anything of the machine. (Which younger instructions there
are, `ahead` and `drain`, is the model's, log entry 14: `Obligations.TrapToTvec` says of them, last, that there are at
most three, in program order, and that NXT lies above them. With WIN0 valid the words of the span and what its entries
may read are noted, under TPC, in `spans`: the model's too, log entry 62.)

R284, R286: a trap during a replay, at a word that no entry names and with no prefix pending, keeps the
entries not yet issued: the first of them goes to WIN0 with its resume index, the later ones follow it, their
distances counted anew from TPC, and NXT with them; with none left the window registers are zero. VSTART stays where
the next entry is one that a handler skips: R286 sets VSTART to WIN0's index, which is then no resume index (log entry
30).

R278, R284, R285: when the oldest instruction of a hart stays unfinished and the window behind it is looked at, the
trap is taken, or the stop falls, with at most three younger instructions unfinished, in program order behind the
oldest, none beyond distance 255, and NXT above them all. (How far they have come is the model's, log entry 14.) -/
def Obligations.TrapToTvec : Prop :=
  (∀ (s : State) (h : Hart) (t : Trap),
     h.tvec ≠ 0 → hallBound t.cause = false ∨ t.toTvec = true → h.replay = none → h.split = false →
     ∀ before : Nat, before = (if h.pfx.isSome = true ∧ t.atSelf = false then 1 else 0) →
     (Ctx.trapHart ⟨h, s⟩ t).spans = (if winValid (h.takeTrap t).win[0]
         then [⟨(h.takeTrap t).tpc, fld (h.takeTrap t).win[0].toNat 40 8, (h.takeTrap t).win.toList,
           Ctx.spanWords ⟨h, s⟩ (h.takeTrap t).tpc (fld (h.takeTrap t).win[0].toNat 40 8), h.x,
           h.v.toList.map (·.tag), h.vtype, h.vrows, h.vcols, h.sb, false⟩] else []) ++
       h.spans.filter (fun x => x.pc != (h.takeTrap t).tpc) ∧
     (t.idx = none → trapped s h t = s.setHart s.cur { trapSaved s h t with
       tpc := h.pc - BitVec.ofNat 64 (4 * before)
       win := Vector.replicate 4 0
       pc := h.tvec }) ∧
     (∀ idx : Nat, t.idx = some idx → h.ahead = [] → h.drain = none → trapped s h t = s.setHart s.cur
       { trapSaved s h t with
         tpc := h.pc - BitVec.ofNat 64 (4 * before)
         win := (Vector.replicate 4 (0 : Word)).set 0 (winEntry before (before + 1) idx)
         vstart := idx
         pc := h.tvec }) ∧
     (∀ (idx : Nat) (d : Drain), t.idx = some idx → h.drain = some d → trapped s h t = s.setHart s.cur
       { (trapSaved s h t).setWin (winEntry before d.nxt idx :: d.entries.map (fun e => winEntry e.1 0 e.2)) with
         tpc := h.pc - BitVec.ofNat 64 (4 * before)
         vstart := idx
         pc := h.tvec })) ∧
  (∀ (s : State) (h : Hart) (t : Trap) (rp : Replay),
     h.tvec ≠ 0 → hallBound t.cause = false ∨ t.toTvec = true → h.replay = some rp → h.split = false →
     t.idx = none → h.pfx = none → h.named rp.d = false →
     (h.nextEntry rp.d = none → trapped s h t = s.setHart s.cur { trapSaved s h t with
       tpc := h.pc
       win := Vector.replicate 4 0
       replay := none
       pc := h.tvec }) ∧
     (∀ dist idx : Nat, h.nextEntry rp.d = some (dist, idx) → trapped s h t = s.setHart s.cur
       { (trapSaved s h t).setWin (winEntry (dist - rp.d) (rp.n - rp.d) idx :: h.entriesFrom (dist + 1) rp.d) with
         tpc := h.pc
         vstart := if idx = 0x1FFFF then h.vstart else idx
         replay := none
         pc := h.tvec })) ∧
  (∀ (s : State) (k : Nat) (h : Hart) (d : Drain), s.harts[k]? = some h → h.drain = some d →
     ∃ (c : Ctx) (entries : List (Nat × Nat)) (nxt : Nat),
       c.h.drain = some { d with entries := entries, nxt := nxt } ∧ c.h.pc = h.pc ∧ c.h.pfx = h.pfx ∧
       settleWindow k s = (match d.trap with | some t => enterTrap k c t | none => c.stopInside k d.idx) ∧
       entries.length ≤ 3 ∧ (entries.map (·.1)).Pairwise (· < ·) ∧
       (∀ e ∈ entries, (if h.pfx.isSome then 1 else 0) < e.1 ∧ e.1 < nxt) ∧ nxt ≤ 256)

/-- R290, R291, R381, R383: with TVEC = 0 a trap bound for TVEC ends the hart with STATUS 1; a SYSC stops the hart
as a hard stop that waits for the hall; a fault that the hall can resolve parks the hart, its record saved with
STATE 4, and the hall is told of it once; any other fault bound for the hall ends the hart with STATUS 2. (`trapHart`,
the hart that a trap leaves, has the registers of R284, R288 and what is noted for a replay, log entry 62.) -/
def Obligations.TrapToHall : Prop :=
  ∀ (s : State) (h : Hart) (t : Trap), (t.idx = none ∨ h.ahead = []) →
    ((hallBound t.cause = false ∨ t.toTvec = true) → h.tvec = 0 →
      trapped s h t = s.failHart s.cur (Ctx.trapHart ⟨h, s⟩ t) ((Ctx.trapHart ⟨h, s⟩ t).failure 1)) ∧
    (t.cause = causeSysc → t.toTvec = false →
      trapped s h t = s.hardStop s.cur (Ctx.trapHart ⟨h, s⟩ t) .inSysc (Ctx.trapHart ⟨h, s⟩ t).stopState
        (Ctx.trapHart ⟨h, s⟩ t).tpc) ∧
    (hallBound t.cause = true → t.toTvec = false → t.cause ≠ causeSysc → t.info.resolvable = true →
      ∃ h' : Hart, h'.status = .parked ∧ h'.fault = some t.info ∧ h'.wp = true ∧
        (∃ cr : CtxRecord, h'.record = some cr ∧ cr.state = 4 ∧ cr.rpc = h'.tpc) ∧
        (trapped s h t).harts = s.harts.set s.cur h' ∧
        (trapped s h t).hall.faults = s.hall.faults ++
          [⟨s.hall.nextFid, s.cur, .hart, t.cause, t.addr, t.info, false, false⟩] ∧
        (trapped s h t).mem = s.mem) ∧
    (hallBound t.cause = true → t.toTvec = false → t.cause ≠ causeSysc → t.info.resolvable = false →
      trapped s h t = ({ s with hall := { s.hall with hstops := s.hall.hstops + 1 } }).failHart s.cur
        (Ctx.trapHart ⟨h, s⟩ t) ((Ctx.trapHart ⟨h, s⟩ t).failure 2))

/-! ## Vector instructions: the loop over elements -/

namespace Sys2Proof.Claims

/-- Conditions that a form asks of its registers, each with the detail of ILLCFG that its failure gives: 1 a tag, 2 the
scale register, 3 a layout or BLK (R288; where R288 leaves the detail open it is the model's, log entry 18). -/
abbrev Checks := List (Nat × Bool)

/-- Every condition holds. -/
def admitted (cs : Checks) : Prop := cs.all (·.2) = true

/-- Some condition of detail d fails, and none of a lower detail (R98). -/
def refusedFor (cs : Checks) (d : Nat) : Prop :=
  cs.any (fun c => c.1 == d && !c.2) = true ∧ cs.all (fun c => c.2 || decide (d ≤ c.1)) = true

/-- What an element-wise instruction over registers does (R116, R138): which elements it acts on, whether it
rounds into a floating tag (R410), what it asks of its registers, the bits and the flags of element e, how it writes
them, and what completion adds (a tag). `pre` is what it writes at element e before its flags are raised (the scale of
VQUANT); `vs` and `ms` are its destinations. Everything is read as it stood at issue. -/
structure Element where
  act : Nat → Bool
  rounds : Bool
  checks : Checks
  value : Nat → Nat × Flags
  pre : Hart → Nat → Hart := fun h _ => h
  write : Hart → Nat → Nat → Hart
  finish : Hart → Hart
  /-- The vector and the mask registers that it writes. -/
  vs : List VReg := []
  ms : List MReg := []
  /-- A stop falls before it and never inside it. -/
  whole : Bool := false

/-- Its registers carry what it asks of them. -/
def Element.ok (F : Element) : Prop := admitted F.checks

/-- The elements that it computes, from `lo` to `hi` − 1, ascending. -/
def Element.among (F : Element) (lo hi : Nat) : List Nat := (fromTo lo hi).filter F.act

/-- The hart after those elements: each one's flags ORed into FPCSR, and its result written. -/
def Element.after (F : Element) (h : Hart) (es : List Nat) : Hart :=
  es.foldl (fun h' e =>
    F.write { F.pre h' e with fpcsr := h'.fpcsr ||| (F.value e).2.zeroExtend 64 } e (F.value e).1) h

/-- The hart after completion: elements VSTART to VL − 1, VSTART := 0; nothing but VSTART when VL = 0. -/
def Element.result (F : Element) (h : Hart) : Hart :=
  if h.vl = 0 then { h with vstart := 0 }
  else { F.finish (F.after h (F.among h.vstart h.vl)) with vstart := 0 }

/-- Every form of a family completes when its tags are admitted, it does not round under RM = 5, none of its
elements raises an enabled flag, and no stop falls inside it. -/
def Completes (form : Hart → Nat → Instr → Option Element) : Prop :=
  ∀ (s : State) (h : Hart) (i : Instr) (F : Element),
    Issues i s h → form h s.tick i = some F → h.stopAt = none → F.ok → (F.rounds = true → h.rm ≠ 5) →
    (∀ e : Nat, e ∈ F.among h.vstart h.vl → h.enabledFlag (F.value e).2 = none) →
    exec i s = .next (finished s (F.result h))

/-- A form one of whose conditions fails traps ILLCFG with the lowest detail among those that fail, and one that would
round under RM = 5 traps ILLEGAL, detail 7, before that; neither writes anything. (An undefined tag traps nothing,
R7: `looseTags` are the registers that the instruction names whose tag is undefined.) -/
def Refuses (form : Hart → Nat → Instr → Option Element) : Prop :=
  ∀ (s : State) (h : Hart) (i : Instr) (F : Element),
    Issues i s h → form h s.tick i = some F → h.looseTags i = [] →
    (F.rounds = true → h.rm = 5 → exec i s = .next (trapped s h (Trap.illegal 7))) ∧
    ((F.rounds = true → h.rm ≠ 5) → ∀ d : Nat, refusedFor F.checks d →
      exec i s = .next (trapped s h (Trap.illcfg d)))

/-- At the lowest active element that raises an enabled flag a form stops with FPX at it: the elements below are
written, the element's flags are set, the element is not written, and the resume index is the element. -/
def TrapsFpx (form : Hart → Nat → Instr → Option Element) : Prop :=
  ∀ (s : State) (h : Hart) (i : Instr) (F : Element) (es : List Nat) (e : Nat) (rest : List Nat) (k : Nat),
    Issues i s h → form h s.tick i = some F → h.stopAt = none → F.ok → (F.rounds = true → h.rm ≠ 5) →
    F.among h.vstart h.vl = es ++ e :: rest →
    (∀ j : Nat, j ∈ es → h.enabledFlag (F.value j).2 = none) → h.enabledFlag (F.value e).2 = some k →
    exec i s = .next (trapped s
      { F.pre (F.after h es) e with fpcsr := (F.after h es).fpcsr ||| (F.value e).2.zeroExtend 64 }
      (Trap.fpx k e (some e)))

/-- A hard stop that falls inside a form, at the element group boundary `lim` above VSTART, keeps the elements
below `lim` and leaves the resume index there; one at or below VSTART, or inside a form that is not divided, falls
before the instruction. -/
def StopsInside (form : Hart → Nat → Instr → Option Element) : Prop :=
  ∀ (s : State) (h : Hart) (i : Instr) (F : Element) (n lim : Nat),
    Issues i s h → form h s.tick i = some F → h.stopAt = some n → lim = h.groupCeil n → lim < h.vl →
    F.ok → (F.rounds = true → h.rm ≠ 5) →
    (lim ≤ h.vstart ∨ F.whole = true → exec i s = .next (settle s.cur (.hold ⟨h, s⟩))) ∧
    (h.vstart < lim → F.whole = false → (∀ e : Nat, e ∈ F.among h.vstart lim → h.enabledFlag (F.value e).2 = none) →
      exec i s = .next (settle s.cur (.stop ⟨F.after h (F.among h.vstart lim), s⟩ lim)))

/-! ### Tags that an entry admits (R26, R46, R47, R139) -/

/-- The tag is neither reserved nor wider than EW, and a sliced one stands only under BLK = 2. -/
def usable (h : Hart) (k : Kind) : Bool := k != .reserved && decide (h.kw k ≤ h.ew) && (!k.isSliced || h.blk == 2)

/-- What an arithmetic operand or destination asks: not raw, and no scaled operand. -/
def arithUse (h : Hart) (t : Nat) (r : VReg) : Checks :=
  [(1, usable h (h.kind t r) && h.kind t r != .raw), (3, !h.scaled (h.kind t r))]
/-- A scaled operand that the entry names. -/
def scaledUse (h : Hart) (t : Nat) (r : VReg) : Checks := [(1, usable h (h.kind t r) && h.kind t r != .raw)]
/-- Bits: raw and scaled tags too. -/
def bitsUse (h : Hart) (t : Nat) (r : VReg) : Checks := [(1, usable h (h.kind t r))]
/-- Bits of an ordinary register: raw too, no scaled operand. -/
def rawUse (h : Hart) (t : Nat) (r : VReg) : Checks :=
  [(1, usable h (h.kind t r)), (3, !h.scaled (h.kind t r))]

/-- The register is an arithmetic operand. -/
def arithTag (h : Hart) (t : Nat) (r : VReg) : Prop := admitted (arithUse h t r)
/-- The register is an operand that may be scaled. -/
def scaledTag (h : Hart) (t : Nat) (r : VReg) : Prop := admitted (scaledUse h t r)
/-- The register is read as bits. -/
def bitsTag (h : Hart) (t : Nat) (r : VReg) : Prop := admitted (bitsUse h t r)
/-- The register is read as bits and is no scaled operand. -/
def rawTag (h : Hart) (t : Nat) (r : VReg) : Prop := admitted (rawUse h t r)

/-- A floating tag, E8M0 included (R410). -/
def floats (k : Kind) : Bool :=
  match k with
  | .flt _ => true
  | .e8m0 => true
  | _ => false

/-! ### Operands and results (R67) -/

/-- An operand's exact value: an integer, or a real. -/
inductive Num where
  | int (v : Int)
  | real (v : Val)

/-- The real that a value is. -/
def Num.toVal : Num → Val
  | .int v => .ofInt v
  | .real v => v

/-- The value of element e of a register, its block's scale included where the operand is scaled. -/
def element (h : Hart) (t : Nat) (r : VReg) (e : Nat) : Num :=
  let k := h.kind t r
  if k.isInt then .int (k.intVal (h.elem t k r e)) else .real (h.value t k r e)

/-- The scalar operand: the low bits of xb read as va's tag (R163). -/
def scalarOf (h : Hart) (t : Nat) (a : VReg) (b : XReg) : Num :=
  let k := h.kind t a
  let bits := h.getU b % 2 ^ h.kw k
  if k.isInt then .int (k.intVal bits) else .real (k.value bits)

/-- A result into a kind: an integer modulo 2^n into an integer kind, else rounded once, flags ORed. -/
def roundedInto (k : Kind) (rd : Rounding) (x : Num × Flags) : Nat × Flags :=
  match x.1 with
  | .int v =>
    if k.isInt then (ofInt (k.width 64) v, x.2) else ((k.round rd (.ofInt v)).1, x.2 ||| (k.round rd (.ofInt v)).2)
  | .real v => ((k.round rd v).1, x.2 ||| (k.round rd v).2)

/-- A binary operation: on the integers when both operands are integers, else on the reals. -/
def op2 (ints : Int → Int → Int) (reals : Val → Val → Val × Flags) (x y : Num) : Num × Flags :=
  match x, y with
  | .int a, .int b => (.int (ints a b), 0)
  | x, y => (.real (reals x.toVal y.toVal).1, (reals x.toVal y.toVal).2)

/-- A fused operation, likewise on three operands. -/
def op3 (ints : Int → Int → Int → Int) (reals : Val → Val → Val → Val × Flags) (x y z : Num) : Num × Flags :=
  match x, y, z with
  | .int a, .int b, .int c => (.int (ints a b c), 0)
  | x, y, z => (.real (reals x.toVal y.toVal z.toVal).1, (reals x.toVal y.toVal z.toVal).2)

/-- An arithmetic instruction into vd's tag. -/
def arithElement (h : Hart) (t : Nat) (d : VReg) (m : Bool) (asks : Checks) (x : Nat → Num × Flags) : Element where
  act := h.active t m
  rounds := floats (h.kind t d)
  checks := arithUse h t d ++ asks
  value := fun e => roundedInto (h.kind t d) (h.vecRounding e) (x e)
  write := fun h' e v => h'.setElem t (h.kind t d) d e v
  finish := id
  vs := [d]

/-- An arithmetic instruction of integer tags only, which rounds nothing (VMULH, VREM). -/
def intElement (h : Hart) (t : Nat) (d a b : VReg) (m : Bool) (f : Int → Int → Int) : Element :=
  { arithElement h t d m
      (arithUse h t a ++ arithUse h t b ++ [(1, (h.kind t a).isIN && (h.kind t b).isIN && (h.kind t d).isIN)])
      (fun e => op2 f (fun _ _ => (.nan false, 0)) (element h t a e) (element h t b e)) with rounds := false }

/-- The smaller of two integers. -/
def smaller (a b : Int) : Int := if a ≤ b then a else b
/-- The larger of two integers. -/
def larger (a b : Int) : Int := if a ≤ b then b else a

/-- Element arithmetic (R147, R148, R149, R156). -/
def arithForm (h : Hart) (t : Nat) : Instr → Option Element
  | .vadd d a b m _ _ => some (arithElement h t d m (arithUse h t a ++ arithUse h t b) (fun e =>
      op2 (· + ·) (Val.add h.rm) (element h t a e) (element h t b e)))
  | .vsub d a b m _ _ => some (arithElement h t d m (arithUse h t a ++ arithUse h t b) (fun e =>
      op2 (· - ·) (Val.sub h.rm) (element h t a e) (element h t b e)))
  | .vmul d a b m _ _ => some (arithElement h t d m (arithUse h t a ++ arithUse h t b) (fun e =>
      op2 (· * ·) Val.mul (element h t a e) (element h t b e)))
  | .vdiv d a b m _ _ => some (arithElement h t d m (arithUse h t a ++ arithUse h t b) (fun e =>
      op2 (quotient (h.kind t d) (h.kind t a)) Val.div (element h t a e) (element h t b e)))
  | .vmin d a b m _ _ => some (arithElement h t d m (arithUse h t a ++ arithUse h t b) (fun e =>
      op2 smaller Val.minimum (element h t a e) (element h t b e)))
  | .vmax d a b m _ _ => some (arithElement h t d m (arithUse h t a ++ arithUse h t b) (fun e =>
      op2 larger Val.maximum (element h t a e) (element h t b e)))
  | .vmulh d a b m _ _ => some (intElement h t d a b m (fun x y => x * y / (2 ^ (h.kw (h.kind t d)) : Nat)))
  | .vrem d a b m _ _ => some (intElement h t d a b m (fun x y => if y = 0 then x else x.tmod y))
  | .vsqrt d a m _ => some (arithElement h t d m (arithUse h t a ++ [(1, !(h.kind t a).isInt)]) (fun e =>
      (.real (element h t a e).toVal.sqrt.1, (element h t a e).toVal.sqrt.2)))
  | .vrcpe d a m _ => some (arithElement h t d m (arithUse h t a ++ [(1, !(h.kind t a).isInt)]) (fun e =>
      (.real (element h t a e).toVal.recipEstimate.1, (element h t a e).toVal.recipEstimate.2)))
  | .vrsqe d a m _ => some (arithElement h t d m (arithUse h t a ++ [(1, !(h.kind t a).isInt)]) (fun e =>
      (.real (element h t a e).toVal.rsqrtEstimate.1, (element h t a e).toVal.rsqrtEstimate.2)))
  | .vfma d a b m _ _ => some (arithElement h t d m (arithUse h t a ++ arithUse h t b) (fun e =>
      op3 (fun x y z => x * y + z) (Val.fma h.rm) (element h t a e) (element h t b e) (element h t d e)))
  | .vfms d a b m _ _ => some (arithElement h t d m (arithUse h t a ++ arithUse h t b) (fun e =>
      op3 (fun x y z => x * y - z) (fun x y z => x.fma h.rm y z.negate)
        (element h t a e) (element h t b e) (element h t d e)))
  | .vfnma d a b m _ _ => some (arithElement h t d m (arithUse h t a ++ arithUse h t b) (fun e =>
      op3 (fun x y z => z - x * y) (fun x y z => x.negate.fma h.rm y z)
        (element h t a e) (element h t b e) (element h t d e)))
  | _ => none

/-- VABS and VNEG (R148): under equal floating tags they act on the sign bit alone and round nothing; E8M0 keeps
its code, or has no negative; else the exact value is rounded. -/
def signForm (h : Hart) (t : Nat) : Instr → Option Element
  | .vabs d a m _ => some (signOf d a m
      (fun w x => x % 2 ^ (w - 1)) (fun x => (x, 0)) (fun v => v.natAbs) Val.abs)
  | .vneg d a m _ => some (signOf d a m
      (fun w x => x ^^^ 2 ^ (w - 1)) (fun _ => (0xFF, flagNV)) (fun v => -v) Val.negate)
  | _ => none
where
  signOf (d a : VReg) (m : Bool) (bits : Nat → Nat → Nat) (scale : Nat → Nat × Flags) (ints : Int → Int)
      (reals : Val → Val) : Element :=
    let kd := h.kind t d
    let ka := h.kind t a
    { act := h.active t m
      rounds := floats kd && kd != ka
      checks := arithUse h t d ++ arithUse h t a
      value := fun e =>
        if ka = .e8m0 ∧ kd = .e8m0 then scale (h.elem t ka a e)
        else if ka.isFlt = true ∧ kd = ka then (bits (h.kw ka) (h.elem t ka a e), 0)
        else roundedInto kd (h.vecRounding e) (match element h t a e with
          | .int v => (.int (ints v), 0)
          | .real v => (.real (reals v), 0))
      write := fun h' e v => h'.setElem t kd d e v
      finish := id
      vs := [d] }

/-! ### Bits, shifts, counts, moves (R150 to R155) -/

/-- A bitwise form: the low bits that the tags name, without interpretation; vd's upper slot bits become zero. -/
def bitElement (h : Hart) (t : Nat) (d : VReg) (m : Bool) (checks : Checks) (v : Nat → Nat) : Element where
  act := h.active t m
  rounds := false
  checks := checks
  value := fun e => (v e, 0)
  write := fun h' e b => h'.setElem t (h.kind t d) d e b
  finish := id
  vs := [d]

/-- The n-bit pattern that a shift acts on (R151): raw bits, or the integer modulo 2^n. -/
def shiftInput (h : Hart) (t : Nat) (a : VReg) (n e : Nat) : Nat :=
  let k := h.kind t a
  if k = .raw then h.elem t k a e % 2 ^ n else ofInt n (k.intVal (h.elem t k a e))

/-- A shift: the amount modulo the width n of vd's tag; SRA copies the top bit of the n-bit pattern. -/
def shiftElement (h : Hart) (t : Nat) (d a : VReg) (m : Bool) (asks : Checks) (amount : Nat → Int)
    (f : (n x s : Nat) → Nat) : Element :=
  let n := h.kw (h.kind t d)
  bitElement h t d m
    (rawUse h t d ++ rawUse h t a ++ [(1, !floats (h.kind t d) && !floats (h.kind t a))] ++ asks)
    (fun e => f n (shiftInput h t a n e) (amount e % (n : Nat)).toNat)

/-- x × 2^s modulo 2^n. -/
def sllBits (n x s : Nat) : Nat := x * 2 ^ s % 2 ^ n
/-- x ÷ 2^s. -/
def srlBits (_n x s : Nat) : Nat := x / 2 ^ s
/-- floor(s(x) ÷ 2^s) as an n-bit pattern. -/
def sraBits (n x s : Nat) : Nat := ofInt n (toSigned n x / (2 ^ s : Nat))

/-- The shift amount in element e of vb. -/
def amountAt (h : Hart) (t : Nat) (b : VReg) (e : Nat) : Int := (h.kind t b).intVal (h.elem t (h.kind t b) b e)

/-- The bitwise forms, shifts, counts, moves and conversions (R150 to R155). -/
def bitsForm (h : Hart) (t : Nat) : Instr → Option Element
  | .vand d a b m _ _ => some (bitElement h t d m (bitsUse h t d ++ bitsUse h t a ++ bitsUse h t b) (fun e =>
      h.elem t (h.kind t a) a e &&& h.elem t (h.kind t b) b e))
  | .vor d a b m _ _ => some (bitElement h t d m (bitsUse h t d ++ bitsUse h t a ++ bitsUse h t b) (fun e =>
      h.elem t (h.kind t a) a e ||| h.elem t (h.kind t b) b e))
  | .vxor d a b m _ _ => some (bitElement h t d m (bitsUse h t d ++ bitsUse h t a ++ bitsUse h t b) (fun e =>
      h.elem t (h.kind t a) a e ^^^ h.elem t (h.kind t b) b e))
  | .vnot d a m _ => some (bitElement h t d m (bitsUse h t d ++ bitsUse h t a) (fun e =>
      2 ^ h.ew - 1 - h.elem t (h.kind t a) a e % 2 ^ h.ew))
  | .vsll d a b m _ _ => some (shiftElement h t d a m (arithUse h t b ++ [(1, (h.kind t b).isIN)])
      (amountAt h t b) sllBits)
  | .vsrl d a b m _ _ => some (shiftElement h t d a m (arithUse h t b ++ [(1, (h.kind t b).isIN)])
      (amountAt h t b) srlBits)
  | .vsra d a b m _ _ => some (shiftElement h t d a m (arithUse h t b ++ [(1, (h.kind t b).isIN)])
      (amountAt h t b) sraBits)
  | .vclz d a m _ => some (arithElement h t d m (rawUse h t a ++ [(1, !floats (h.kind t a))]) (fun e =>
      (.int (leadingZeros (h.kw (h.kind t a)) (h.elem t (h.kind t a) a e)), 0)))
  | .vcnt d a m _ => some (arithElement h t d m (rawUse h t a ++ [(1, !floats (h.kind t a))]) (fun e =>
      (.int (popCount (h.kw (h.kind t a)) (h.elem t (h.kind t a) a e)), 0)))
  | .vmv d a m _ => some
    { act := h.active t m
      rounds := false
      checks := bitsUse h t a
      value := fun e => (h.elem t (h.kind t a) a e, 0)
      write := fun h' e v => h'.setElem t (h.kind t a) d e v
      finish := fun h' => h'.setTag d (h.tag t a)
      vs := [d] }
  | .vmerge d a b _ _ => some
    { act := fun _ => true
      rounds := false
      checks := bitsUse h t a ++ bitsUse h t b ++ [(1, h.tag t a == h.tag t b)]
      value := fun e => (h.elem t (h.kind t a) (if h.pred t e then a else b) e, 0)
      write := fun h' e v => h'.setElem t (h.kind t a) d e v
      finish := fun h' => h'.setTag d (h.tag t a)
      vs := [d] }
  | .vcvt d a code m _ => some
    { act := h.active t m
      rounds := false
      checks := arithUse h t a ++ [(1, !(kindOf code.toNat).isSliced && decide (h.kw (kindOf code.toNat) ≤ h.ew)),
        (3, !h.scaled (kindOf code.toNat))]
      value := fun e =>
        if kindOf code.toNat = .raw then (h.readSpot t a (h.ordSpot e) h.ew, 0)
        else roundedInto (kindOf code.toNat) (h.vecRounding e) (element h t a e, 0)
      write := fun h' e v => h'.setElem t (kindOf code.toNat) d e v
      finish := fun h' => h'.setTag d code.toNat
      vs := [d] }
  | _ => none

/-! ### Scalar operands (R163, R164) -/

/-- The forms with a scalar operand, VBCST and VIDX. -/
def scalarForm (h : Hart) (t : Nat) : Instr → Option Element
  | .vaddX d a b m _ => some (arithElement h t d m (arithUse h t a) (fun e =>
      op2 (· + ·) (Val.add h.rm) (element h t a e) (scalarOf h t a b)))
  | .vsubX d a b m _ => some (arithElement h t d m (arithUse h t a) (fun e =>
      op2 (· - ·) (Val.sub h.rm) (element h t a e) (scalarOf h t a b)))
  | .vmulX d a b m _ => some (arithElement h t d m (arithUse h t a) (fun e =>
      op2 (· * ·) Val.mul (element h t a e) (scalarOf h t a b)))
  | .vminX d a b m _ => some (arithElement h t d m (arithUse h t a) (fun e =>
      op2 smaller Val.minimum (element h t a e) (scalarOf h t a b)))
  | .vmaxX d a b m _ => some (arithElement h t d m (arithUse h t a) (fun e =>
      op2 larger Val.maximum (element h t a e) (scalarOf h t a b)))
  | .vfmaX d a b m _ => some (arithElement h t d m (arithUse h t a) (fun e =>
      op3 (fun x y z => x * y + z) (Val.fma h.rm) (element h t a e) (scalarOf h t a b) (element h t d e)))
  | .vandX d a b m _ => some (bitElement h t d m
      (bitsUse h t d ++ bitsUse h t a ++ [(3, !h.scaled (h.kind t a))])
      (fun e => h.elem t (h.kind t a) a e &&& (h.getU b % 2 ^ h.kw (h.kind t a))))
  | .vorX d a b m _ => some (bitElement h t d m
      (bitsUse h t d ++ bitsUse h t a ++ [(3, !h.scaled (h.kind t a))])
      (fun e => h.elem t (h.kind t a) a e ||| (h.getU b % 2 ^ h.kw (h.kind t a))))
  | .vxorX d a b m _ => some (bitElement h t d m
      (bitsUse h t d ++ bitsUse h t a ++ [(3, !h.scaled (h.kind t a))])
      (fun e => h.elem t (h.kind t a) a e ^^^ (h.getU b % 2 ^ h.kw (h.kind t a))))
  | .vsllX d a b m _ => some (shiftElement h t d a m []
      (fun _ => (h.getU b % 2 ^ h.kw (h.kind t a) : Nat)) sllBits)
  | .vsrlX d a b m _ => some (shiftElement h t d a m []
      (fun _ => (h.getU b % 2 ^ h.kw (h.kind t a) : Nat)) srlBits)
  | .vsraX d a b m _ => some (shiftElement h t d a m []
      (fun _ => (h.getU b % 2 ^ h.kw (h.kind t a) : Nat)) sraBits)
  | .vbcst d b m => some (bitElement h t d m (bitsUse h t d) (fun _ => h.getU b))
  | .vidx d m => some (arithElement h t d m [] (fun e => (.int (e : Nat), 0)))
  | _ => none

/-! ### Widening, narrowing, placement and block scales (R157 to R162) -/

/-- Two registers under one tag of width 2 × EW, not sliced; the tag may be a block tag. -/
def blockPair (h : Hart) (t : Nat) (r r' : VReg) : Checks :=
  [(1, h.kind t r != .reserved && h.kind t r != .raw && !(h.kind t r).isSliced && h.tag t r == h.tag t r' &&
    (h.kind t r).width 64 == 2 * h.ew)]

/-- Two registers under one tag of width 2 × EW, unscaled and not sliced. -/
def pairUse (h : Hart) (t : Nat) (r r' : VReg) : Checks := blockPair h t r r' ++ [(3, !h.scaled (h.kind t r))]

/-- Wide element e of the pair at r (R57). -/
def wideElement (h : Hart) (t : Nat) (r : VReg) (e : Nat) : Num :=
  let k := h.kind t r
  if k.isInt then .int (k.intVal (h.wide t r e)) else .real (k.value (h.wide t r e))

/-- A widening form into the pair vd, vd + 1 (R157, R158). -/
def widenElement (h : Hart) (t : Nat) (d a b : VReg) (m : Bool) (x : Nat → Num × Flags) : Element where
  act := h.active t m
  rounds := floats (h.kind t d)
  checks := arithUse h t a ++ arithUse h t b ++ pairUse h t d (nextReg d)
  value := fun e => roundedInto (h.kind t d) (h.vecRounding e) (x e)
  write := fun h' e v => h'.setWide t d e v
  finish := id
  vs := [d, nextReg d]

/-- The indices of block q among the active elements below VL. -/
def blockElements (h : Hart) (t : Nat) (m : Bool) (q : Nat) : List Nat :=
  (fromTo (h.blockSize * q) (min h.vl (h.blockSize * (q + 1)))).filter (h.active t m)

/-- Widening, narrowing, placement and scaling (R157 to R162). -/
def wideForm (h : Hart) (t : Nat) : Instr → Option Element
  | .vwadd d a b m _ _ => some (widenElement h t d a b m (fun e =>
      op2 (· + ·) (Val.add h.rm) (element h t a e) (element h t b e)))
  | .vwsub d a b m _ _ => some (widenElement h t d a b m (fun e =>
      op2 (· - ·) (Val.sub h.rm) (element h t a e) (element h t b e)))
  | .vwmul d a b m _ _ => some (widenElement h t d a b m (fun e =>
      op2 (· * ·) Val.mul (element h t a e) (element h t b e)))
  | .vwfma d a b m _ _ => some (widenElement h t d a b m (fun e =>
      op3 (fun x y z => x * y + z) (Val.fma h.rm) (element h t a e) (element h t b e) (wideElement h t d e)))
  | .vnarrow d a m _ => some
    { act := h.active t m
      rounds := false
      checks := arithUse h t d ++ pairUse h t a (nextReg a)
      value := fun e => roundedInto (h.kind t d) (h.vecRounding e) (wideElement h t a e, 0)
      write := fun h' e v => h'.setElem t (h.kind t d) d e v
      finish := id
      vs := [d] }
  | .vilv d a b m _ _ => some
    { act := h.active t m
      rounds := false
      checks := pairUse h t a b
      value := fun e => (h.ordered t a b e, 0)
      write := fun h' e v => h'.setWide t d e v
      finish := fun h' => (h'.setTag d (h.tag t a)).setTag (nextReg d) (h.tag t a)
      vs := [d, nextReg d] }
  | .vdilv d a m _ => some
    { act := h.active t m
      rounds := false
      checks := pairUse h t a (nextReg a)
      value := fun e => (h.wide t a e, 0)
      write := fun h' e v => h'.setOrdered t d (nextReg d) e v
      finish := fun h' => (h'.setTag d (h.tag t a)).setTag (nextReg d) (h.tag t a)
      vs := [d, nextReg d] }
  | .vscale d a b m _ _ => some
    { act := h.active t m
      rounds := floats (h.kind t d)
      checks := scaledUse h t a ++ [(1, h.kind t b == .e8m0)] ++ pairUse h t d (nextReg d) ++
        [(1, !(h.kind t d).isBlock), (2, !h.scaled (h.kind t a) || h.kind t scaleReg == .e8m0)]
      value := fun e =>
        let x := h.elem t .e8m0 b e
        roundedInto (h.kind t d) (h.vecRounding e)
          (.real (if x = 255 then .nan false else (h.value t (h.kind t a) a e).scale ((x : Int) - 127)), 0)
      write := fun h' e v => h'.setWide t d e v
      finish := id
      vs := [d, nextReg d] }
  | .vquant d a b m _ => some
    { act := h.active t m
      rounds := false
      checks := scaledUse h t d ++ [(1, (h.kind t d).isBlock)] ++ blockPair h t a (nextReg a) ++
        [(3, h.blk == 1 || h.blk == 2)]
      value := fun e =>
        let v := (wideElement h t a e).toVal
        let x := quantCode (h.kind t d)
          ((blockElements h t m (e / h.blockSize)).map (fun j => (wideElement h t a j).toVal))
        if x = 0xFF then (0, if v.special then flagNV else 0)
        else roundedInto (h.kind t d) (h.vecRounding e) (.real (v.scale (127 - (x : Int))), 0)
      pre := fun h' e => h'.setElem t .e8m0 b (e / h.blockSize)
        (quantCode (h.kind t d)
          ((blockElements h t m (e / h.blockSize)).map (fun j => (wideElement h t a j).toVal)))
      write := fun h' e v => h'.setElem t (h.kind t d) d e v
      finish := fun h' => h'.setTag b 0x12
      vs := [d, b] }
  | _ => none

/-! ### Compares and masks (R165, R166, R169) -/

/-- The second operand of a compare (R165): ATHR is F32, or I32 when its bit 32 is set. -/
def compareOperand (h : Hart) (t : Nat) (a : VReg) (e : Nat) : CmpOperand → Val
  | .vec b => (element h t b e).toVal
  | .scalar x => (scalarOf h t a x).toVal
  | .athr => if bitAt h.athr.toNat 32 then .ofInt (toSigned 32 h.athr.toNat)
      else fmtF32.value (h.athr.toNat % 2 ^ 32)

/-- What a compare asks of its registers. -/
def compareUse (h : Hart) (t : Nat) (a : VReg) : CmpOperand → Checks
  | .vec b => arithUse h t a ++ arithUse h t b
  | _ => arithUse h t a

/-- A compare into md. -/
def compareElement (h : Hart) (t : Nat) (d : MReg) (a : VReg) (b : CmpOperand) (m : Bool)
    (holds : Val → Val → Bool) (quiet : Bool) : Element where
  act := h.active t m
  rounds := false
  checks := compareUse h t a b
  value := fun e =>
    let x := (element h t a e).toVal
    let y := compareOperand h t a e b
    (if holds x y then 1 else 0,
     if x.isSnan || y.isSnan || (!quiet && (x.isNan || y.isNan)) then flagNV else 0)
  write := fun h' e v => h'.setMask d e (v == 1)
  finish := id
  ms := [d]

/-- Neither value is a NaN, and `p` holds of their order. -/
def ordered (p : Int → Bool) (x y : Val) : Bool := !x.isNan && !y.isNan && p (x.cmp y)

/-- A mask instruction: md[e] for each active e, with every mask as it stood at issue. -/
def maskElement (h : Hart) (t : Nat) (d : MReg) (m : Bool) (v : Nat → Bool) : Element where
  act := h.active t m
  rounds := false
  checks := []
  value := fun e => (if v e then 1 else 0, 0)
  write := fun h' e b => h'.setMask d e (b == 1)
  finish := id
  ms := [d]

/-- Compares, mask logic and the prefix count. A replay of MSBF that has written ma itself below VSTART finds there
ones before the first set bit and a zero at it, and an MSBF whose md is its own predicate is not divided by a stop
(R295; the model's readings, log entry 17). -/
def maskForm (h : Hart) (t : Nat) : Instr → Option Element
  | .vcmpEq d a b m _ => some (compareElement h t d a b m (ordered (· == 0)) true)
  | .vcmpNe d a b m _ => some (compareElement h t d a b m (fun x y => !ordered (· == 0) x y) true)
  | .vcmpLt d a b m _ => some (compareElement h t d a b m (ordered (fun c => decide (c < 0))) false)
  | .vcmpLe d a b m _ => some (compareElement h t d a b m (ordered (fun c => decide (c ≤ 0))) false)
  | .vcmpGt d a b m _ => some (compareElement h t d a b m (ordered (fun c => decide (0 < c))) false)
  | .vcmpGe d a b m _ => some (compareElement h t d a b m (ordered (fun c => decide (0 ≤ c))) false)
  | .vcmpUn d a b m _ => some (compareElement h t d a b m (fun x y => x.isNan || y.isNan) true)
  | .vcmpOr d a b m _ => some (compareElement h t d a b m (fun x y => !x.isNan && !y.isNan) true)
  | .mand d a b m => some (maskElement h t d m (fun e => h.mask t a e && h.mask t b e))
  | .mor d a b m => some (maskElement h t d m (fun e => h.mask t a e || h.mask t b e))
  | .mxor d a b m => some (maskElement h t d m (fun e => h.mask t a e != h.mask t b e))
  | .mandn d a b m => some (maskElement h t d m (fun e => h.mask t a e && !h.mask t b e))
  | .mnot d a m => some (maskElement h t d m (fun e => !h.mask t a e))
  | .msbf d a m => some { maskElement h t d m (fun e =>
      (List.range (min (e + 1) h.vl)).all (fun j => !h.active t m j ||
        if d = a ∧ h.replay.isSome = true ∧ j < h.vstart then h.mask t a j else !h.mask t a j)) with
      whole := m && (match h.pfx with | some w => fld w.toNat 22 4 % 12 | none => 0) == d.val }
  | .mpref d a m => some (arithElement h t d m [] (fun e =>
      (.int (((List.range e).filter (fun j => h.active t m j && h.mask t a j)).length : Nat), 0)))
  | _ => none

/-! ### Random draws (R66, R188) -/

/-- VRND and VRNDF: the counter of element e is (xb + SB + e) mod 2^64. -/
def randomForm (h : Hart) (t : Nat) : Instr → Option Element
  | .vrnd d b m => some (bitElement h t d m (rawUse h t d ++ [(1, (h.kind t d).isIN || h.kind t d == .raw)])
      (fun e => rng h.rkey.toNat ((h.getU b + h.sb.toNat + e) % 2 ^ 64)))
  | .vrndf d b m => some (bitElement h t d m
      (arithUse h t d ++ [(1, h.kind t d == .flt fmtF32 || h.kind t d == .flt fmtF64)])
      (fun e =>
        let draw := rng h.rkey.toNat ((h.getU b + h.sb.toNat + e) % 2 ^ 64)
        if h.kind t d = .flt fmtF32 then (fmtF32.round ⟨0, false, 0⟩ (.make false (draw / 2 ^ 40) (-24))).1
        else (fmtF64.round ⟨0, false, 0⟩ (.make false (draw / 2 ^ 11) (-53))).1))
  | _ => none

end Sys2Proof.Claims

/-- R116, R138, R147, R148, R149, R156, R67: element arithmetic. Element e of vd, for each active e from VSTART to
VL − 1, takes the operation on the exact values of va[e] and vb[e] (and vd[e] where it is the addend), reduced
modulo 2^n or rounded once into vd's tag; VABS and VNEG act on sign bits under equal floating tags. The model's choices
in this: VSQRT, VRCPE and VRSQE round into an integer vd and take a subnormal operand at its value (log entry 21); the
integer quotient by zero goes into a floating vd as its integer, and an integer zero counts as +0 (log entry 22); RM = 5
rounds stochastically into an integer vd too, and the exact-zero sum of integers is +0 (log entry 56).

R150 to R155: bitwise forms, shifts, counts, moves, merges and conversions. That a bitwise form reads a register
narrower than EW as its own bits with zeros above, and that VMV copies no more of a slot, is the model's choice (log
entry 19), and so it is that these forms, VMV and VMERGE take a scaled operand as bits (log entry 57). -/
def Obligations.VectorArithmetic : Prop :=
  (Completes arithForm ∧ Completes signForm) ∧
  (Completes bitsForm)

/-- R163, R164: the forms with a scalar operand, VBCST and VIDX. VAND.X, VOR.X and VXOR.X read a narrower va at its
own width by the model's choice (log entry 19); that they, and VBCST, take a scaled destination as bits is its choice
too (log entry 57), and so are RM = 5 into an integer vd and the +0 of an exact-zero integer sum (log entry 56).

R157 to R162: widening, narrowing, the two placements of a pair, VSCALE and VQUANT. That VQUANT raises NV only at
the elements that are NaN or infinite, and writes a block's scale before its first element, is the model's choice (log
entry 58).

R66, R188: random draws from RKEY and the counter (xb + SB + e) mod 2^64. -/
def Obligations.VectorOtherForms : Prop :=
  (Completes scalarForm) ∧
  (Completes wideForm) ∧
  (Completes randomForm)

/-- R26, R46, R47, R98, R139, R288, R410: tags that an entry does not admit raise ILLCFG, with detail 1 for a tag, 2 for
V47 not carrying E8M0 and 3 for a layout or BLK, the lowest where several fail; rounding into a floating tag under
RM = 5 raises ILLEGAL, detail 7. Which detail a condition has where R288 does not say is log entry 18. -/
def Obligations.VectorRefusals : Prop :=
  Refuses arithForm ∧ Refuses signForm ∧ Refuses bitsForm ∧ Refuses scalarForm ∧ Refuses wideForm ∧
  Refuses maskForm ∧ Refuses randomForm

/-- R140, R117, R288, R289: FPX stops an element-wise instruction precisely at the lowest element that raises an
enabled flag. That VQUANT has written its block's scale by then, and which of its elements raise NV, is the model's
choice (log entry 58).

R281, R292: a hard stop inside an element-wise instruction falls at an element group boundary. That an MSBF whose md
is its own predicate is not divided is the model's choice (log entry 17). -/
def Obligations.VectorElementTraps : Prop :=
  (TrapsFpx arithForm ∧ TrapsFpx signForm ∧ TrapsFpx bitsForm ∧ TrapsFpx scalarForm ∧ TrapsFpx wideForm ∧
   TrapsFpx maskForm) ∧
  (StopsInside arithForm ∧ StopsInside signForm ∧ StopsInside bitsForm ∧ StopsInside scalarForm ∧
   StopsInside wideForm ∧ StopsInside maskForm ∧ StopsInside randomForm)

/-- R23, R25, R34, R57, R58: what a write of one element does. The element reads back its low bits; every other
element of the register keeps its bits, and so does every other vector register, mask and X register. Elements
are those of one row layout, VCOLS columns of at most W; the register's words are in their canonical form,
which every write of a place keeps (`writeSpot_wf` in Laws).

R34: a mask bit that is written reads back, and no other bit of any mask changes; the mask's words are in their
canonical form, which every write of a bit keeps (`setBit_wf` in Laws). -/
def Obligations.RegisterStorage : Prop :=
  (∀ (h : Hart) (t : Nat) (k : Kind) (r : VReg) (e e' bits : Nat),
     (h.v[r]).words.wf = true → h.blocked k = false → h.kw k ≤ h.ew → 1 ≤ h.vcols → h.vcols ≤ h.w → h.width ≤ 8 →
     (h.setElem t k r e bits).elem t k r e = bits % 2 ^ h.kw k ∧
     (e ≠ e' → (h.setElem t k r e bits).elem t k r e' = h.elem t k r e') ∧
     (∀ r' : VReg, r' ≠ r → (h.setElem t k r e bits).v[r'] = h.v[r']) ∧
     (h.setElem t k r e bits).x = h.x ∧ (h.setElem t k r e bits).m = h.m ∧
     (h.setElem t k r e bits).fpcsr = h.fpcsr) ∧
  (∀ (h : Hart) (t : Nat) (r r' : MReg) (e e' : Nat) (b : Bool),
     (h.m[r]).bits.wf = true → (h.m[r]).hidden.wf = true →
     (h.setMask r e b).mask t r e = b ∧
     (r' ≠ r ∨ e' ≠ e → (h.setMask r e b).mask t r' e' = h.mask t r' e'))

/-! ## Vector instructions that run whole -/

namespace Sys2Proof.Claims

/-- The active elements from VSTART to VL − 1. -/
def activeFrom (h : Hart) (t : Nat) (m : Bool) : List Nat := (fromTo h.vstart h.vl).filter (h.active t m)

/-- The active elements below VL. -/
def activeBelow (h : Hart) (t : Nat) (m : Bool) : List Nat := (List.range h.vl).filter (h.active t m)

/-- The hart after xd := w, with VSTART := 0. -/
def wholeX (h : Hart) (d : XReg) (w : Word) : Hart := { h.setX d w with vstart := 0 }

/-- The hart with the flags of a list of points ORed in. -/
def pointFlags (h : Hart) (pts : List Point) : Hart := pts.foldl (fun h' p => h'.orFlags p.1) h

/-- No point raises an enabled flag. -/
def Untrapped (h : Hart) (pts : List Point) : Prop := ∀ p : Point, p ∈ pts → h.enabledFlag p.1 = none

/-- Word k of the active bits of ma from VSTART to VL − 1 (R168). -/
def maskWord (h : Hart) (t : Nat) (a : MReg) (m : Bool) (k : Nat) : Nat :=
  ((List.range 64).filter (fun i => decide (64 * k + i ∈ activeFrom h t m) && h.mask t a (64 * k + i))).foldl
    (fun acc i => acc + 2 ^ i) 0

/-- The leaf of VREDS at element e: va[e] rounded into vd's tag (R170). -/
def redsLeaf (h : Hart) (t : Nat) (d a : VReg) (e : Nat) : Nat × Flags :=
  roundedInto (h.kind t d) (h.vecRounding e) (element h t a e, 0)

/-- The leaf of VDOTS at element e: va[e] × vb[e] rounded into vd's tag. -/
def dotsLeaf (h : Hart) (t : Nat) (d a b : VReg) (e : Nat) : Nat × Flags :=
  roundedInto (h.kind t d) (h.vecRounding e) (op2 (· * ·) Val.mul (element h t a e) (element h t b e))

/-- The hart after a strip of leaves has been added into the partial register vd (R69 to R71, R170): block q, the
elements of absolute index 32q to 32q + 31, is added by the tree of R70 and then into slot q mod 32. -/
def reduced (h : Hart) (t : Nat) (d : VReg) (m : Bool) (leaf : Nat → Nat × Flags) : Hart × List Point :=
  let k := h.kind t d
  let w := k.width 64
  let es := activeFrom h t m
  let blocks := blocksOf h.sb.toNat es
  let r := addBlocks k (h.vecRounding 0) h.sb.toNat es leaf blocks ((List.range 32).map (h.partialSlot t d w))
  let h' := ((blocks.map (· % 32)).eraseDups).foldl
    (fun (a : Hart) i => a.writeSpot t d (partialSpot w i) w ((r.1[i]?).getD 0)) (pointFlags h r.2)
  ({ h' with vstart := 0 }, r.2)

/-- A strip reduction: vd, its m bit, the tags it asks, and its leaves (R170). -/
def stripForm (h : Hart) (t : Nat) : Instr → Option (VReg × Bool × Checks × (Nat → Nat × Flags))
  | .vreds d a m _ => some (d, m, (1, (h.kind t d).partialOk) :: arithUse h t a, redsLeaf h t d a)
  | .vdots d a b m _ _ =>
    some (d, m, (1, (h.kind t d).partialOk) :: (arithUse h t a ++ arithUse h t b), dotsLeaf h t d a b)
  | _ => none

/-- A reduction under RM = 5 into a floating partial register is refused, before its tags are looked at (R68, R410). -/
def partialRounds (k : Kind) : Prop := floats k = true ∧ k.partialOk = true

/-- FPX at the first of some points that raises an enabled flag: the flags up to it are set, and nothing is written
(R170). -/
def PointTraps (s : State) (h : Hart) (i : Instr) (pts : List Point) (idx : Nat) : Prop :=
  ∀ (ps rest : List Point) (p : Point) (b : Nat), pts = ps ++ p :: rest → Untrapped h ps → h.enabledFlag p.1 = some b →
    exec i s = .next (trapped s (pointFlags h (ps ++ [p])) (Trap.fpx b p.2 (some idx)))

/-- The refusals of a reduction whose partial register has kind k (R68, R98, R410). -/
def PartialRefused (s : State) (h : Hart) (i : Instr) (k : Kind) (checks : Checks) : Prop :=
  h.looseTags i = [] →
    (partialRounds k → h.rm = 5 → exec i s = .next (trapped s h (Trap.illegal 7))) ∧
    ((partialRounds k → h.rm ≠ 5) → ∀ n : Nat, refusedFor checks n → exec i s = .next (trapped s h (Trap.illcfg n)))

/-- The order-free reductions: how two patterns combine, and the tags admitted (R172). -/
def orderFreeForm (h : Hart) (t : Nat) :
    Instr → Option (XReg × VReg × XReg × Bool × Prop × (Nat → Nat → Nat × Flags))
  | .vredmax d a b m _ => some (d, a, b, m, arithTag h t a, extreme (h.kind t a) true)
  | .vredmin d a b m _ => some (d, a, b, m, arithTag h t a, extreme (h.kind t a) false)
  | .vredand d a b m _ => some (d, a, b, m, rawTag h t a ∧ ((h.kind t a).isIN = true ∨ h.kind t a = .raw),
      fun x y => (x &&& y, 0))
  | .vredor d a b m _ => some (d, a, b, m, rawTag h t a ∧ ((h.kind t a).isIN = true ∨ h.kind t a = .raw),
      fun x y => (x ||| y, 0))
  | _ => none

/-- A result in an X register: a signed kind sign-extended, every other zero-extended (R171, R172). -/
def inX (h : Hart) (k : Kind) (bits : Nat) : Word :=
  match k with
  | .int true w => BitVec.ofInt 64 (toSigned w bits)
  | k => BitVec.ofNat 64 (bits % 2 ^ h.kw k)

/-! ### Permutations (R185 to R187) -/

/-- A permutation's tags are admitted, and the slots (destination, source) that it moves, in order; vd takes va's
tag. A source of none is an all-zero slot. -/
structure Moves where
  d : VReg
  a : VReg
  ok : Prop
  slots : List (Nat × Option Nat)

/-- The source of a permutation: any unblocked register no wider than EW. -/
def movable (h : Hart) (t : Nat) (a : VReg) : Prop := bitsTag h t a ∧ h.blocked (h.kind t a) = false
/-- A register with an I or N tag no wider than EW. -/
def intTag (h : Hart) (t : Nat) (r : VReg) : Prop := arithTag h t r ∧ (h.kind t r).isIN = true

/-- The integer in element e. -/
def intAt (h : Hart) (t : Nat) (b : VReg) (e : Nat) : Int := (h.kind t b).intVal (h.elem t (h.kind t b) b e)

/-- The position that vb[e] names, when it lies below VL. -/
def named (h : Hart) (t : Nat) (b : VReg) (e : Nat) : Option Nat :=
  if 0 ≤ intAt h t b e ∧ intAt h t b e < (h.vl : Int) then some (intAt h t b e).toNat else none

/-- The moving forms (R185). -/
def movesForm (h : Hart) (t : Nat) : Instr → Option Moves
  | .vcompress d a m _ => some ⟨d, a, movable h t a,
      (withIndex 0 (activeBelow h t m)).map (fun (i, e) => (i, some e))⟩
  | .vexpand d a m _ => some ⟨d, a, movable h t a,
      (withIndex 0 (activeBelow h t m)).map (fun (i, e) => (e, some i))⟩
  | .vsldn d a b m _ => some ⟨d, a, movable h t a,
      ((activeBelow h t m).filter (fun e => decide (e + h.getU b < h.vl))).map (fun e => (e, some (e + h.getU b)))⟩
  | .vslup d a b m _ => some ⟨d, a, movable h t a,
      ((activeBelow h t m).filter (fun e => decide (h.getU b ≤ e))).map (fun e => (e, some (e - h.getU b)))⟩
  | .vpull d a b m _ _ => some ⟨d, a, movable h t a ∧ intTag h t b,
      (activeBelow h t m).map (fun e => (e, named h t b e))⟩
  | _ => none

/-- The hart after moving slots and the tag. -/
def Moves.result (M : Moves) (h : Hart) (t : Nat) : Hart :=
  if h.vl = 0 then { h with vstart := 0 }
  else
    let k := h.kind t M.a
    let h' := M.slots.foldl (fun (h' : Hart) p => h'.setElem t k M.d p.1 (match p.2 with
      | some j => h.elem t k M.a j
      | none => 0)) h
    { h'.setTag M.d (h.tag t M.a) with vstart := 0 }

/-- The active elements below VL that name position p of vd, ascending. -/
def naming (h : Hart) (t : Nat) (b : VReg) (m : Bool) (p : Nat) : List Nat :=
  (activeBelow h t m).filter (fun e => named h t b e == some p)

/-- The hart after VPUSH (R187): vd[p] takes va[e] of each active e that names p, in ascending e, so that the last
stays; vd takes va's tag; M11[e] is 1 for each active e that names no position below VL, or one that a later active
element names too, and 0 for the other active ones. -/
def pushed (h : Hart) (t : Nat) (d a b : VReg) (m : Bool) : Hart :=
  if h.vl = 0 then { h with vstart := 0 }
  else
    let k := h.kind t a
    let es := activeBelow h t m
    let h1 := es.foldl (fun (h' : Hart) e => match named h t b e with
      | some p => h'.setElem t k d p (h.elem t k a e)
      | none => h') h
    let h2 := es.foldl (fun (h' : Hart) e => h'.setMask 11 e (match named h t b e with
      | some p => (naming h t b m p).any (fun e' => decide (e < e'))
      | none => true)) (h1.setTag d (h.tag t a))
    { h2 with vstart := 0 }

/-- The integers that VCONF, VRANK and VSELB write into vd's own tag, element by element (R185, R186). -/
def searchForm (h : Hart) (t : Nat) : Instr → Option (VReg × Prop × List (Nat × Int))
  | .vconf d a m _ => some (d, movable h t a ∧ intTag h t d, (activeBelow h t m).map (fun e =>
      (e, match ((activeBelow h t m).filter (fun i =>
          decide (i < e) && h.elem t (h.kind t a) a i == h.elem t (h.kind t a) a e)).getLast? with
        | some i => (i : Int)
        | none => -1)))
  | .vrank d a b m _ _ => some (d, arithTag h t a ∧ h.kind t a = .int false 64 ∧ intTag h t b ∧ intTag h t d,
      (activeBelow h t m).map (fun e =>
        (e, (((h.bitmap t a).filter (fun (q : Nat) => decide ((q : Int) < intAt h t b e))).length : Int))))
  | .vselb d a b m _ _ => some (d, arithTag h t a ∧ h.kind t a = .int false 64 ∧ intTag h t b ∧ intTag h t d,
      (activeBelow h t m).map (fun e =>
        (e, if intAt h t b e < 0 then -1 else match (h.bitmap t a)[(intAt h t b e).toNat]? with
          | some p => (p : Int)
          | none => -1)))
  | _ => none

/-- The hart after integers have been written into vd's tag. -/
def integersPut (h : Hart) (t : Nat) (d : VReg) (vs : List (Nat × Int)) : Hart :=
  if h.vl = 0 then { h with vstart := 0 }
  else
    let k := h.kind t d
    { vs.foldl (fun (h' : Hart) p => h'.setElem t k d p.1 (ofInt (h.kw k) p.2)) h with vstart := 0 }

end Sys2Proof.Claims

/-- R165, R166, R169: compares into a mask register, mask logic, set-before-first and the prefix count. What a replay
of MSBF with md = ma finds is the model's choice (log entry 17).

R167, R168, R116: MCNT counts, and MFFS finds the first of, the active set bits of ma from VSTART; MTOX reads
word k of them; MXTOM writes word k of md at active elements. k of 512 or more raises ILLEGAL, detail 5. -/
def Obligations.VectorCompareAndMasks : Prop :=
  (Completes maskForm) ∧
  (∀ (s : State) (h : Hart), h.stopAt = none →
     (∀ (d : XReg) (a : MReg) (m : Bool), Issues (.mcnt d a m) s h →
       exec (.mcnt d a m) s = .next (finished s (wholeX h d
         (BitVec.ofNat 64 ((activeFrom h s.tick m).filter (h.mask s.tick a)).length)))) ∧
     (∀ (d : XReg) (a : MReg) (m : Bool), Issues (.mffs d a m) s h →
       exec (.mffs d a m) s = .next (finished s (wholeX h d
         (match (activeFrom h s.tick m).find? (h.mask s.tick a) with
           | some e => BitVec.ofNat 64 e
           | none => BitVec.allOnes 64)))) ∧
     (∀ (d : XReg) (a : MReg) (b : XReg) (m : Bool), Issues (.mtox d a b m) s h →
       (h.getU b < 512 → exec (.mtox d a b m) s =
         .next (finished s (wholeX h d (BitVec.ofNat 64 (maskWord h s.tick a m (h.getU b)))))) ∧
       (512 ≤ h.getU b → exec (.mtox d a b m) s = .next (trapped s h (Trap.illegal 5)))) ∧
     (∀ (d : MReg) (a b : XReg) (m : Bool), Issues (.mxtom d a b m) s h →
       (h.getU b < 512 → exec (.mxtom d a b m) s = .next (finished s
         { ((activeFrom h s.tick m).filter (fun e => decide (e / 64 = h.getU b))).foldl
             (fun (h' : Hart) e => h'.setMask d e ((h.getX a).getLsbD (e % 64))) h with vstart := 0 })) ∧
       (512 ≤ h.getU b → exec (.mxtom d a b m) s = .next (trapped s h (Trap.illegal 5)))))

/-- R68 to R71, R170, R410: VREDS and VDOTS add a strip of leaves into the partial register vd: whole, or, when a point
raises an enabled flag, not at all: FPX with the block's lowest element in TELEM, and the flags of the points up to it.
A vd that is no 32- or 64-bit partial, or a source tag that is not admitted, is ILLCFG; under RM = 5 a floating partial
is ILLEGAL, detail 7. (Which flags stand after the FPX is the model's, log entry 24; which detail an ILLCFG has where
R288 does not say, log entry 18.)

R72, R171: VFOLD adds the 32 slots of a partial register by the tree, then adds the seed, and gives the result to
xd; under VL = 0 it gives the seed. A point that raises an enabled flag is FPX with xd unchanged; a va that is no
partial is ILLCFG, detail 1, and under RM = 5 a floating one ILLEGAL, detail 7. -/
def Obligations.StripReductions : Prop :=
  (∀ (s : State) (h : Hart) (i : Instr) (d : VReg) (m : Bool) (checks : Checks) (leaf : Nat → Nat × Flags),
     Issues i s h → stripForm h s.tick i = some (d, m, checks, leaf) → h.stopAt = none →
     (admitted checks → (partialRounds (h.kind s.tick d) → h.rm ≠ 5) →
       (Untrapped h (reduced h s.tick d m leaf).2 →
         exec i s = .next (finished s (reduced h s.tick d m leaf).1)) ∧
       PointTraps s h i (reduced h s.tick d m leaf).2 h.vstart) ∧
     PartialRefused s h i (h.kind s.tick d) checks) ∧
  (∀ (s : State) (h : Hart) (d : XReg) (a : VReg) (b : XReg) (ca : Bool) (k : Kind) (tree : Option Nat × List Flags)
     (sum : Nat × Flags) (i : Instr) (pts : List Point),
     i = .vfold d a b ca → Issues i s h → h.stopAt = none → k = h.kind s.tick a →
     tree = treeSum (k.plus (h.vecRounding 0)) 5 ((List.range 32).map (fun i =>
       some (h.partialSlot s.tick a (k.width 64) i))) →
     sum = k.plus (h.vecRounding 0) (tree.1.getD 0) (h.getU b % 2 ^ k.width 64) →
     pts = (tree.2 ++ [sum.2]).map (fun fl => (fl, 0)) →
     (k.partialOk = true → (floats k = true → h.rm ≠ 5) →
       (h.vl = 0 → exec i s = .next (finished s (wholeX h d (h.getX b)))) ∧
       (h.vl ≠ 0 → Untrapped h pts → exec i s = .next (finished s (wholeX (pointFlags h pts) d (inX h k sum.1)))) ∧
       (h.vl ≠ 0 → PointTraps s h i pts 0)) ∧
     PartialRefused s h i k [(1, k.partialOk)])

/-- R172: the order-free reductions combine the seed with each active element; with none xd := xb. -/
def Obligations.OrderFreeReductions : Prop :=
  ∀ (s : State) (h : Hart) (i : Instr) (d : XReg) (a : VReg) (b : XReg) (m : Bool) (ok : Prop)
    (f : Nat → Nat → Nat × Flags) (k : Kind) (r : Nat × List Point),
    Issues i s h → orderFreeForm h s.tick i = some (d, a, b, m, ok, f) → h.stopAt = none → ok →
    k = h.kind s.tick a →
    r = combineAll f (h.elem s.tick k a) (activeFrom h s.tick m) (h.getU b % 2 ^ h.kw k) →
    (activeFrom h s.tick m = [] → exec i s = .next (finished s (wholeX h d (h.getX b)))) ∧
    (activeFrom h s.tick m ≠ [] → Untrapped h r.2 →
      exec i s = .next (finished s (wholeX (pointFlags h r.2) d (inX h k r.1))))

/-- R185, R186, R187, R189: the permutations run whole with every source as it stood, leave VSTART 0, and write
nothing else under VL = 0. Slots move with va's tag; VCONF, VRANK and VSELB write integers into vd's own tag;
VPUSH scatters within vd in ascending order (the last of several elements that name a position stays; a position that
none names keeps its value), gives vd va's tag, reports in M11 at the active elements what it did not deliver, and
changes nothing else; VACC accepts the positions below the
first refusal. (That VCONF admits a raw va is the model's choice, log entry 61; what acceptance is at a NaN or infinite
q, log entry 24.) -/
def Obligations.Permutations : Prop :=
  ∀ (s : State) (h : Hart) (i : Instr), Issues i s h → h.stopAt = none →
    (∀ M : Moves, movesForm h s.tick i = some M → M.ok →
      exec i s = .next (finished s (M.result h s.tick))) ∧
    (∀ (d : VReg) (ok : Prop) (vs : List (Nat × Int)), searchForm h s.tick i = some (d, ok, vs) → ok →
      exec i s = .next (finished s (integersPut h s.tick d vs))) ∧
    (∀ (d a b : VReg) (m ca cb : Bool), i = .vpush d a b m ca cb → movable h s.tick a → intTag h s.tick b →
      exec i s = .next (finished s (pushed h s.tick d a b m))) ∧
    (∀ (d : MReg) (a : VReg) (b : XReg) (ca : Bool), i = .vacc d a b ca →
      arithTag h s.tick a → arithTag h s.tick (nextReg a) →
      floats (h.kind s.tick a) = true → floats (h.kind s.tick (nextReg a)) = true →
      exec i s = .next (finished s { (List.range h.vl).foldl (fun (h' : Hart) e => h'.setMask d e
        ((List.range (e + 1)).all (fun j => accepted (element h s.tick a j).toVal
          (element h s.tick (nextReg a) j).toVal
          (.make false (rng h.rkey.toNat ((h.getU b + 2 * j) % 2 ^ 64) / 2 ^ 11) (-53))))) h with
        vstart := 0 }))

/-! ## Vector memory and lane tables -/

namespace Sys2Proof.Claims

/-- Some place in scalar data memory, which no vector access reaches (R174). -/
def inSdata : Loc → Bool
  | .sdata _ => true
  | _ => false

/-- A vector load or store of an unblocked register: which register, the address of element e, the bytes of an
element's image, the addressing's own conditions, whether a store is ordered, and whether it is one store of a
whole range (R173 to R176). -/
structure Access where
  reg : VReg
  addr : Nat → Nat
  ok : Prop
  m : Bool
  ordered : Bool
  unit : Bool

/-- xb + z × e (R174). -/
def unitAddr (h : Hart) (b : XReg) (z e : Nat) : Nat := (h.getU b + z * e) % 2 ^ 64
/-- xb + s(xs) × e. -/
def stridedAddr (h : Hart) (b xs : XReg) (e : Nat) : Nat :=
  ofInt 64 ((h.getU b : Int) + (h.getX xs).toInt * (e : Nat))
/-- xb + v(vi[e]). -/
def indexedAddr (h : Hart) (t : Nat) (b : XReg) (vi : VReg) (e : Nat) : Nat :=
  ofInt 64 ((h.getU b : Int) + intAt h t vi e)

/-- The bytes of an element's image. -/
def zOf (h : Hart) (t : Nat) (r : VReg) : Nat := (h.kw (h.kind t r) + 7) / 8

/-- The vector loads (R176). -/
def vloadForm (h : Hart) (t : Nat) : Instr → Option Access
  | .vld d b m => some ⟨d, unitAddr h b (zOf h t d), True, m, false, true⟩
  | .vldO d b m => some ⟨d, unitAddr h b (zOf h t d), True, m, true, true⟩
  | .vlds d b xs m => some ⟨d, stridedAddr h b xs, True, m, false, false⟩
  | .vldsO d b xs m => some ⟨d, stridedAddr h b xs, True, m, true, false⟩
  | .vldx d b vi m _ => some ⟨d, indexedAddr h t b vi, intTag h t vi, m, false, false⟩
  | .vldxO d b vi m _ => some ⟨d, indexedAddr h t b vi, intTag h t vi, m, true, false⟩
  | _ => none

/-- The vector stores (R176). -/
def vstoreForm (h : Hart) (t : Nat) : Instr → Option Access
  | .vst r b m _ => some ⟨r, unitAddr h b (zOf h t r), True, m, false, true⟩
  | .vstO r b m _ => some ⟨r, unitAddr h b (zOf h t r), True, m, true, true⟩
  | .vsts r b xs m _ => some ⟨r, stridedAddr h b xs, True, m, false, false⟩
  | .vstsO r b xs m _ => some ⟨r, stridedAddr h b xs, True, m, true, false⟩
  | .vstx r b vi m _ => some ⟨r, indexedAddr h t b vi, intTag h t vi, m, false, false⟩
  | .vstxO r b vi m _ => some ⟨r, indexedAddr h t b vi, intTag h t vi, m, true, false⟩
  | _ => none

/-- The context after the checks of a vector access, and where its bytes lie; none when it does not pass (R115, R174).
-/
def passed (c : Ctx) (a n : Nat) (k : AccKind) (whole : Option (Nat × Nat)) : Option (Loc × Ctx) :=
  match c.checked a n k whole with
  | .error _ => none
  | .ok (loc, c) => if inSdata loc then none else some (loc, c)

/-- The same of a store, with the check of what it is to write (R380, R403). -/
def passedStore (c : Ctx) (a n : Nat) (whole : Option (Nat × Nat)) (v : Nat) : Option (Loc × Ctx) :=
  match c.checkedStore a n .store whole (fun _ _ => v) with
  | .error _ => none
  | .ok (loc, c) => if inSdata loc then none else some (loc, c)

/-- Load the elements of a list in order, each access after its checks (R115); none when one does not pass. -/
def loadAll (t : Nat) (k : Kind) (A : Access) (z : Nat) : List Nat → Ctx → Option Ctx
  | [], c => some c
  | e :: es, c => (passed c (A.addr e) z .load none).bind (fun p =>
      loadAll t k A z es { p.2 with h := p.2.h.setElem t k A.reg e (p.2.readLoc p.1 z) })

/-- A byte of element e and one of element e' have one address, or one place. -/
def sharesByte (c : Ctx) (A : Access) (z e e' : Nat) : Bool :=
  (List.range z).any (fun i => (List.range z).any (fun j =>
    (A.addr e + i) % 2 ^ 64 == (A.addr e' + j) % 2 ^ 64 ||
      ((c.bytePlace (A.addr e + i)).isSome && c.bytePlace (A.addr e + i) == c.bytePlace (A.addr e' + j))))

/-- Store the elements of a list in order, each access after its checks; `whole` is the range that one store
writes whole (R403). None when an access does not pass, and when an element of an unordered store shares a byte with one
already `done` (R175 says of such bytes only that they come from one of the elements). -/
def storeAll (A : Access) (z : Nat) (whole : Option (Nat × Nat)) (v : Nat → Nat) :
    (done : List Nat) → List Nat → Ctx → Option Ctx
  | _, [], c => some c
  | done, e :: es, c =>
    if !A.ordered && done.any (fun j => sharesByte c A z e j) then none
    else (passedStore c (A.addr e) z whole (v e)).bind (fun p =>
      storeAll A z whole v (done ++ [e]) es (p.2.putLoc p.1 (A.addr e) z (v e) whole))

/-- The range that an unpredicated unit store writes, from element VSTART on (R176, R319). -/
def wholeRange (h : Hart) (A : Access) (z : Nat) (base : Nat) : Option (Nat × Nat) :=
  if A.unit && !A.m then some (base + z * h.vstart, base + z * h.vl) else none

/-! ### Blocked registers (R58, R177) -/

/-- The first n words of a block's image, each after its checks. -/
def imageAt (at_ : Nat) : Nat → Ctx → Option (List Nat × Ctx)
  | 0, c => some ([], c)
  | n + 1, c => (imageAt at_ n c).bind (fun r => (passed r.2 ((at_ + 4 * n) % 2 ^ 64) 4 .load none).bind (fun p =>
      some (r.1 ++ [p.2.readLoc p.1 4], p.2)))

/-- Element e of the blocked register r, for each e that `on` picks of block b: bit j is bit e mod 32 of word j of the
image, and 0 above the image (R58). -/
def putBlock (h : Hart) (t : Nat) (r : VReg) (b : Nat) (on : Nat → Bool) (image : List Nat) : Hart :=
  (List.range 16).foldl (fun (h : Hart) j =>
    ((fromTo (32 * b) (32 * b + 32)).filter on).foldl (fun (h : Hart) e =>
      h.writeSpot t r (blockBit h.laneCount e j) 1 (if ((image[j]?).getD 0).testBit (e % 32) then 1 else 0)) h) h

/-- Load the blocks of a list in order. -/
def loadBlocks (t : Nat) (r : VReg) (w base : Nat) (on : Nat → Bool) : List Nat → Ctx → Option Ctx
  | [], c => some c
  | b :: bs, c => (imageAt (base + 4 * w * b) w c).bind (fun p =>
      loadBlocks t r w base on bs { p.2 with h := putBlock p.2.h t r b on p.1 })

/-- Every word of a block passes its checks. -/
def wordsPass (at_ : Nat) (whole : Nat × Nat) : Nat → Ctx → Option Ctx
  | 0, c => some c
  | n + 1, c => (wordsPass at_ whole n c).bind (fun c =>
      (passed c ((at_ + 4 * n) % 2 ^ 64) 4 .store (some whole)).map (·.2))

/-- Store planes 0 to n − 1 of block b of a register. -/
def planesAt (h : Hart) (t : Nat) (r : VReg) (b at_ : Nat) (whole : Nat × Nat) : Nat → Ctx → Option Ctx
  | 0, c => some c
  | n + 1, c => (planesAt h t r b at_ whole n c).bind (fun c =>
      let v := h.readSpot t r (blockBit h.laneCount (32 * b) n) 32
      (passedStore c ((at_ + 4 * n) % 2 ^ 64) 4 (some whole) v).bind (fun p =>
        some (p.2.putLoc p.1 ((at_ + 4 * n) % 2 ^ 64) 4 v (some whole))))

/-- Store the blocks of a list in order, each after all its words have passed their checks. -/
def storeBlocks (h : Hart) (t : Nat) (r : VReg) (w base : Nat) (m : Bool) : List Nat → Ctx → Option Ctx
  | [], c => some c
  | b :: bs, c =>
    let at_ := base + 4 * w * b
    let whole := if m then (at_, at_ + 4 * w) else (base + 4 * w * (h.vstart / 32), base + w * h.vl / 8)
    (wordsPass at_ whole w c).bind (fun c => (planesAt h t r b at_ whole w c).bind (storeBlocks h t r w base m bs))

/-- The blocks in which an active element lies from VSTART on. -/
def blocksFrom (h : Hart) (t : Nat) (m : Bool) : List Nat :=
  (fromTo (h.vstart / 32) (h.vl / 32)).filter (fun b =>
    (fromTo (max (32 * b) h.vstart) (32 * b + 32)).any (h.active t m))

/-- The offset of element e in its lane's slice (R179). -/
def laneOffset (h : Hart) (t : Nat) (a : VReg) (b : XReg) (e : Nat) : Int := intAt h t a e + (h.getX b).toInt

/-- The tags of a lane-table access (R179). -/
def laneTags (h : Hart) (t : Nat) (r a : VReg) : Prop :=
  bitsTag h t r ∧ h.blocked (h.kind t r) = false ∧ intTag h t a

/-- The offset of element e lies in the slice and is aligned. -/
def laneOk (o : Int) (z : Nat) : Prop := 0 ≤ o ∧ o + (z : Nat) ≤ 4096 ∧ o % (z : Nat) = 0

/-- The trap of an offset that is not in the slice, or not aligned (R179, R288). -/
def laneFault (o : Int) (z e : Nat) : Trap :=
  { Trap.plain (if o < 0 ∨ 4096 < o + (z : Nat) then causeLtbound else causeMisalign) 0 with
    addr := BitVec.ofInt 64 o
    elem := e
    idx := some e }

/-- Load a sparse tile's elements: at a set bit of the bitmap the next packed value, else zero (R182); `val` is what
element e takes for a value. -/
def sparseAll (t : Nat) (d : VReg) (k : Kind) (z vbase : Nat) (bits : List Bool) (val : Nat → Nat → Nat) :
    List Nat → Ctx → Option Ctx
  | [], c => some c
  | e :: es, c =>
    if (bits[e]?).getD false then
      (passed c ((vbase + z * ((bits.take e).filter id).length) % 2 ^ 64) z .load none).bind (fun p =>
        sparseAll t d k z vbase bits val es { p.2 with h := p.2.h.setElem t k d e (val e (p.2.readLoc p.1 z)) })
    else sparseAll t d k z vbase bits val es { c with h := c.h.setElem t k d e (val e 0) }

/-- A trap before any element of a sparse load, at the resume index VSTART (R183). -/
def tileTrap (h : Hart) (cause detail addr elem : Nat) : Trap :=
  { Trap.plain cause detail with addr := BitVec.ofNat 64 addr, elem := elem, idx := some h.vstart }

/-- A sparse load's hart that a trap leaves incomplete at VSTART: it keeps what the load stands on, and whether that has
changed since the load was incomplete there before (R183). -/
def incomplete (c : Ctx) (h : Hart) (t base : Nat) (m held : Bool) : Ctx :=
  let now := fun broken => c.seen base held (h.active t m) h.vstart broken
  { c with h := { c.h with shapeSeen := some (now (h.shapeSeen.any (fun old => old.changed (now false)))) } }

/-- A record that detail 2 of SHAPE refuses (R181, R182). -/
def badRecord (h : Hart) (r : ShapeRec) (held : Bool) : Prop :=
  r.reserved ≠ 0 ∨ (if held then r.nval ≠ 0 else r.rcptr ≠ 0) ∨ r.brows < 1 ∨ 16 < r.brows ∨
  ¬ (r.vtag < 64 ∧ ((kindOf r.vtag).isIN = true ∨ (kindOf r.vtag).isFlt = true) ∧ (kindOf r.vtag).width h.ew ≤ h.ew)

/-- The misaligned address of a record, by the order of log entry 60. -/
def badAddress (r : ShapeRec) (held : Bool) (z : Nat) : Option Nat :=
  if r.mbase % 8 ≠ 0 then some r.mbase
  else if r.mstride % 8 ≠ 0 then some r.mstride
  else if held = true ∧ r.rcptr % 8 ≠ 0 then some r.rcptr
  else if r.vbase % z ≠ 0 then some r.vbase
  else none

/-- Hart `h` before an instruction that it completes under the conditions of its form: no stop, tags admitted, nothing
to round under RM = 5, no enabled flag raised. -/
structure Plain (h : Hart) (F : Element) : Prop where
  noStop : h.stopAt = none
  tags : F.ok
  rounding : F.rounds = true → h.rm ≠ 5
  noFlag : ∀ e : Nat, e ∈ F.among h.vstart h.vl → h.enabledFlag (F.value e).2 = none

end Sys2Proof.Claims

/-- R173 to R178, R115, R116: a vector load loads element e from a(e) for each active e from VSTART, each after its
checks, and leaves VSTART 0; a blocked register moves by images of 4w bytes a block. A fault at an element traps with
TELEM and the resume index at it, the elements below it loaded, and a place in scalar data memory is a PERM fault; an
element that must wait leaves the hart at the instruction with nothing of it done. -/
def Obligations.VectorLoads : Prop :=
  ∀ (s : State) (h : Hart) (i : Instr) (A : Access) (k : Kind),
    Issues i s h → vloadForm h s.tick i = some A → h.stopAt = none → NoTransfers h → h.vl ≠ 0 →
    k = h.kind s.tick A.reg → bitsTag h s.tick A.reg → A.ok →
    (h.blocked k = false → ∀ c : Ctx,
      loadAll s.tick k A (zOf h s.tick A.reg) (activeFrom h s.tick A.m) ⟨h, s⟩ = some c →
      exec i s = .next (settle s.cur (.done ⟨{ c.h with vstart := 0 }, c.s⟩))) ∧
    (h.blocked k = false → ∀ (es rest : List Nat) (e : Nat) (c : Ctx), activeFrom h s.tick A.m = es ++ e :: rest →
      loadAll s.tick k A (zOf h s.tick A.reg) es ⟨h, s⟩ = some c →
      (∀ (f : MemFault) (c' : Ctx), c.checked (A.addr e) (zOf h s.tick A.reg) .load none = .error (.fault f c') →
        exec i s = .next (deliverTrap s.cur c' (f.trap e (some e)))) ∧
      (∀ (a : Nat) (c' : Ctx), c.checked (A.addr e) (zOf h s.tick A.reg) .load none = .ok (.sdata a, c') →
        exec i s = .next (deliverTrap s.cur c' ((plainFault causePerm 0 (A.addr e)).trap e (some e)))) ∧
      (∀ (sent : Option (Nat × AccKind)) (c' : Ctx),
        c.checked (A.addr e) (zOf h s.tick A.reg) .load none = .error (.wait sent c') →
        ∃ d : Ctx, exec i s = .next (settle s.cur (.hold d)) ∧ Sends s h (A.addr e) .load sent d)) ∧
    (h.blocked k = true → A.unit = true → A.addr 0 % 4 = 0 → ∀ c : Ctx,
      loadBlocks s.tick A.reg (h.kw k) (A.addr 0) (fun e => decide (h.vstart ≤ e) && h.active s.tick A.m e)
        (blocksFrom h s.tick A.m) ⟨h, s⟩ = some c →
      exec i s = .next (settle s.cur (.done ⟨{ c.h with vstart := 0 }, c.s⟩)))

/-- R173 to R178, R115: a vector store stores the low bits of element e at a(e), for each active e from VSTART in
ascending order; an unordered store does so where no two of its elements share a byte. A blocked register moves by
images of 4w bytes a block, a block after all its checks. A fault at an element traps with TELEM and the resume index
at it, the elements below it stored; an element that must wait leaves the hart at the instruction with nothing of it
done. The range that it stores whole, in which a sector's lost data does not matter, begins at element VSTART. -/
def Obligations.VectorStores : Prop :=
  ∀ (s : State) (h : Hart) (i : Instr) (A : Access) (k : Kind),
    Issues i s h → vstoreForm h s.tick i = some A → h.stopAt = none → NoTransfers h → h.vl ≠ 0 →
    k = h.kind s.tick A.reg → bitsTag h s.tick A.reg → A.ok →
    ∀ (z : Nat) (whole : Option (Nat × Nat)), z = zOf h s.tick A.reg → whole = wholeRange h A z (A.addr 0) →
    (h.blocked k = false → ∀ c : Ctx,
      storeAll A z whole (h.elem s.tick k A.reg) [] (activeFrom h s.tick A.m) ⟨h, s⟩ = some c →
      exec i s = .next (settle s.cur (.done ⟨{ c.h with vstart := 0 }, c.s⟩))) ∧
    (h.blocked k = false → ∀ (es rest : List Nat) (e : Nat) (c : Ctx), activeFrom h s.tick A.m = es ++ e :: rest →
      storeAll A z whole (h.elem s.tick k A.reg) [] es ⟨h, s⟩ = some c →
      (∀ (f : MemFault) (c' : Ctx), c.h.noAck = false → c.checked (A.addr e) z .store whole = .error (.fault f c') →
        exec i s = .next (deliverTrap s.cur c' (f.trap e (some e)))) ∧
      (∀ (f : MemFault) (c' : Ctx), c.h.noAck = false → (A.ordered = true ∨ ∀ j ∈ es, sharesByte c A z e j = false) →
        c.checkedStore (A.addr e) z .store whole (fun _ _ => h.elem s.tick k A.reg e) = .error (.fault f c') →
        exec i s = .next (deliverTrap s.cur c' (f.trap e (some e)))) ∧
      (∀ (a : Nat) (c' : Ctx), c.checked (A.addr e) z .store whole = .ok (.sdata a, c') →
        exec i s = .next (deliverTrap s.cur c' ((plainFault causePerm 1 (A.addr e)).trap e (some e)))) ∧
      (∀ (sent : Option (Nat × AccKind)) (c' : Ctx), c.checked (A.addr e) z .store whole = .error (.wait sent c') →
        ∃ d : Ctx, exec i s = .next (settle s.cur (.hold d)) ∧ Sends s h (A.addr e) .store sent d)) ∧
    (h.blocked k = true → A.unit = true → A.addr 0 % 4 = 0 → ∀ c : Ctx,
      storeBlocks h s.tick A.reg (h.kw k) (A.addr 0) A.m (blocksFrom h s.tick A.m) ⟨h, s⟩ = some c →
      exec i s = .next (settle s.cur (.done ⟨{ c.h with vstart := 0 }, c.s⟩)))

/-- R116, R177, R184: under VL = 0 a vector load or store accesses nothing and leaves VSTART 0; VPREF completes with no
effect at all; a blocked register moves only by the unit mode, else ILLCFG with detail 3, and its base must be a
multiple of 4. -/
def Obligations.VectorMemoryCorners : Prop :=
  ∀ (s : State) (h : Hart) (i : Instr) (A : Access),
    Issues i s h →
    ((vloadForm h s.tick i = some A ∨ vstoreForm h s.tick i = some A) → bitsTag h s.tick A.reg → A.ok →
      (h.vl = 0 → (A.unit = true ∨ h.blocked (h.kind s.tick A.reg) = false) →
        exec i s = .next (finished s { h with vstart := 0 })) ∧
      (A.unit = false → h.blocked (h.kind s.tick A.reg) = true → h.looseTags i = [] →
        exec i s = .next (trapped s h (Trap.illcfg 3))) ∧
      (h.vl ≠ 0 → A.unit = true → h.blocked (h.kind s.tick A.reg) = true → A.addr 0 % 4 ≠ 0 →
        exec i s = .next (trapped s h { Trap.plain causeMisalign 0 with
          addr := BitVec.ofNat 64 (A.addr 0), idx := some 0 }))) ∧
    (∀ base : XReg, i = .vpref base → exec i s = .next (finished s h))

/-- R36, R38, R179, R180: VLDT and VSTT read and write the slice of the lane that holds element e, at the offset
v(va[e]) + s(xb); at the lowest element whose offset is outside the slice, or not a multiple of the image's size,
they raise LTBOUND or MISALIGN, the elements below it done.

R181 to R183: a sparse load whose record, count word and bitmap pass their checks gives vd the record's tag and,
for each active e from VSTART, the packed value of its bit or zero; where what it had read before an incomplete
execution has changed since, those elements are free values. A record at an address that is no multiple of 16 raises
MISALIGN, one outside the scratchpad PERM; a record that R181 does not admit raises SHAPE with detail 2, more rows than
the record or the shape has SHAPE with detail 1 and TELEM the rows, and a count of set bits that differs SHAPE with
detail 0 and TELEM the count, each at the record with nothing written; a count word or a bitmap byte that faults traps
at VSTART; each such trap notes what the load stands on. Under VL = 0 it does nothing but VSTART := 0.
(TELEM of detail 2, and which misaligned address comes first, are the model's, log entry 60; the free values, log
entry 7.) -/
def Obligations.SpecialLoads : Prop :=
  (∀ (s : State) (h : Hart) (r a : VReg) (b : XReg) (m ca : Bool) (z : Nat) (k : Kind),
     h.stopAt = none → k = h.kind s.tick r → z = zOf h s.tick r → laneTags h s.tick r a →
     ∀ load : List Nat → Hart, ∀ store : List Nat → Hart,
     load = (fun es => es.foldl (fun (h' : Hart) e =>
       h'.setElem s.tick k r e (h.laneRead s.tick (h.laneOf e) (laneOffset h s.tick a b e).toNat z)) h) →
     store = (fun es => es.foldl (fun (h' : Hart) e =>
       h'.laneWrite (h.laneOf e) (laneOffset h s.tick a b e).toNat z (h.elem s.tick k r e)) h) →
     ((∀ e : Nat, e ∈ activeFrom h s.tick m → laneOk (laneOffset h s.tick a b e) z) →
       (Issues (.vldt r a b m ca) s h →
         exec (.vldt r a b m ca) s = .next (finished s { load (activeFrom h s.tick m) with vstart := 0 })) ∧
       (Issues (.vstt r a b m ca) s h →
         exec (.vstt r a b m ca) s = .next (finished s { store (activeFrom h s.tick m) with vstart := 0 }))) ∧
     (∀ (es : List Nat) (e : Nat) (rest : List Nat), activeFrom h s.tick m = es ++ e :: rest →
       (∀ j : Nat, j ∈ es → laneOk (laneOffset h s.tick a b j) z) → ¬ laneOk (laneOffset h s.tick a b e) z →
       (Issues (.vldt r a b m ca) s h → exec (.vldt r a b m ca) s =
         .next (trapped s (load es) (laneFault (laneOffset h s.tick a b e) z e))) ∧
       (Issues (.vstt r a b m ca) s h → exec (.vstt r a b m ca) s =
         .next (trapped s (store es) (laneFault (laneOffset h s.tick a b e) z e))))) ∧
  (∀ (s : State) (h : Hart) (d : VReg) (b : XReg) (m held : Bool) (i : Instr) (stop : Ctx → Trap → State),
     (stop = fun c t => deliverTrap s.cur (incomplete c h s.tick (h.getU b) m held) t) →
     i = (if held then .vldsh d b m else .vldsp d b m) → Issues i s h → h.stopAt = none → h.blk = 0 →
     (h.vl = 0 → exec i s = .next (finished s { h with vstart := 0 })) ∧
     (h.vl ≠ 0 → h.getU b % 16 ≠ 0 → exec i s = .next (stop ⟨h, s⟩ { Trap.plain causeMisalign 0 with
       addr := h.getX b, elem := h.vstart, idx := some h.vstart })) ∧
     (h.vl ≠ 0 → h.getU b % 16 = 0 → h.scratchSize < h.getU b + 48 →
       exec i s = .next (stop ⟨h, s⟩ (tileTrap h causePerm 0 (max (h.getU b) h.scratchSize) h.vstart))) ∧
     (h.vl ≠ 0 → NoTransfers h → h.getU b % 16 = 0 → h.getU b + 48 ≤ h.scratchSize →
       ∀ r : ShapeRec, r = shapeOf (h.scratch.readLe s.tick (h.getU b) 48) →
       (badRecord h r held → exec i s = .next (stop ⟨h, s⟩ (tileTrap h causeShape 2 (h.getU b) 0))) ∧
       (¬ badRecord h r held →
         (∀ a : Nat, badAddress r held (((kindOf r.vtag).width h.ew + 7) / 8) = some a →
           exec i s = .next (stop ⟨h, s⟩ (tileTrap h causeMisalign 0 a h.vstart))) ∧
         (badAddress r held (((kindOf r.vtag).width h.ew + 7) / 8) = none →
           (held = true → ∀ (f : MemFault) (c : Ctx), Ctx.vload ⟨h, s⟩ r.rcptr 8 = .error (.fault f c) →
             exec i s = .next (stop c (f.trap h.vstart (some h.vstart)))) ∧
           ∀ (rows count : Nat) (c : Ctx),
             (if held then Ctx.vload ⟨h, s⟩ r.rcptr 8 = .ok (rows + 2 ^ 32 * count, c) ∧ rows < 2 ^ 32
               else c = ⟨h, s⟩ ∧ rows = r.brows ∧ count = r.nval) →
             (r.brows < rows ∨ h.vrows < rows →
               exec i s = .next (stop c (tileTrap h causeShape 1 (h.getU b) rows))) ∧
             (rows ≤ r.brows → rows ≤ h.vrows → ∀ (f : MemFault) (c' : Ctx),
               c.bitmapRows r h.vcols rows = .error (.fault f c') →
               exec i s = .next (stop c' (f.trap h.vstart (some h.vstart)))) ∧
             (rows ≤ r.brows → rows ≤ h.vrows → ∀ (bits : List Bool) (c' : Ctx),
               c.bitmapRows r h.vcols rows = .ok (bits, c') →
               ((bits.filter id).length ≠ count → exec i s =
                 .next (stop c' (tileTrap h causeShape 0 (h.getU b) (bits.filter id).length))) ∧
               ((bits.filter id).length = count → ∀ (k : Kind) (z : Nat) (val : Nat → Nat → Nat) (e' : Ctx),
                 k = kindOf r.vtag → z = (k.width h.ew + 7) / 8 →
                 val = (fun e v => if h.shapeSeen.any (fun old =>
                     old.changed (c'.seen (h.getU b) held (h.active s.tick m) h.vstart false)) = true
                   then (Config.undefWord s.tick (2000000 + e)).toNat else v) →
                 sparseAll s.tick d k z r.vbase bits val (activeFrom h s.tick m)
                   { c' with h := c'.h.setTag d r.vtag } = some e' →
                 exec i s = .next (settle s.cur (.done
                   ⟨{ e'.h with vstart := 0, shapeSeen := none }, e'.s⟩))))))))

/-- R34, R42, R116, R24: what the register-only vector instructions leave alone. Whatever such an instruction comes to,
no byte of memory changes, nor a poisoned sector, nor a translation. When it completes, outside a replay, nothing of
the machine changes but its hart, and of the hart nothing but the destinations' vector registers and masks, the flag
bits of FPCSR, VSTART (0), the PC and the prefix: every X register, scratchpad byte, operator slot, lane-table byte,
matrix row and special register is as before. -/
def Obligations.VectorRegisterFrame : Prop :=
  ∀ (s : State) (h : Hart) (i : Instr) (F : Element),
    Issues i s h →
    (arithForm h s.tick i = some F ∨ signForm h s.tick i = some F ∨ bitsForm h s.tick i = some F ∨
      scalarForm h s.tick i = some F ∨ wideForm h s.tick i = some F ∨ maskForm h s.tick i = some F ∨
      randomForm h s.tick i = some F) →
    (∀ t : State, exec i s = .next t → t.mem = s.mem ∧ t.poison = s.poison ∧ t.tlb = s.tlb ∧
      ∀ tick a : Nat, t.mem.read tick a = s.mem.read tick a) ∧
    (Plain h F → h.replay = none → ∃ h' : Hart, exec i s = .next (s.setHart s.cur h') ∧
      h' = { issuedHart h with v := h'.v, m := h'.m, fpcsr := h'.fpcsr, vstart := 0, pc := h.pc + 4 } ∧
      (∀ r : VReg, r ∉ F.vs → h'.v[r] = h.v[r]) ∧ (∀ r : MReg, r ∉ F.ms → h'.m[r] = h.m[r]) ∧
      h'.fpcsr.toNat / 32 = h.fpcsr.toNat / 32)

/-- R125 to R129: what the integer and the floating instructions leave alone, outside a replay: nothing of the machine
changes but their hart, and of the hart nothing but xd, the PC, the prefix and, of a floating instruction, the flag bits
of FPCSR: no byte of memory, no vector element, no mask and no special register is written. -/
def Obligations.ScalarRegisterFrame : Prop :=
  ∀ (s : State) (h : Hart) (i : Instr) (d : XReg) (w : Word) (q : Nat × Flags),
    Issues i s h → h.stopAt = none → h.replay = none →
    (intResult h i = some (d, w) ∨ (fpResult h i = some (d, q) ∧ h.enabledFlag q.2 = none)) →
    ∃ h' : Hart, exec i s = .next (s.setHart s.cur h') ∧
      h' = { issuedHart h with x := h'.x, fpcsr := h'.fpcsr, pc := h.pc + 4 } ∧
      (∀ r : XReg, r ≠ d → h'.getX r = h.getX r) ∧ (intResult h i = some (d, w) → h'.fpcsr = h.fpcsr) ∧
      h'.fpcsr.toNat / 32 = h.fpcsr.toNat / 32

/-! ## The shaft -/

namespace Sys2Proof.Claims

/-- A floating tag of F16, BF16, F32 or F64. -/
def wideFloat (k : Kind) : Bool := k = .flt fmtF16 || k = .flt fmtBF16 || k = .flt fmtF32 || k = .flt fmtF64
/-- An I or N tag, or one of those. -/
def plainTag (k : Kind) : Bool := k.isIN || wideFloat k
/-- Any unreserved tag that is not sliced. -/
def anyTag (k : Kind) : Bool := !(k = .reserved) && !k.isSliced

/-- The tags that R194 admits for a kind. -/
def opTags (w : Nat) : Bool :=
  let v := kindOf (fld w 4 6)
  let c := kindOf (fld w 10 6)
  match fld w 0 4 with
  | 0 => (v.isIN || v.isFlt) && c.isIN
  | 1 => plainTag v && fld w 4 6 == fld w 10 6
  | 4 => plainTag v && fld w 4 6 == fld w 10 6
  | 2 => wideFloat v && anyTag c
  | 3 => anyTag v && anyTag c
  | _ => plainTag v && plainTag c

/-- A CUSTOM expression names source 14 or 15. -/
def exprState (x : Nat) : Bool := 14 ≤ fld x 4 4 || 14 ≤ fld x 0 4
/-- A CUSTOM expression with a reserved code, or with B not zero under pass. -/
def exprBad (x : Nat) : Bool :=
  7 ≤ fld x 8 4 || 6 ≤ fld x 4 4 || 6 ≤ fld x 0 4 || (fld x 8 4 == 0 && fld x 0 4 != 0)

/-- The status of OPLOAD: the first check of R195 that fails. -/
def loadStatus (w : Nat) : Nat :=
  let kind := fld w 0 4
  let lower := fld w 24 12
  let upper := fld w 36 12
  if kind ≠ 0 ∧ kind ≠ 1 ∧ kind ≠ 2 ∧ kind ≠ 3 ∧ kind ≠ 4 ∧ kind ≠ 8 then 1
  else if opTags w = false then 2
  else if fld w 56 8 ≠ 0 ∨ (kind = 8 ∧ (exprState lower || exprState upper) = true) then 3
  else if fld w 48 8 ≠ 0 ∨ fld w 18 6 ≠ 0 ∨ (kind ≠ 0 ∧ fld w 16 2 ≠ 0) ∨
      (kind = 8 ∧ (exprBad lower || exprBad upper) = true) ∨ (kind ≠ 8 ∧ (lower ≠ 0 ∨ upper ≠ 0)) then 4
  else 0

/-- A pass at work: the machine's free values, the value and the companion register, the descriptor. -/
structure PassOf where
  t : Nat
  v : VReg
  c : VReg
  w : Nat

/-- A node: its pair, its constant bit and its constant value. -/
structure PassNode where
  lo : Nat
  hi : Nat
  kb : Bool
  k : Num

/-- Value a ranks above value b: −0 below +0, NaN above +∞, all NaNs equal (R197). -/
def ranksAbove (a b : Val) : Bool := !b.isNan && (a.isNan || decide (0 < a.rank b))

/-- CMPX swaps the node's pairs (R197). -/
def orders (P : PassOf) (h : Hart) (n : PassNode) : Bool :=
  let lo := (element h P.t P.v n.lo).toVal
  let hi := (element h P.t P.v n.hi).toVal
  let cl := intAt h P.t P.c n.lo
  let ch := intAt h P.t P.c n.hi
  let down := bitAt P.w 17 != n.kb
  let equal := !ranksAbove lo hi && !ranksAbove hi lo
  (if down then ranksAbove hi lo else ranksAbove lo hi) ||
    (bitAt P.w 16 && equal && (if down then decide (cl < ch) else decide (ch < cl)))

/-- The pairs (lo.v, lo.c) and (hi.v, hi.c) swapped, bits unchanged. -/
def swapped (P : PassOf) (h : Hart) (n : PassNode) (h' : Hart) : Hart :=
  let kv := h.kind P.t P.v
  let kc := h.kind P.t P.c
  (((h'.setElem P.t kv P.v n.lo (h.elem P.t kv P.v n.hi)).setElem P.t kv P.v n.hi (h.elem P.t kv P.v n.lo)
    ).setElem P.t kc P.c n.lo (h.elem P.t kc P.c n.hi)).setElem P.t kc P.c n.hi (h.elem P.t kc P.c n.lo)

/-- A source of a CUSTOM expression. -/
def customSource (P : PassOf) (h : Hart) (n : PassNode) : Nat → Num
  | 0 => element h P.t P.v n.lo
  | 1 => element h P.t P.v n.hi
  | 2 => element h P.t P.c n.lo
  | 3 => element h P.t P.c n.hi
  | 4 => n.k
  | _ => .int 0

/-- The exact value of a CUSTOM expression. -/
def customValue (P : PassOf) (h : Hart) (n : PassNode) (x : Nat) : Num × Flags :=
  let a := customSource P h n (fld x 4 4)
  let b := customSource P h n (fld x 0 4)
  match fld x 8 4 with
  | 0 => (a, 0)
  | 1 => op2 (· + ·) (Val.add h.rm) a b
  | 2 => op2 (· - ·) (Val.sub h.rm) a b
  | 3 => op2 (· * ·) Val.mul a b
  | 4 => op2 smaller Val.minimum a b
  | 5 => op2 larger Val.maximum a b
  | _ => (if n.kb then a else b, 0)

/-- What a node does, everything read from the hart before the stage: its flags, and the hart with its writes
(R197 to R201). A result is rounded as the element that takes it, the lower one where two take it (R64). -/
def nodeOf (P : PassOf) (h : Hart) (n : PassNode) : Flags × (Hart → Hart) :=
  let kv := h.kind P.t P.v
  let kc := h.kind P.t P.c
  let rd := h.vecRounding n.lo
  let rdHi := h.vecRounding n.hi
  let sum := fun (k : Kind) (r : Rounding) (a b : Num) => roundedInto k r (op2 (· + ·) (Val.add h.rm) a b)
  let v := element h P.t P.v
  let c := element h P.t P.c
  match fld P.w 0 4 with
  | 0 => (0, fun h' => if orders P h n then swapped P h n h' else h')
  | 1 =>
    let x := sum kv rdHi (v n.hi) (c n.lo)
    let y := sum kc rd (c n.lo) (c n.hi)
    (x.2 ||| y.2, fun h' =>
      ((h'.setElem P.t kv P.v n.hi x.1).setElem P.t kc P.c n.lo y.1).setElem P.t kc P.c n.hi y.1)
  | 2 =>
    let a := roundedInto kv rd (.real (n.k.toVal.fma h.rm (v n.hi).toVal (v n.lo).toVal).1,
      (n.k.toVal.fma h.rm (v n.hi).toVal (v n.lo).toVal).2)
    let b := roundedInto kv rdHi (.real (n.k.toVal.negate.fma h.rm (v n.hi).toVal (v n.lo).toVal).1,
      (n.k.toVal.negate.fma h.rm (v n.hi).toVal (v n.lo).toVal).2)
    (a.2 ||| b.2, fun h' => (h'.setElem P.t kv P.v n.lo a.1).setElem P.t kv P.v n.hi b.1)
  | 3 => (0, fun h' => if n.kb then swapped P h n h' else h')
  | 4 =>
    let fv := h.mask P.t 11 n.hi
    let lfc := h.mask P.t 10 n.lo
    let hfc := h.mask P.t 10 n.hi
    let x := if fv then (0, 0) else sum kv rdHi (v n.hi) (c n.lo)
    let y := if hfc then (h.elem P.t kc P.c n.hi, 0) else sum kc rd (c n.lo) (c n.hi)
    (x.2 ||| y.2, fun h' =>
      let h' := if fv then h' else h'.setElem P.t kv P.v n.hi x.1
      let h' := h'.setMask 11 n.hi (fv || lfc)
      (((h'.setElem P.t kc P.c n.lo y.1).setElem P.t kc P.c n.hi y.1).setMask 10 n.lo (lfc || hfc)
        ).setMask 10 n.hi (lfc || hfc))
  | _ =>
    let a := roundedInto kv rd (customValue P h n (fld P.w 24 12))
    let b := roundedInto kv rdHi (customValue P h n (fld P.w 36 12))
    (a.2 ||| b.2, fun h' => (h'.setElem P.t kv P.v n.lo a.1).setElem P.t kv P.v n.hi b.1)

/-- The nodes of stage s: (lo, lo + 2^s) with bit s of lo clear and both below VL (R204). -/
def nodesOf (vl s : Nat) (kb : Nat → Bool) (k : Nat → Num) : List PassNode :=
  ((List.range vl).filter (fun lo => !bitAt lo s && decide (lo + 2 ^ s < vl))).map (fun lo =>
    ⟨lo, lo + 2 ^ s, kb lo, k lo⟩)

/-- The hart after a stage: its flags ORed, its nodes written; none when a node raises an enabled flag. -/
def stageOf (P : PassOf) (kb : Nat → Bool) (k : Nat → Num) (s : Nat) (h : Hart) : Option Hart :=
  let ns := nodesOf h.vl s kb k
  if ns.any (fun n => (h.enabledFlag (nodeOf P h n).1).isSome) then none
  else
    some (ns.foldl (fun h' n => (nodeOf P h n).2 h') (ns.foldl (fun h' n => h'.orFlags (nodeOf P h n).1) h))

/-- The hart after stages in order, none of which raises an enabled flag. -/
def stagesOf (P : PassOf) (kb : Nat → Bool) (k : Nat → Num) : List Nat → Hart → Option Hart
  | [], h => some h
  | s :: rest, h => (stageOf P kb k s h).bind (stagesOf P kb k rest)

/-- A pass: its registers and slot, its stages, and its constants as they stand at issue (R202, R203). -/
structure PassForm where
  d : VReg
  c : VReg
  slot : Slot
  stages : List Nat
  kb : Nat → Bool
  k : Nat → Num
  /-- What PASSK asks of the count of PSEQ. -/
  count : Prop
  /-- What it asks of Vk under a descriptor. -/
  asks : Nat → Checks

/-- The operator reads the constant k (R203). -/
def readsK (w : Nat) : Bool :=
  fld w 0 4 = 2 || (fld w 0 4 = 8 &&
    (fld w 28 4 = 4 || fld w 24 4 = 4 || fld w 40 4 = 4 || fld w 36 4 = 4))

/-- PASS and PASSK. -/
def passForm (h : Hart) (t : Nat) : Instr → Option PassForm
  | .pass d c slot first cnt desc ksrc =>
    let kb := fun (lo : Nat) => match ksrc with
      | .none => false
      | .bit => bitAt lo (first.val + 1)
      | .all => true
    some ⟨d, c, slot, (List.range (cnt.toNat + 1)).map (fun p => if desc then first.val - p else first.val + p),
      kb, fun lo => .int (if kb lo then -1 else 1), True, fun _ => []⟩
  | .passk d c vk slot =>
    some ⟨d, c, slot,
      (List.range (fld h.pseq.toNat 32 4)).map (fun p => fld h.pseq.toNat (4 * p) 4),
      fun lo => bitAt (h.elem t (h.kind t vk) vk lo) 0, element h t vk,
      1 ≤ fld h.pseq.toNat 32 4 ∧ fld h.pseq.toNat 32 4 ≤ 8,
      fun w => rawUse h t vk ++ [(1, !readsK w || (h.kind t vk).isIN || floats (h.kind t vk))]⟩
  | _ => none

/-- What a pass asks of its registers under a descriptor (R203, R205). -/
def passChecks (h : Hart) (t : Nat) (F : PassForm) (w : Nat) : Checks :=
  [(1, h.tag t F.d == fld w 4 6), (1, h.tag t F.c == fld w 10 6)] ++ rawUse h t F.d ++ rawUse h t F.c ++ F.asks w

/-- The operator rounds into a floating tag (R410). -/
def passRounds (w : Nat) : Prop :=
  (fld w 0 4 = 1 ∨ fld w 0 4 = 2 ∨ fld w 0 4 = 4 ∨ fld w 0 4 = 8) ∧
  (floats (kindOf (fld w 4 6)) || floats (kindOf (fld w 10 6))) = true

/-- Where a pass starts (R207): at NEXT when PASSST is valid and is of this pass. -/
def passFrom (h : Hart) (slot : Slot) : Nat :=
  let w := h.passst.toNat
  if bitAt w 8 = true ∧ fld w 16 32 = fld h.pc.toNat 2 32 ∧ fld w 0 4 = slot.val then fld w 4 4 else 0

/-- PASSST while stage position `next` is the next to run. -/
def passMark (h : Hart) (slot : Slot) (next : Nat) : Word :=
  BitVec.ofNat 64 (slot.val + 16 * next + 256 + 65536 * fld h.pc.toNat 2 32)

/-- VMERGEK ranks pair a before pair b (R208): value descending, +0 above −0, then companion ascending. -/
def mergesBefore (a b : Val × Int × Nat × Nat) : Bool :=
  decide (0 < a.1.rank b.1) || (a.1.rank b.1 == 0 && decide (a.2.1 < b.2.1))

/-- The lowest value of a tag: −∞ where it has one, else the most negative finite value or integer. -/
def lowestBits : Kind → Nat
  | .flt f => 2 ^ (f.width - 1) + f.maxCode + (if f.hasInf then 1 else 0)
  | .int true w => 2 ^ (w - 1)
  | _ => 0

/-- The hart after VMERGEK with k = n: positions 0 to min(n, VL) − 1 take the first pairs in rank order, then
the empty pair. -/
def merged (h : Hart) (t : Nat) (d c : VReg) (m : Bool) (n : Nat) : Hart :=
  let kd := h.kind t d
  let kc := h.kind t c
  let pairs := ((activeBelow h t m).filter (fun e => !(element h t d e).toVal.isNan)).map (fun e =>
    ((element h t d e).toVal, intAt h t c e, h.elem t kd d e, h.elem t kc c e))
  let ranked := sortBy mergesBefore pairs
  (List.range (min n h.vl)).foldl (fun (h' : Hart) i =>
    let p := (ranked[i]?).map (fun q => (q.2.2.1, q.2.2.2))
    (h'.setElem t kd d i (p.getD (lowestBits kd, 0)).1).setElem t kc c i
      (p.getD (0, 2 ^ h.kw kc - 1)).2) h

end Sys2Proof.Claims

/-- R191, R197 to R207, R410: a pass over an empty slot raises NOOP; a PASSK whose PSEQ counts 0 stages or more than 8
raises ILLEGAL, detail 5; one that rounds into a floating tag under RM = 5 raises ILLEGAL, detail 7; tags that are not
the descriptor's, wider than EW, scaled or blocked, and a Vk that the operator cannot read, raise ILLCFG. One whose
tags are admitted runs its stages from the position that PASSST gives, every node of a stage from the values before
the stage, then leaves PASSST and VSTART 0; under VL = 0 it leaves only VSTART 0. At the first stage with a node that
raises an enabled flag it raises FPX, detail and TELEM from the lowest such node, PASSST at that stage, the stages
before it written and its flags set. A hard stop falls between two stages, or before the first that is left, with
PASSST as it was. (That the resume index of FPX and of a stop inside a pass is 0 is the model's choice, log entry 25;
so is the integer tag of PASS's constant and of source 5, log entry 63, and which detail an ILLCFG has where R288 does
not say, log entry 18.) -/
def Obligations.OperatorPasses : Prop :=
  ∀ (s : State) (h : Hart) (i : Instr) (F : PassForm),
    Issues i s h → passForm h s.tick i = some F →
    (h.op[F.slot] = none → exec i s = .next (trapped s h (Trap.plain causeNoop 0))) ∧
    (∀ w : Word, h.op[F.slot] = some w →
      (¬ F.count → exec i s = .next (trapped s h (Trap.illegal 5))) ∧
      (F.count → h.looseTags i = [] →
        (passRounds w.toNat → h.rm = 5 → exec i s = .next (trapped s h (Trap.illegal 7))) ∧
        ((passRounds w.toNat → h.rm ≠ 5) → ∀ n : Nat, refusedFor (passChecks h s.tick F w.toNat) n →
          exec i s = .next (trapped s h (Trap.illcfg n))))) ∧
    (∀ (w : Word) (P : PassOf), h.op[F.slot] = some w → P = ⟨s.tick, F.d, F.c, w.toNat⟩ → F.count →
      admitted (passChecks h s.tick F w.toNat) → (passRounds w.toNat → h.rm ≠ 5) →
      (h.vl = 0 → exec i s = .next (finished s { h with vstart := 0 })) ∧
      (h.vl ≠ 0 → h.stopAt = none → ∀ h' : Hart,
        stagesOf P F.kb F.k (F.stages.drop (passFrom h F.slot)) h = some h' →
        exec i s = .next (finished s { h' with passst := 0, vstart := 0 })) ∧
      (h.vl ≠ 0 → h.stopAt = none → ∀ (done : List Nat) (st : Nat) (rest : List Nat) (h' : Hart) (n : PassNode)
          (ns ns' : List PassNode) (flag : Nat),
        F.stages.drop (passFrom h F.slot) = done ++ st :: rest → stagesOf P F.kb F.k done h = some h' →
        nodesOf h'.vl st F.kb F.k = ns ++ n :: ns' →
        (∀ q : PassNode, q ∈ ns → h'.enabledFlag (nodeOf P h' q).1 = none) →
        h'.enabledFlag (nodeOf P h' n).1 = some flag →
        exec i s = .next (trapped s
          { (nodesOf h'.vl st F.kb F.k).foldl (fun (a : Hart) q => a.orFlags (nodeOf P h' q).1) h' with
            passst := passMark h F.slot (passFrom h F.slot + done.length) }
          (Trap.fpx flag n.lo (some 0)))) ∧
      (h.vl ≠ 0 → ∀ (lim : Nat) (h' : Hart), h.stopAt = some lim → passFrom h F.slot < lim →
        lim < F.stages.length →
        stagesOf P F.kb F.k ((F.stages.drop (passFrom h F.slot)).take (lim - passFrom h F.slot)) h = some h' →
        exec i s = .next (settle s.cur (.stop ⟨{ h' with passst := passMark h F.slot lim }, s⟩ 0))) ∧
      (h.vl ≠ 0 → ∀ lim : Nat, h.stopAt = some lim → lim ≤ passFrom h F.slot → passFrom h F.slot < F.stages.length →
        exec i s = .next (settle s.cur (.stop ⟨h, s⟩ 0))))

/-- R191 to R196: OPLOAD writes its status to xd and the descriptor to the slot only under status 0; OPQRY reads the
slot, 0 when it is empty; OPCLR empties it.

R208: VMERGEK leaves the best k pairs in rank order and the empty pair in the rest of the first min(k, VL)
positions, and VSTART 0; k outside 1 to 64 raises ILLEGAL, detail 5. -/
def Obligations.OperatorSlots : Prop :=
  (∀ (s : State) (h : Hart) (slot : Slot),
     (∀ d a : XReg, Issues (.opload d a slot) s h →
       (loadStatus (h.getU a) = 0 → exec (.opload d a slot) s = .next (finished s
         ({ h with op := h.op.set slot (some (h.getX a)) }.setX d 0))) ∧
       (loadStatus (h.getU a) ≠ 0 → exec (.opload d a slot) s = .next (finished s
         (h.setX d (BitVec.ofNat 64 (loadStatus (h.getU a))))))) ∧
     (∀ d : XReg, Issues (.opqry d slot) s h →
       exec (.opqry d slot) s = .next (finished s (h.setX d (match h.op[slot] with
         | some w => w
         | none => 0)))) ∧
     (Issues (.opclr slot) s h →
       exec (.opclr slot) s = .next (finished s { h with op := h.op.set slot none }))) ∧
  (∀ (s : State) (h : Hart) (d c : VReg) (k : XReg) (m ca : Bool), Issues (.vmergek d c k m ca) s h →
     ((h.getU k < 1 ∨ 64 < h.getU k) → exec (.vmergek d c k m ca) s = .next (trapped s h (Trap.illegal 5))) ∧
     (1 ≤ h.getU k → h.getU k ≤ 64 → h.stopAt = none → arithTag h s.tick d → intTag h s.tick c →
       ((h.kind s.tick d).isIN = true ∨ (h.kind s.tick d).isFlt = true) →
       exec (.vmergek d c k m ca) s = .next (finished s { merged h s.tick d c m (h.getU k) with vstart := 0 })))

/-! ## The matrix unit -/

namespace Sys2Proof.Claims

/-- The matrix instructions that need an attached hart, with the row they name (R210). -/
def matrixForm : Instr → Option (Option XReg)
  | .mzro _ _ => some none
  | .masy _ _ => some none
  | .mopa _ _ _ _ _ _ => some none
  | .mops _ _ _ _ _ _ _ _ => some none
  | .mdrn _ _ _ => some none
  | .mrd _ _ r => some (some r)
  | .mwr _ _ r => some (some r)
  | .maget _ _ _ r => some (some r)
  | .mthr _ _ r => some (some r)
  | .masv _ _ _ r _ _ _ => some (some r)
  | _ => none

/-- Rows of type F32 with undefined contents (R211, R213). -/
def rawRows : BinRows := ⟨.f32, 0, .undefined, []⟩

/-- The rows that a hart's request for n gets (R211, R355): what no other hart of the quad holds or has reserved, in
sixteens. -/
def rowsFor (s : State) (h : Hart) (n : Nat) : Nat :=
  min n (128 - total (((s.claims (fun j o => j != s.cur && o.placed)).filter (fun c => c.core / 4 == h.core / 4)).map
    (·.rows))) / 16 * 16

/-- The bins after MZRO (R213): the rows zeroed; for an F64 pair both bins; a bin that leaves a pair makes the
other one F32 with undefined contents. -/
def zeroed (h : Hart) (bin : Bin) (typ : ZeroTyp) (b : Bin) : BinRows :=
  let zero := fun (t : RowType) => (⟨t, 0, .const 0, []⟩ : BinRows)
  match typ with
  | .f64 => if b = bin ∨ b = otherBin bin then zero .f64 else h.bins[b]
  | .f32 => if b = bin then zero .f32
      else if b = otherBin bin ∧ h.bins[bin].typ = .f64 then rawRows else h.bins[b]
  | .i32 => if b = bin then zero .i32
      else if b = otherBin bin ∧ h.bins[bin].typ = .f64 then rawRows else h.bins[b]

/-- The list type of MASY (R221). -/
def listType : RowType → Option RowType
  | .f32 => some .assayF32
  | .assayF32 => some .assayF32
  | .i32 => some .assayI32
  | .assayI32 => some .assayI32
  | .f64 => none

/-- A plain row of a type, through the bin named: F32, I32, or an F64 pair through its even bin (R220). -/
def plainType (h : Hart) (bin : Bin) : Prop :=
  h.bins[bin].typ = .f32 ∨ h.bins[bin].typ = .i32 ∨ (h.bins[bin].typ = .f64 ∧ bin.val % 2 = 0)

/-- The kind of the cells of a row. -/
def cellKind : RowType → Kind
  | .f32 => .flt fmtF32
  | .f64 => .flt fmtF64
  | .assayF32 => .flt fmtF32
  | .i32 => .int true 32
  | .assayI32 => .int true 32

/-- The value of cell (i, j). -/
def cellValue (h : Hart) (t : Nat) (bin : Bin) (i j : Nat) : Num :=
  let k := cellKind h.bins[bin].typ
  if k.isInt then .int (k.intVal (h.cell t bin i j)) else .real (k.value (h.cell t bin i j))

/-- The results of MRD or MWR, column by column, and the hart after the writes of those in `js`. -/
structure Columns where
  kind : Kind
  value : Nat → Num
  put : Hart → Nat → Nat → Hart

/-- Column j: rounded, with its flags. -/
def Columns.result (C : Columns) (h : Hart) (j : Nat) : Nat × Flags :=
  roundedInto C.kind (h.vecRounding j) (C.value j, 0)

/-- MRD and MWR: which row, the columns, and the tags that R220 admits. -/
def columnsForm (h : Hart) (t : Nat) : Instr → Option (XReg × Columns × Prop)
  | .mrd d bin r => some (r,
      ⟨h.kind t d, cellValue h t bin (h.getU r), fun h' j v => h'.setElem t (h.kind t d) d j v⟩,
      arithTag h t d ∧ plainType h bin ∧
        ((h.kind t d).isIN = true ∨ (h.bins[bin].typ ≠ .i32 ∧ floats (h.kind t d) = true)))
  | .mwr bin v r => some (r,
      ⟨cellKind h.bins[bin].typ, element h t v, fun h' j x => h'.setCell bin (h.getU r) j x⟩,
      arithTag h t v ∧ plainType h bin ∧
        (if h.bins[bin].typ = .i32 then (h.kind t v).isIN = true else floats (h.kind t v) = true))
  | _ => none

/-- An outer product: its bin, the cells that it updates, each one's exact S, the tags and layouts that it asks, and the
rows whose selector is out of order. -/
structure Outer where
  bin : Bin
  rows : List Nat
  cols : List Nat
  term : Nat → Nat → Val × Flags
  /-- The integer S of I32 rows (R77). -/
  ints : Nat → Nat → Int
  checks : Checks
  bad : List Nat := []

/-- Operand kinds that a row type admits (R217). -/
def outerKind (h : Hart) (bin : Bin) (k : Kind) : Bool :=
  match h.bins[bin].typ with
  | .f32 => (k.isFlt && decide (k.width 64 ≤ 32)) || k.isSliced
  | .f64 => bin.val % 2 == 0 && k.isFlt
  | .i32 => k.isSliced || (k.isIN && decide (k.width 64 ≤ 16))
  | _ => false

/-- What MOPA asks of an operand (R217, R35, R77): an F64 pair reads no scaled one, and I32 rows read no scale. -/
def outerUse (h : Hart) (t : Nat) (bin : Bin) (r : VReg) : Checks :=
  scaledUse h t r ++ [(1, outerKind h bin (h.kind t r)),
    (3, !(h.bins[bin].typ == .f64 && h.scaled (h.kind t r))),
    (2, h.bins[bin].typ == .i32 || !h.scaled (h.kind t r) || h.kind t scaleReg == .e8m0)]

/-- idx0 and idx1 of row i (R219). -/
def selectorOf (h : Hart) (t : Nat) (vm : VReg) (i : Nat) : Nat × Nat :=
  let w := h.elem t (.int false 32) vm (i / 8)
  (w / 2 ^ (4 * (i % 8)) % 4, w / 2 ^ (4 * (i % 8) + 2) % 4)

/-- MOPS admits the operand (R219). -/
def sparseKind (k : Kind) : Bool :=
  k == .flt fmtF16 || k == .flt fmtBF16 || k == .flt fmtE4M3 || k == .flt fmtE5M2

/-- MOPA in its plain and blocked forms, and MOPS (R215 to R219, R75 to R77). -/
def outerForm (h : Hart) (t : Nat) : Instr → Option Outer
  | .mopa bin a b m _ _ =>
    let ka := h.kind t a
    let kb := h.kind t b
    let blocked := h.blocked ka
    let inside := fun (i : Nat) => decide ((if blocked then 32 * i + 31 else i) < h.vl)
    some
    { bin := bin
      rows := (List.range h.mgrant).filter (fun i => h.active t m i && inside i)
      cols := (List.range h.mvl).filter inside
      term := fun i j =>
        if blocked then
          let x := h.scaleCode t i
          let y := h.scaleCode t (128 + j)
          if x = 255 ∨ y = 255 then (.nan false, 0)
          else
            let s := exactSum h.rm ((List.range 32).map (fun q =>
              (ka.value (h.elem t ka a (32 * i + q))).mul (kb.value (h.elem t kb b (32 * j + q)))))
            (s.1.scale ((x : Int) - 127 + ((y : Int) - 127)), s.2)
        else (element h t a i).toVal.mul (element h t b j).toVal
      ints := fun i j =>
        if blocked then ((List.range 32).map (fun q =>
          ka.intVal (h.elem t ka a (32 * i + q)) * kb.intVal (h.elem t kb b (32 * j + q)))).sum
        else ka.intVal (h.elem t ka a i) * kb.intVal (h.elem t kb b j)
      checks := outerUse h t bin a ++ outerUse h t bin b ++ [(3, h.blocked ka == h.blocked kb)] }
  | .mops bin a b vm m _ _ _ => some
    { bin := bin
      rows := (List.range h.mgrant).filter (fun i =>
        h.active t m i && decide (i / 8 < h.vl) && decide (2 * i + 1 < h.vl))
      cols := (List.range h.mvl).filter (fun j => decide (3 * h.mvl + j < h.vl))
      term := fun i j =>
        let z := selectorOf h t vm i
        exactSum h.rm
          [(element h t a (2 * i)).toVal.mul (element h t b (z.1 * h.mvl + j)).toVal,
           (element h t a (2 * i + 1)).toVal.mul (element h t b (z.2 * h.mvl + j)).toVal]
      ints := fun _ _ => 0
      checks := scaledUse h t a ++ scaledUse h t b ++ scaledUse h t vm ++
        [(1, h.bins[bin].typ == .f32), (1, sparseKind (h.kind t a)), (1, sparseKind (h.kind t b)),
         (1, h.kind t vm == .int false 32), (3, h.blk == 0)]
      bad := (List.range h.mgrant).filter (fun i => h.active t m i && decide (i / 8 < h.vl) &&
        decide ((selectorOf h t vm i).2 ≤ (selectorOf h t vm i).1)) }
  | _ => none

/-- The new cell (i, j) and its flags: cell + S rounded once, or the integer sum modulo 2^32. -/
def Outer.result (F : Outer) (h : Hart) (t i j : Nat) : Nat × Flags :=
  if h.bins[F.bin].typ = .i32 then (ofInt 32 (toSigned 32 (h.cell t F.bin i j) + F.ints i j), 0)
  else
    let k := cellKind h.bins[F.bin].typ
    let sum := (k.value (h.cell t F.bin i j)).add h.rm (F.term i j).1
    let x := k.round ⟨h.rm, h.sat, 0⟩ sum.1
    (x.1, (F.term i j).2 ||| sum.2 ||| x.2)

/-- Every cell that it updates, row by row. -/
def Outer.cells (F : Outer) : List (Nat × Nat) := F.rows.flatMap (fun i => F.cols.map (fun j => (i, j)))

/-- The flags of all of them. -/
def Outer.flags (F : Outer) (h : Hart) (t : Nat) : Flags :=
  F.cells.foldl (fun fl p => fl ||| (F.result h t p.1 p.2).2) 0

/-- The hart after all of them. -/
def Outer.after (F : Outer) (h : Hart) (t : Nat) : Hart :=
  F.cells.foldl (fun (h' : Hart) p => h'.setCell F.bin p.1 p.2 (F.result h t p.1 p.2).1) (h.orFlags (F.flags h t))

/-- Pairs rank by value descending with +0 above −0, then the lower index first (R222). -/
def listBefore (k : Kind) (a b : BitVec 32 × BitVec 32) : Bool :=
  decide (0 < (k.value a.1.toNat).rank (k.value b.1.toNat)) ||
    ((k.value a.1.toNat).rank (k.value b.1.toNat) == 0 && decide (a.2.toNat < b.2.toNat))

/-- A list after one pair is offered: a NaN only counts, up to 255; else the first `cap` of its pairs and this
one, in rank order. -/
def offered (k : Kind) (cap : Nat) (l : AssayList) (p : Nat × Nat) : AssayList :=
  if (k.value p.1).isNan then { l with refused := min 255 (l.refused + 1) }
  else { l with pairs := (insertBy (listBefore k) (BitVec.ofNat 32 p.1, BitVec.ofNat 32 p.2) l.pairs).take cap }

/-- The hart after pairs are offered in order to list i of a bin. -/
def offeredTo (h : Hart) (bin : Bin) (i : Nat) (ps : List (Nat × Nat)) : Hart :=
  let b := h.bins[bin]
  let b' : BinRows := { b with lists := b.lists.modify i (fun l => ps.foldl (offered (cellKind b.typ) b.k) l) }
  { h with bins := h.bins.set bin b' }

/-- A value lies below ATHR, of the list's type (R223). -/
def filteredOut (h : Hart) (typ : RowType) (v : Nat) : Bool :=
  let x := (cellKind typ).value v
  let y := (cellKind typ).value (h.athr.toNat % 2 ^ 32)
  decide (bitAt h.athr.toNat 32 = (typ == .assayI32)) && !x.isNan && !y.isNan && decide (x.cmp y < 0)

/-- A list type. -/
def isList (typ : RowType) : Prop := typ = .assayF32 ∨ typ = .assayI32

/-- List i of a bin. -/
def listOf (h : Hart) (bin : Bin) (i : Nat) : AssayList := (h.bins[bin].lists[i]?).getD ⟨[], 0⟩

/-- The pattern of an empty place: −∞ or −2^31. -/
def emptyPlace (typ : RowType) : Nat := if typ = .assayI32 then 0x80000000 else 0xFF800000

/-- The threshold of a list (R226): its k-th value when it is full. -/
def threshold (h : Hart) (bin : Bin) (i : Nat) : Nat :=
  let l := listOf h bin i
  let typ := h.bins[bin].typ
  (if l.pairs.length = h.bins[bin].k then ((l.pairs.getLast?).map (fun p => p.1.toNat)).getD (emptyPlace typ)
    else emptyPlace typ) + (if typ = .assayI32 then 2 ^ 32 else 0)

/-- What MAGET writes at place e ≤ k of a list (R225): value and index, an empty place, or n and the refusals. -/
def listPlace (h : Hart) (bin : Bin) (i e : Nat) : Nat × Nat :=
  let l := listOf h bin i
  let typ := h.bins[bin].typ
  if e = h.bins[bin].k then
    ((roundedInto (cellKind typ) ⟨0, false, 0⟩ (.int (l.pairs.length : Nat), 0)).1, l.refused)
  else ((l.pairs[e]?).map (fun p => (p.1.toNat, p.2.toNat))).getD (emptyPlace typ, 0xFFFFFFFF)

end Sys2Proof.Claims

/-- R210, R211, R212, R213, R221: attaching, detaching, typing. MATT while attached raises ILLEGAL, detail 4, then
outside its ranges detail 5; else it takes as grant, in sixteens, as many of the rows asked for as no other hart of
the quad holds or has reserved, rows of F32 with undefined contents, MVL, and MA := 1, at once where no other running
hart of the quad can ask; where one can, it may wait its turn among the requests of one hall tick (R355, log entry
52). MDET releases the rows. MZRO zeroes and types rows, MASY makes empty lists. Every other matrix function of a
detached hart raises NOMAT, and a row at or above MGRANT raises ILLEGAL, detail 5. (ILLCFG detail 1 of MASY on an F64
pair is log entry 18; that MATT, MDET, MZRO and MASY leave VSTART as it was, log entry 26.) -/
def Obligations.MatrixRows : Prop :=
  ∀ (s : State) (h : Hart),
    (∀ d a b : XReg, Issues (.matt d a b) s h →
      (h.ma = true → exec (.matt d a b) s = .next (trapped s h (Trap.illegal 4))) ∧
      (h.ma = false → ¬ (h.getU a % 16 = 0 ∧ h.getU a ≤ 128 ∧ 1 ≤ h.getU b ∧ h.getU b ≤ 128) →
        exec (.matt d a b) s = .next (trapped s h (Trap.illegal 5))) ∧
      (h.ma = false → h.getU a % 16 = 0 ∧ h.getU a ≤ 128 ∧ 1 ≤ h.getU b ∧ h.getU b ≤ 128 →
        ∀ t : State, t = finished s { h.setX d (BitVec.ofNat 64 (rowsFor s h (h.getU a))) with
          mattAt := none
          mgrant := rowsFor s h (h.getU a)
          mvl := h.getU b
          ma := true
          bins := Vector.replicate 4 rawRows } →
        ((∀ (j : Nat) (o : Hart), s.harts[j]? = some o → j ≠ s.cur → o.status = .running →
            o.core / 4 = h.core / 4 → o.ma = true) → exec (.matt d a b) s = .next t) ∧
        (exec (.matt d a b) s = .next t ∨ exec (.matt d a b) s =
          .next (settle s.cur (.hold ⟨{ h with mattAt := some (h.mattAt.getD s.hall.hcnt) }, s⟩))))) ∧
    (Issues .mdet s h →
      (h.ma = true → exec .mdet s = .next (finished s { h with
        ma := false
        mgrant := 0
        bins := Vector.replicate 4 rawRows })) ∧
      (h.ma = false → exec .mdet s = .next (finished s h))) ∧
    (∀ (bin : Bin) (typ : ZeroTyp), Issues (.mzro bin typ) s h → h.ma = true →
      ∃ bins : Vector BinRows 4, exec (.mzro bin typ) s = .next (finished s { h with bins := bins }) ∧
        ∀ b : Bin, bins[b] = zeroed h bin typ b) ∧
    (∀ (bin : Bin) (k : XReg), Issues (.masy bin k) s h → h.ma = true →
      ((h.getU k < 1 ∨ 64 < h.getU k) → exec (.masy bin k) s = .next (trapped s h (Trap.illegal 5))) ∧
      (1 ≤ h.getU k → h.getU k ≤ 64 → listType h.bins[bin].typ = none →
        exec (.masy bin k) s = .next (trapped s h (Trap.illcfg 1))) ∧
      (1 ≤ h.getU k → h.getU k ≤ 64 → ∀ typ : RowType, listType h.bins[bin].typ = some typ →
        exec (.masy bin k) s = .next (finished s { h with
          bins := h.bins.set bin ⟨typ, h.getU k, .undefined, List.replicate h.mgrant ⟨[], 0⟩⟩ }))) ∧
    (∀ (i : Instr) (row : Option XReg), Issues i s h → matrixForm i = some row →
      (h.ma = false → exec i s = .next (trapped s h (Trap.plain causeNomat 0))) ∧
      (h.ma = true → ∀ r : XReg, row = some r → h.mgrant ≤ h.getU r →
        exec i s = .next (trapped s h (Trap.illegal 5))))

/-- R220, R214: MRD rounds the cells of a row into vd and MWR the elements of vs into the cells, for the columns
below min(MVL, VL); VSTART := 0. At the lowest column that raises an enabled flag the instruction raises FPX with
nothing written and the flags of the columns up to that one set. (That they raise those flags and no more, and that no
window entry is left, is the model's reading, log entry 26.) -/
def Obligations.MatrixReadWrite : Prop :=
  ∀ (s : State) (h : Hart) (i : Instr) (r : XReg) (C : Columns) (ok : Prop),
    Issues i s h → columnsForm h s.tick i = some (r, C, ok) → h.ma = true → h.getU r < h.mgrant → ok →
    (floats C.kind = true → h.rm ≠ 5) → h.stopAt = none →
    ((∀ j : Nat, j < min h.mvl h.vl → h.enabledFlag (C.result h j).2 = none) →
      exec i s = .next (finished s { (List.range (min h.mvl h.vl)).foldl (fun (h' : Hart) j =>
        C.put (h'.orFlags (C.result h j).2) j (C.result h j).1) h with vstart := 0 })) ∧
    (∀ j flag : Nat, j < min h.mvl h.vl → (∀ j' : Nat, j' < j → h.enabledFlag (C.result h j').2 = none) →
      h.enabledFlag (C.result h j).2 = some flag →
      exec i s = .next (trapped s ((List.range (j + 1)).foldl (fun (h' : Hart) j' =>
        h'.orFlags (C.result h j').2) h) (Trap.fpx flag j none)))

/-- R75 to R77, R215 to R219, R410: an outer product updates each cell of its rows and columns, cell + S rounded once
into the row type or the sum modulo 2^32 in I32 rows, ORs its flags into FPCSR and leaves VSTART 0; an enabled flag
raises FPX with no cell written. MOPS checks its selectors first: SPARSEMETA at the lowest bad row. Tags that the row
type does not admit raise ILLCFG (with detail 3 for a layout, for BLK and for a scaled operand of an F64 pair, 2 for
V47, else 1, log entry 18), and on rows of F32 or F64 under RM = 5 either raises ILLEGAL, detail 7, with nothing
written. (That a scale of 0xFF raises no flag, and that the flags' order does not matter, is log entry 23.) -/
def Obligations.OuterProducts : Prop :=
  ∀ (s : State) (h : Hart) (i : Instr) (F : Outer) (rounds : Prop),
    Issues i s h → h.ma = true → outerForm h s.tick i = some F →
    rounds = (h.bins[F.bin].typ = .f32 ∨ h.bins[F.bin].typ = .f64) →
    (h.looseTags i = [] →
      (rounds → h.rm = 5 → exec i s = .next (trapped s h (Trap.illegal 7))) ∧
      ((rounds → h.rm ≠ 5) → ∀ n : Nat, refusedFor F.checks n → exec i s = .next (trapped s h (Trap.illcfg n)))) ∧
    (admitted F.checks → (rounds → h.rm ≠ 5) → h.stopAt = none →
      (∀ row : Nat, F.bad.head? = some row → exec i s = .next (trapped s h { Trap.plain causeSparsemeta 0 with
        elem := row
        idx := some 0 })) ∧
      (F.bad = [] → h.enabledFlag (F.flags h s.tick) = none →
        exec i s = .next (finished s { F.after h s.tick with vstart := 0 })) ∧
      (∀ flag : Nat, F.bad = [] → h.enabledFlag (F.flags h s.tick) = some flag →
        exec i s = .next (trapped s (h.orFlags (F.flags h s.tick)) (Trap.fpx flag 0 (some 0)))))

/-- R222 to R226: MASV offers active elements that are not below ATHR to a list, MDRN offers every cell of the source
rows to the lists; MAGET reads a list into two registers and types them; MTHR writes its threshold to xd and ATHR. On
rows of another type they trap ILLCFG, with detail 1 (log entry 18); VSTART is 0 after those that read or write vector
elements or offer to lists, and MTHR leaves it (log entry 26). The filter of MASV compares exact values: −0 is not
below +0, and nothing is below a NaN in ATHR (log entry 27). -/
def Obligations.AssayLists : Prop :=
  ∀ (s : State) (h : Hart), h.ma = true → h.stopAt = none →
    (∀ (bin : Bin) (a ci : VReg) (r : XReg) (m ca cb : Bool), Issues (.masv bin a ci r m ca cb) s h →
      h.getU r < h.mgrant → isList h.bins[bin].typ → arithTag h s.tick a → arithTag h s.tick ci →
      h.kind s.tick a = cellKind h.bins[bin].typ →
      (h.kind s.tick ci = .int true 32 ∨ h.kind s.tick ci = .int false 32) →
      exec (.masv bin a ci r m ca cb) s = .next (finished s { offeredTo h bin (h.getU r)
        (((activeBelow h s.tick m).filter (fun e => !filteredOut h h.bins[bin].typ
            (h.elem s.tick (h.kind s.tick a) a e))).map (fun e =>
          (h.elem s.tick (h.kind s.tick a) a e, h.elem s.tick (h.kind s.tick ci) ci e))) with vstart := 0 })) ∧
    (∀ (bin src : Bin) (base : XReg), Issues (.mdrn bin src base) s h →
      ((h.bins[bin].typ = .assayF32 ∧ h.bins[src].typ = .f32) ∨
        (h.bins[bin].typ = .assayI32 ∧ h.bins[src].typ = .i32)) →
      exec (.mdrn bin src base) s = .next (finished s { (List.range h.mgrant).foldl (fun (h' : Hart) i =>
        offeredTo h' bin i ((List.range h.mvl).map (fun j =>
          (h.cellWord s.tick src i j, (h.getU base + j) % 2 ^ 32)))) h with vstart := 0 })) ∧
    (∀ (d ci : VReg) (bin : Bin) (r : XReg), Issues (.maget d ci bin r) s h →
      h.getU r < h.mgrant → isList h.bins[bin].typ → 32 ≤ h.ew →
      (h.vl = 0 → exec (.maget d ci bin r) s = .next (finished s { h with vstart := 0 })) ∧
      (h.vl ≠ 0 → exec (.maget d ci bin r) s = .next (finished s
        { (List.range (min h.vl (h.bins[bin].k + 1))).foldl (fun (h' : Hart) e =>
            (h'.setElem s.tick (cellKind h.bins[bin].typ) d e (listPlace h bin (h.getU r) e).1).setElem s.tick
              (.int false 32) ci e (listPlace h bin (h.getU r) e).2)
            ((h.setTag d (if h.bins[bin].typ = .assayI32 then 0x03 else 0x0B)).setTag ci 0x07) with
          vstart := 0 }))) ∧
    (∀ (d : XReg) (bin : Bin) (r : XReg), Issues (.mthr d bin r) s h → h.getU r < h.mgrant →
      isList h.bins[bin].typ →
      exec (.mthr d bin r) s = .next (finished s
        { h.setX d (BitVec.ofNat 64 (threshold h bin (h.getU r))) with
          athr := BitVec.ofNat 64 (threshold h bin (h.getU r)) })) ∧
    (∀ (bin src : Bin) (base : XReg), Issues (.mdrn bin src base) s h →
      ¬ ((h.bins[bin].typ = .assayF32 ∧ h.bins[src].typ = .f32) ∨
        (h.bins[bin].typ = .assayI32 ∧ h.bins[src].typ = .i32)) →
      exec (.mdrn bin src base) s = .next (trapped s h (Trap.illcfg 1))) ∧
    (∀ (i : Instr) (bin : Bin) (r : XReg), Issues i s h → h.getU r < h.mgrant → ¬ isList h.bins[bin].typ →
      ((∃ (a ci : VReg) (m ca cb : Bool), i = .masv bin a ci r m ca cb) ∨
        (∃ d ci : VReg, i = .maget d ci bin r) ∨ (∃ d : XReg, i = .mthr d bin r)) →
      exec i s = .next (trapped s h (Trap.illcfg 1)))

/-! ## Lane threads, loop tests, engines, transforms -/

namespace Sys2Proof.Claims

/-- Virtual processor p of hart h, `v` of its run, is ready to run (R231). -/
structure VpReady (s : State) (h : Hart) (p : Nat) (v : Vp) (vs : List Vp) : Prop where
  turn : s.harts[s.cur]? = some h
  running : h.status = .running
  run : h.run = some vs
  mine : vs[p]? = some v
  ready : v.state = .ready

/-- The hart after virtual processor p has written its register Xd, the slot of element p of V(16 + d); X0
discards (R229). -/
def vpWrites (h : Hart) (t p : Nat) (d : XReg) (w : Word) : Hart :=
  if d = 0 then h else h.writeSpot t (vpReg d) (h.ordSpot p) 64 w.toNat

/-- The hart after virtual processor p has come to a state; it waits for the link no longer (log entry 44). -/
def vpBecomes (h : Hart) (vs : List Vp) (p : Nat) (v : Vp) : Hart :=
  { h with run := some (vs.set p { v with sentAt := none, sentPage := none, timedOut := false }) }

/-- The machine after virtual processor p has trapped with a cause that stops it alone (R235): its address is
the processor's PC for ILLEGAL. -/
def vpStops (s : State) (h : Hart) (vs : List Vp) (p : Nat) (v : Vp) (cause detail : Nat) (addr : Word) : State :=
  let at_ := if cause = causeIllegal then v.block + BitVec.ofNat 64 (4 * v.idx) else addr
  s.setHart s.cur (vpBecomes h vs p { v with state := .trapped cause detail at_ })

/-- The lane of virtual processor p holds a block for processor q, `u` of the run, which runs or waits on a fault
(R232). -/
def holdsFor (h : Hart) (vs : List Vp) (p q : Nat) (u : Vp) : Prop :=
  vs[q]? = some u ∧ q ≠ p ∧ h.laneOf q = h.laneOf p ∧ (u.state = .ready ∨ u.state = .waitFault)

/-- The whole subset of R231 but VLDT, VSTT, LFETCH, LJOIN and LVPID: the instructions that act as in the hart. -/
def vpActs (h : Hart) (i : Instr) : Prop :=
  (intResult h i).isSome = true ∨ (fpResult h i).isSome = true ∨ (branchForm h i).isSome = true ∨
  ((loadForm h i).isSome = true ∧ ∀ (d a : XReg) (sc : Scope) (w : Bool), i ≠ .lda d a sc w) ∨
  ((storeForm h i).isSome = true ∧ ∀ (d a : XReg) (sc : Scope) (w : Bool), i ≠ .stl d a sc w)

/-- A loop test: its operands, its branch offset, its condition, and whether a quiet NaN raises nothing
(R236, R165). -/
def whileForm : Instr → Option (VReg × CmpOperand × BitVec 10 × (Val → Val → Bool) × Bool)
  | .vwhileEq a b off => some (a, loopOperand b, off, ordered (· == 0), true)
  | .vwhileNe a b off => some (a, loopOperand b, off, fun x y => !ordered (· == 0) x y, true)
  | .vwhileLt a b off => some (a, loopOperand b, off, ordered (fun c => decide (c < 0)), false)
  | .vwhileLe a b off => some (a, loopOperand b, off, ordered (fun c => decide (c ≤ 0)), false)
  | .vwhileGt a b off => some (a, loopOperand b, off, ordered (fun c => decide (0 < c)), false)
  | .vwhileGe a b off => some (a, loopOperand b, off, ordered (fun c => decide (0 ≤ c)), false)
  | .vwhileUn a b off => some (a, loopOperand b, off, fun x y => x.isNan || y.isNan, true)
  | .vwhileOr a b off => some (a, loopOperand b, off, fun x y => !x.isNan && !y.isNan, true)
  | _ => none

/-- The flags of element e of a loop test. -/
def whileFlags (h : Hart) (t : Nat) (a : VReg) (b : CmpOperand) (quiet : Bool) (e : Nat) : Flags :=
  let x := (element h t a e).toVal
  let y := compareOperand h t a e b
  if x.isSnan || y.isSnan || (!quiet && (x.isNan || y.isNan)) then flagNV else 0

/-- The hart after a loop test whose condition first fails at f: flags of every element, M0[e] for e < VL. -/
def whileDone (h : Hart) (t : Nat) (a : VReg) (b : CmpOperand) (quiet : Bool) (f : Nat) : Hart :=
  { (List.range h.vl).foldl (fun (h' : Hart) e => h'.setMask 0 e (decide (e < f)))
      ((List.range h.vl).foldl (fun (h' : Hart) e => h'.orFlags (whileFlags h t a b quiet e)) h) with vstart := 0 }

/-- The engine queue of the hart's core has room for one more transfer (R238). -/
def queueHasRoom (s : State) (h : Hart) : Prop :=
  (((withIndex 0 s.harts).map (fun (j, o) =>
    if j ≠ s.cur ∧ o.core = h.core then (o.tags.toList.filter TagState.isBusy).length else 0)).sum +
    (h.tags.toList.filter TagState.isBusy).length) < 32

/-- Tag t is the lowest free tag (R239). -/
def lowestFree (h : Hart) (t : Slot) : Prop := h.tags[t] = .free ∧ ∀ u : Slot, u < t → h.tags[u] ≠ .free

/-- The hart after it has started a transfer under tag t: the tag is busy with it, the next in its program order. -/
def startsTransfer (h : Hart) (t : Slot) (tr : Transfer) : Hart :=
  { h with tags := h.tags.set t (.busy ⟨tr, h.nextSeq, false, none, []⟩), nextSeq := h.nextSeq + 1 }

/-- The bytes of a collective's descriptor, `v` as one number, that R247 admits on device `ord` for a launch of class
`cls`: byte by byte, no reserved value and no reserved bit, a GROUP that has this device, a CLASS no lower than the
launch's. STATUS is a multiple of 16 (log entry 32). -/
structure Admitted (v ord cls : Nat) : Prop where
  op : fld v 0 8 ≤ 4
  elements : fld v 0 8 ≤ 2 → fld v 8 8 ∈ [0x0B, 0x0C, 0x03, 0x04, 0x07, 0x08]
  assay : fld v 0 8 = 3 → fld v 8 8 ∈ [0x0B, 0x03]
  streams : fld v 0 8 = 4 → fld v 8 8 = 0
  trafficClass : fld v 16 8 ≤ 2 ∧ cls ≤ fld v 16 8
  reserved : fld v 24 8 = 0 ∧ fld v 48 16 = 0 ∧ fld v 448 64 = 0
  capacity : if fld v 0 8 = 3 then 1 ≤ fld v 32 16 ∧ fld v 32 16 ≤ 64 else fld v 32 16 = 0
  group : bitAt (fld v 64 128) ord = true
  status : fld v 384 64 % 16 = 0

/-- The hart after commands of a batch have been taken in order, and which were accepted (R240). -/
def takeBatch (room : Nat) : List (Nat × Command) → Hart → Nat → List Nat → Hart × List Nat
  | [], h, _, done => (h, done)
  | (i, x) :: rest, h, busy, done =>
    if h.tags[x.tag] = .free ∧ busy < room then
      if x.len = 0 then takeBatch room rest h busy (i :: done)
      else takeBatch room rest (startsTransfer h x.tag (.copy x.dst x.src x.len x.zero)) (busy + 1) (i :: done)
    else takeBatch room rest h busy done

/-! ### Transforms (R243 to R246) -/

/-- Elements that a fixed-length mode writes, and the bits of element e given the elements below it. -/
structure Fixed where
  d : VReg
  count : Nat
  ok : Prop
  write : Hart → Nat → Hart
  finish : Hart → Hart

/-- The bits of a string from bit q: bit j of the string is bit j mod 16 of slot j ÷ 16. -/
def stringAt (slot : Nat → Nat) (q n : Nat) : Nat :=
  ((List.range n).map (fun i => if bitAt (slot ((q + i) / 16)) ((q + i) % 16) then 2 ^ i else 0)).sum

/-- Slot q of the packed string of w-bit elements below VL. -/
def packedAt (h : Hart) (t : Nat) (k : Kind) (a : VReg) (q : Nat) : Nat :=
  ((List.range 16).map (fun n =>
    let i := 16 * q + n
    if i / h.kw k < h.vl ∧ bitAt (h.elem t k a (i / h.kw k)) (i % h.kw k) = true then 2 ^ n else 0)).sum

/-- .DELTA and .PLANE (R245). -/
def fixedForm (h : Hart) (t : Nat) : Instr → Option Fixed
  | .vxfdDelta d a b _ =>
    let k := h.kind t a
    some ⟨d, h.vl, h.blk = 0 ∧ intTag h t a ∧ h.tag t d = h.tag t a,
      fun h' e => h'.setElem t k d e
        ((if e = 0 then h.getU b else h'.elem t k d (e - 1)) + h'.elem t k a e), id⟩
  | .vxfeDelta d a b _ =>
    let k := h.kind t a
    some ⟨d, h.vl, h.blk = 0 ∧ intTag h t a ∧ h.tag t d = h.tag t a,
      fun h' e => h'.setElem t k d e (h'.elem t k a e + (2 ^ h.kw k -
        (if e = 0 then h.getU b else h'.elem t k a (e - 1)) % 2 ^ h.kw k)), id⟩
  | .vxfdPlane d a _ _ =>
    let kd := h.kind t d
    some ⟨d, h.vl, h.blk = 2 ∧ bitsTag h t d ∧ bitsTag h t a ∧ kd.isBlock = true,
      fun h' e => h'.setElem t kd d e (stringAt (h'.elem t (h.kind t a) a) (h.kw kd * e) (h.kw kd)), id⟩
  | .vxfePlane d a _ _ =>
    let ka := h.kind t a
    some ⟨d, min h.vl ((h.vl * h.kw ka + 15) / 16), h.blk = 2 ∧ bitsTag h t a ∧ ka.isBlock = true,
      fun h' q => h'.setElem t .raw d q (packedAt h t ka a q), fun h' => h'.setTag d 0⟩
  | _ => none

/-- A variable-length mode: one unit of it (none when its input is used up or its output is full), a position
whose header is bad, the tag that vd takes. -/
structure Variable where
  d : VReg
  ok : Prop
  unit : Hart → Xfr → Option (Hart × Xfr)
  bad : Hart → Xfr → Prop
  tag : Nat

/-- The length of the run of equal bits from element e, below n and at most `most`. -/
def runFrom (f : Nat → Nat) (n e most : Nat) : Nat :=
  ((List.range (min most (n - e))).takeWhile (fun i => f (e + i) == f e)).length

/-- Byte q of a register's byte string (R245). -/
def byteAt (h : Hart) (t : Nat) (a : VReg) (q : Nat) : Nat :=
  fld (h.elem t (h.kind t a) a (q / 8)) (8 * (q % 8)) 8

/-- Doubleword i of a register. -/
def doubleAt (h : Hart) (t : Nat) (a : VReg) (i : Nat) : Nat := h.elem t (h.kind t a) a i

/-- The bytes of a list from byte q of a register's byte string upward. -/
def putString (t : Nat) (d : VReg) : Nat → List Nat → Hart → Hart
  | _, [], h => h
  | q, v :: vs, h =>
    putString t d (q + 1) vs
      (h.writeSpot t d ⟨(h.ordSpot (q / 8)).key, (h.ordSpot (q / 8)).lo + 8 * (q % 8)⟩ 8 v)

/-- The encoding of four doublewords (R246). -/
def sectorBytes (w : Nat → Nat) : List Nat :=
  if w 0 = 0 ∧ w 1 = 0 ∧ w 2 = 0 ∧ w 3 = 0 then [0]
  else if w 1 = w 0 ∧ w 2 = w 0 ∧ w 3 = w 0 then 1 :: (leBytes 8 (w 0)).map BitVec.toNat
  else 2 :: ([w 0, w 1, w 2, w 3].flatMap (leBytes 8)).map BitVec.toNat

/-- .RLE and .SECT (R245, R246). -/
def variableForm (h : Hart) (t : Nat) : Instr → Option Variable
  | .vxfdRle d a b _ =>
    let k := h.kind t a
    let pairs := min (h.getU b) (h.vl / 2)
    some
    { d := d
      ok := h.blk = 0 ∧ arithTag h t a
      unit := fun h' x =>
        let i := x.inp / 2
        let count := h'.elem t k a (2 * i + 1) % 2 ^ 32
        if pairs ≤ i then none
        else if count ≤ x.run then some (h', ⟨x.out, 0, 2 * i + 2⟩)
        else if h.vl ≤ x.out then none
        else some (h'.setElem t k d x.out (h'.elem t k a (2 * i)),
          if x.run + 1 = count then ⟨x.out + 1, 0, 2 * i + 2⟩ else ⟨x.out + 1, x.run + 1, 2 * i⟩)
      bad := fun _ _ => False
      tag := h.tag t a }
  | .vxfeRle d a b _ =>
    let k := h.kind t a
    let n := min (h.getU b) h.vl
    some
    { d := d
      ok := h.blk = 0 ∧ arithTag h t a
      unit := fun h' x =>
        let len := runFrom (h'.elem t k a) n x.inp (min (2 ^ h.kw k - 1) (2 ^ 32 - 1))
        if n ≤ x.inp ∨ h.vl ≤ x.out + 1 then none
        else some ((h'.setElem t k d x.out (h'.elem t k a x.inp)).setElem t k d (x.out + 1) len,
          ⟨x.out + 2, x.run, x.inp + len⟩)
      bad := fun _ _ => False
      tag := h.tag t a }
  | .vxfdSect d a b _ =>
    let n := min (h.getU b) (8 * h.vl)
    let length := fun (header : Nat) => if header = 0 then 1 else if header = 1 then 9 else 33
    some
    { d := d
      ok := h.blk = 0 ∧ h.ew = 64 ∧ bitsTag h t a
      unit := fun h' x =>
        let byte := byteAt h' t a
        let header := byte x.inp
        if n ≤ x.inp ∨ 3 ≤ header ∨ n < x.inp + length header ∨ h.vl < x.out + 4 then none
        else
          let word := fun (i : Nat) =>
            if header = 0 then 0
            else ((List.range 8).map (fun j =>
              byte (x.inp + 1 + (if header = 1 then 0 else 8 * i) + j) * 256 ^ j)).sum
          some ((List.range 4).foldl (fun (h'' : Hart) i => h''.writeSpot t d (h''.ordSpot (x.out + i)) 64 (word i)) h',
            ⟨x.out + 4, x.run, x.inp + length header⟩)
      bad := fun h' x => x.inp < n ∧ 3 ≤ byteAt h' t a x.inp
      tag := 0 }
  | .vxfeSect d a b _ =>
    let n := min (h.getU b / 4 * 4) h.vl
    some
    { d := d
      ok := h.blk = 0 ∧ h.ew = 64 ∧ bitsTag h t a
      unit := fun h' x =>
        let bytes := sectorBytes (fun i => doubleAt h' t a (x.inp + i))
        if n < x.inp + 4 ∨ 8 * h.vl < x.out + bytes.length then none
        else some (putString t d x.out bytes h', ⟨x.out + bytes.length, x.run, x.inp + 4⟩)
      bad := fun _ _ => False
      tag := 0 }
  | _ => none

/-- The units of a variable-length mode, one after another, until there is none. -/
inductive Units (f : Hart → Xfr → Option (Hart × Xfr)) : Hart → Xfr → Hart → Xfr → Prop where
  | stop {h : Hart} {x : Xfr} (no : f h x = none) : Units f h x h x
  | more {h h₁ h₂ : Hart} {x x₁ x₂ : Xfr} (one : f h x = some (h₁, x₁)) (rest : Units f h₁ x₁ h₂ x₂) :
    Units f h x h₂ x₂

end Sys2Proof.Claims

/-- R228, R230, R232, R233: LSPLIT enters lane-thread mode; a VFETCH right after it starts a virtual processor at
word 0 of the block for each position below VL, and with VL = 0 leaves the mode at once; the refusals of both.
LFETCH, LJOIN and LVPID in the hart raise ILLEGAL, detail 4; in a virtual processor LFETCH makes it wait for its new
block, LJOIN stops it, LVPID writes its number. -/
def Obligations.LaneThreads : Prop :=
  ∀ (s : State) (h : Hart),
    (Issues .lsplit s h →
      (h.lt = true → exec .lsplit s = .next (trapped s h (Trap.illegal 4))) ∧
      (h.lt = false → ¬ (h.ew = 64 ∧ h.blk = 0) → exec .lsplit s = .next (trapped s h (Trap.illcfg 3))) ∧
      (h.lt = false → h.ew = 64 → h.blk = 0 →
        exec .lsplit s = .next (finished s { h with lt := true, split := true }))) ∧
    (∀ a b : XReg, Issues (.vfetch a b) s h →
      (h.split = false → exec (.vfetch a b) s = .next (trapped s h (Trap.illegal 4))) ∧
      (h.split = true → (h.getU b < 1 ∨ 32 < h.getU b) →
        exec (.vfetch a b) s = .next (trapped s h (Trap.illegal 5))) ∧
      (h.split = true → 1 ≤ h.getU b → h.getU b ≤ 32 → h.vl = 0 →
        exec (.vfetch a b) s = .next (finished s { h with lt := false, split := false })) ∧
      (h.split = true → 1 ≤ h.getU b → h.getU b ≤ 32 → h.vl ≠ 0 → h.getU a % 4 ≠ 0 →
        exec (.vfetch a b) s = .next (trapped s h { Trap.plain causeMisalign 0 with addr := h.getX a })) ∧
      (h.split = true → h.lt = true → 1 ≤ h.getU b → h.getU b ≤ 32 → h.vl ≠ 0 → h.getU a % 4 = 0 →
        ∀ (ws : List (BitVec 32)) (c : Ctx), Ctx.fetchBlock ⟨h, s⟩ s.cur (h.getX a) (h.getU b) = .ok (ws, c) →
        exec (.vfetch a b) s = .next (c.s.setHart s.cur { c.h with
          split := false
          sentAt := none
          sentPage := none
          run := some (List.replicate h.vl ⟨h.getX a, ws, 0, .ready, [], none, none, false⟩) }))) ∧
    (s.vp = none → ∀ i : Instr, Issues i s h →
      ((∃ a b : XReg, i = .lfetch a b) ∨ i = .ljoin ∨ (∃ d : XReg, i = .lvpid d)) →
      exec i s = .next (trapped s h (Trap.illegal 4))) ∧
    (∀ (p : Nat) (v : Vp) (vs : List Vp), s.vp = some p → VpReady s h p v vs →
      exec .ljoin s = .next (s.setHart s.cur (vpBecomes h vs p { v with state := .joined })) ∧
      (∀ d : XReg, exec (.lvpid d) s = .next (s.setHart s.cur (vpBecomes
        (vpWrites h s.tick p d (BitVec.ofNat 64 p)) vs p { v with idx := v.idx + 1 }))) ∧
      (∀ (a b : XReg) (at_ : Word) (n : Nat), at_ = h.vpX s.tick p a → n = (h.vpX s.tick p b).toNat →
        ((n < 1 ∨ 32 < n) → exec (.lfetch a b) s = .next (vpStops s h vs p v causeIllegal 5 0)) ∧
        (1 ≤ n → n ≤ 32 → at_.toNat % 4 ≠ 0 →
          exec (.lfetch a b) s = .next (vpStops s h vs p v causeMisalign 0 at_)) ∧
        (1 ≤ n → n ≤ 32 → at_.toNat % 4 = 0 →
          exec (.lfetch a b) s = .next (s.setHart s.cur (vpBecomes h vs p
            { v with state := .waitBlock at_ n })))))

/-- R229, R231, R235: the next word of a virtual processor. An integer, floating or branch word acts as in the hart
on the processor's own registers, its PC the block's address plus 4 times its word index; a branch out of the block,
the word after the block's last, and a word outside the subset raise ILLEGAL, detail 4; a trap that does not go to
the hall stops that processor alone, its destination unwritten. -/
def Obligations.LaneSteps : Prop :=
  ∀ (s : State) (h h' : Hart) (p : Nat) (v : Vp) (vs : List Vp), VpReady s h p v vs → h' = h.asVp s.tick p v →
    (v.words[v.idx]? = none → vpStep s.cur p s = vpStops s h vs p v causeIllegal 4 0) ∧
    (∀ (w : BitVec 32) (i : Instr), v.words[v.idx]? = some w → decodeWord w.toNat = .instr i →
      (∀ (d : XReg) (x : Word), intResult h' i = some (d, x) →
        vpStep s.cur p s = s.setHart s.cur (vpBecomes (vpWrites h s.tick p d x) vs p { v with idx := v.idx + 1 })) ∧
      (∀ (d : XReg) (bits : Nat) (fl : Flags), fpResult h' i = some (d, (bits, fl)) →
        (h.enabledFlag fl = none → vpStep s.cur p s = s.setHart s.cur (vpBecomes
          (vpWrites (h.orFlags fl) s.tick p d (BitVec.ofNat 64 bits)) vs p { v with idx := v.idx + 1 })) ∧
        (∀ k : Nat, h.enabledFlag fl = some k →
          vpStep s.cur p s = vpStops s (h.orFlags fl) vs p v causeFpx k 0)) ∧
      (∀ (off : BitVec 13) (taken : Bool) (to_ : Nat), branchForm h' i = some (off, taken) →
        to_ = (h'.pc + 4 * off.signExtend 64 - v.block).toNat →
        (taken = false →
          vpStep s.cur p s = s.setHart s.cur (vpBecomes h vs p { v with idx := v.idx + 1 })) ∧
        (taken = true → to_ < 4 * v.words.length →
          vpStep s.cur p s = s.setHart s.cur (vpBecomes h vs p { v with idx := to_ / 4 })) ∧
        (taken = true → 4 * v.words.length ≤ to_ →
          vpStep s.cur p s = vpStops s h vs p v causeIllegal 4 0)) ∧
      (¬ vpActs h' i → i ≠ .ljoin → (∀ a b : XReg, i ≠ .lfetch a b) → (∀ d : XReg, i ≠ .lvpid d) →
        (∀ (d a : VReg) (b : XReg) (m ca : Bool), i ≠ .vldt d a b m ca ∧ i ≠ .vstt d a b m ca) →
        vpStep s.cur p s = vpStops s h vs p v causeIllegal 4 0))

/-- R229, R231, R234, R36, R37: the memory words of a virtual processor. A load or store whose access passes the
checks acts on generic memory; an address in the local window is PERM, which the hall cannot resolve: the hart ends
with STATUS 2. VLDT and VSTT read and write 8 bytes of the slice of the processor's lane, at offset s(xa) + s(xb), or
stop the processor with LTBOUND or MISALIGN; m or ca set is ILLEGAL, detail 2, and a register above 31 detail 1. -/
def Obligations.LaneMemory : Prop :=
  ∀ (s : State) (h h' : Hart) (p : Nat) (v : Vp) (vs : List Vp) (w : BitVec 32) (i : Instr),
    VpReady s h p v vs → h' = h.asVp s.tick p v → v.words[v.idx]? = some w → decodeWord w.toNat = .instr i →
    NoTransfers h →
    vpActs h' i ∨ (∃ (r a : VReg) (b : XReg) (m ca : Bool), i = .vldt r a b m ca ∨ i = .vstt r a b m ca) →
    (∀ (d : XReg) (va n : Nat) (f : Nat → Word), loadForm h' i = some (d, va, n, f) →
      (va % n = 0 → va < genericBase → vpStep s.cur p s =
        ({ s with hall := { s.hall with hstops := s.hall.hstops + 1 } }).failHart s.cur h
          ⟨2, causePerm, h.hartid.toNat, causePerm, h.pc⟩) ∧
      (genericBase ≤ va → ∀ (loc : Loc) (c : Ctx), Ctx.checked ⟨h', s⟩ va n .load none = .ok (loc, c) →
        vpStep s.cur p s = c.s.setHart s.cur
          (vpBecomes (vpWrites h s.tick p d (f (c.readLoc loc n))) vs p { v with idx := v.idx + 1 }))) ∧
    (∀ x va n : Nat, storeForm h' i = some (x, va, n) →
      (va % n = 0 → va < genericBase → vpStep s.cur p s =
        ({ s with hall := { s.hall with hstops := s.hall.hstops + 1 } }).failHart s.cur h
          ⟨2, causePerm, h.hartid.toNat, 256 + causePerm, h.pc⟩) ∧
      (genericBase ≤ va → ∀ (loc : Loc) (c : Ctx),
        Ctx.checkedStore ⟨h', s⟩ va n .store none (fun _ _ => x) = .ok (loc, c) →
        vpStep s.cur p s = (c.writeLoc loc n x).s.setHart s.cur (vpBecomes h vs p { v with idx := v.idx + 1 }))) ∧
    (∀ (r a : VReg) (b : XReg) (m ca : Bool), (i = .vldt r a b m ca ∨ i = .vstt r a b m ca) →
      ((32 ≤ r.val ∨ 32 ≤ a.val) → vpStep s.cur p s = vpStops s h vs p v causeIllegal 1 0) ∧
      (r.val < 32 → a.val < 32 → (m || ca) = true → vpStep s.cur p s = vpStops s h vs p v causeIllegal 2 0) ∧
      (m = false → ca = false → ∀ (x y : XReg) (o : Int), x.val = r.val → y.val = a.val →
        o = (h'.getX y).toInt + (h'.getX b).toInt →
        (¬ laneOk o 8 → vpStep s.cur p s = vpStops s h vs p v
          (if o < 0 ∨ 4096 < o + 8 then causeLtbound else causeMisalign) 0 (BitVec.ofInt 64 o)) ∧
        (laneOk o 8 → i = .vldt r a b m ca → vpStep s.cur p s = s.setHart s.cur (vpBecomes
          (vpWrites h s.tick p x (BitVec.ofNat 64 (h.laneRead s.tick (h.laneOf p) o.toNat 8))) vs p
          { v with idx := v.idx + 1 })) ∧
        (laneOk o 8 → i = .vstt r a b m ca →
          (∀ (q : Nat) (u : Vp), vs[q]? = some u → q ≠ p → ∀ j : Nat, j < 8 →
            (4096 * h.laneOf p + o.toNat + j) ∉ u.wrote) →
          ∃ wrote : List Nat, vpStep s.cur p s = s.setHart s.cur (vpBecomes
            (h.laneWrite (h.laneOf p) o.toNat 8 (h'.getU x)) vs p
            { v with idx := v.idx + 1, wrote := wrote }))))

/-- R230, R232, R235: when every virtual processor has joined or trapped, the run ends: with no trap the hart goes on at
PC + 4 outside lane-thread mode; else it takes one trap at the VFETCH, with the cause, the detail and the address of
the lowest-numbered processor that trapped, its number in TELEM. While one has not, the run does not end. A lane holds
two blocks, of its processors that run or wait on a fault: a processor that waits for a block its lane holds goes on in
that block, the one of the lowest-numbered holder; while the lane holds at most one other block it fetches its own; and
while the lane holds two others it waits. (A moment at which nothing can happen leaves the machine as it is, log entry
13; a hart that is to stop leaves it at the VFETCH, log entry 36.) -/
def Obligations.LaneRuns : Prop :=
  ∀ (s : State) (h : Hart) (k : Nat) (vs : List Vp), s.harts[k]? = some h → h.status = .running → h.run = some vs →
    (s.input = .laneRunJoin k →
      ((∀ v : Vp, v ∈ vs → v.state = .joined) →
        exec .laneRunJoin s = .next (settle k (.done ⟨{ h with lt := false, run := none }, s⟩))) ∧
      (∀ (before after : List Vp) (v : Vp) (cause detail : Nat) (addr : Word),
        vs = before ++ v :: after → (∀ u : Vp, u ∈ before → u.state = .joined) →
        v.state = .trapped cause detail addr →
        (∀ u : Vp, u ∈ after → u.state = .joined ∨ ∃ (c d : Nat) (a : Word), u.state = .trapped c d a) →
        h.stopAt = none →
        exec .laneRunJoin s = .next (deliverTrap k
          ⟨{ h with lt := false, run := none, vfetchAt := some h.pc }, s⟩
          { Trap.plain cause detail with addr := addr, elem := before.length })) ∧
      ((∃ v : Vp, v ∈ vs ∧ (v.state = .ready ∨ v.state = .waitFault ∨
            ∃ (a : Word) (n : Nat), v.state = .waitBlock a n ∨ v.state = .faultBlock a n)) →
        exec .laneRunJoin s = .next s)) ∧
    (∀ (p : Nat) (v : Vp) (at_ : Word) (n : Nat), s.input = .laneBlockReady k p → vs[p]? = some v →
      v.state = .waitBlock at_ n →
      (∀ (q : Nat) (u : Vp), holdsFor h vs p q u → u.block = at_ → u.words.length = n →
        (∀ (q' : Nat) (u' : Vp), q' < q → holdsFor h vs p q' u' → ¬ (u'.block = at_ ∧ u'.words.length = n)) →
        exec .laneBlockReady s = .next (s.setHart k
          (vpBecomes h vs p { v with block := at_, words := u.words, idx := 0, state := .ready }))) ∧
      ((∀ (q : Nat) (u : Vp), holdsFor h vs p q u → ¬ (u.block = at_ ∧ u.words.length = n)) →
        ((∀ (q q' : Nat) (u u' : Vp), holdsFor h vs p q u → holdsFor h vs p q' u' →
            u.block = u'.block ∧ u.words = u'.words) →
          ∀ (ws : List (BitVec 32)) (c : Ctx),
          Ctx.fetchBlock ⟨{ h with sentAt := v.sentAt, sentPage := v.sentPage, timedOut := v.timedOut }, s⟩ k at_ n =
            .ok (ws, c) →
          exec .laneBlockReady s = .next (c.s.setHart k
            (vpBecomes { c.h with sentAt := h.sentAt, sentPage := h.sentPage, timedOut := h.timedOut } vs p
              { v with block := at_, words := ws, idx := 0, state := .ready }))) ∧
        ((∃ (q q' : Nat) (u u' : Vp), holdsFor h vs p q u ∧ holdsFor h vs p q' u' ∧
            ¬ (u.block = u'.block ∧ u.words = u'.words)) →
          exec .laneBlockReady s = .next s)))

/-- R236: a loop test sets M0[e] for e < f and clears it for the other e < VL, f the first element whose condition
fails; with f = VL > 0 it branches back by off10 words, else falls through. The flags are those of every element; an
enabled one raises FPX at the lowest element that raised one, with M0 unchanged. -/
def Obligations.LoopTests : Prop :=
  ∀ (s : State) (h : Hart) (i : Instr) (a : VReg) (b : CmpOperand) (off : BitVec 10) (holds : Val → Val → Bool)
    (quiet : Bool),
    Issues i s h → whileForm i = some (a, b, off, holds, quiet) → h.stopAt = none → admitted (compareUse h s.tick a b) →
    ((∀ e : Nat, e < h.vl → h.enabledFlag (whileFlags h s.tick a b quiet e) = none) →
      ((∀ e : Nat, e < h.vl → holds (element h s.tick a e).toVal (compareOperand h s.tick a e b) = true) →
        exec i s = .next (if h.vl = 0 then finished s { h with vstart := 0 }
          else jumped s (whileDone h s.tick a b quiet h.vl) (h.pc - 4 * off.setWidth 64))) ∧
      (∀ f : Nat, f < h.vl → holds (element h s.tick a f).toVal (compareOperand h s.tick a f b) = false →
        (∀ e : Nat, e < f → holds (element h s.tick a e).toVal (compareOperand h s.tick a e b) = true) →
        exec i s = .next (finished s (whileDone h s.tick a b quiet f)))) ∧
    (∀ e flag : Nat, e < h.vl → (∀ e' : Nat, e' < e → h.enabledFlag (whileFlags h s.tick a b quiet e') = none) →
      h.enabledFlag (whileFlags h s.tick a b quiet e) = some flag →
      exec i s = .next (trapped s
        ((List.range h.vl).foldl (fun (h' : Hart) e' => h'.orFlags (whileFlags h s.tick a b quiet e')) h)
        (Trap.fpx flag e (some 0))))

/-- R238 to R242, R247: the engine instructions. CPY and COLL wait for a free tag and for room in the core's queue,
then take the lowest free tag, write its number to xd and start; a copy of length 0 frees its tag at once. A descriptor
of COLL at no multiple of 64 raises MISALIGN, one that R247 does not admit ILLEGAL, detail 5. CPYB takes its active
commands in order, each unless its tag is not free or the queue is full, and reports in md; a reserved bit in one raises
ILLEGAL, detail 5, before its tag is looked at (R98). EWAIT and ETST wait for and report on a tag; a failed tag's cause
goes to TVEC whatever it is, and frees the tag. (That CPYB reads its commands whatever its tag, and that STATUS of COLL
must be a multiple of 16, are log entry 32; the place of a transfer in its hart's program order, `nextSeq`, is the
model's, log entry 31.) -/
def Obligations.EngineTags : Prop :=
  ∀ (s : State) (h : Hart),
    (∀ d a b n : XReg, Issues (.cpy d a b n) s h →
      (((∀ t : Slot, h.tags[t] ≠ .free) ∨ ¬ queueHasRoom s h) →
        exec (.cpy d a b n) s = .next (settle s.cur (.hold ⟨h, s⟩))) ∧
      (∀ t : Slot, lowestFree h t → queueHasRoom s h → h.getU n = 0 →
        exec (.cpy d a b n) s = .next (finished s (h.setX d (BitVec.ofNat 64 t.val)))) ∧
      (∀ t : Slot, lowestFree h t → queueHasRoom s h → h.getU n ≠ 0 →
        exec (.cpy d a b n) s = .next (finished s
          ((startsTransfer h t (.copy (h.getU a) (h.getU b) (h.getU n) false)).setX d (BitVec.ofNat 64 t.val))))) ∧
    (∀ (d a : XReg) (v : Nat) (c : Ctx) (x : CollDesc), Issues (.coll d a) s h →
      (h.getU a % 64 ≠ 0 →
        exec (.coll d a) s = .next (trapped s h { Trap.plain causeMisalign 0 with addr := h.getX a })) ∧
      (h.getU a % 64 = 0 → Ctx.loadDoubles ⟨h, s⟩ (h.getU a) 8 = .ok (v, c) →
        x = { collDesc v with srcLen := c.collSrcLen (collDesc v) } →
        (¬ Admitted v c.s.fab.dord (c.s.classOf c.h) →
          exec (.coll d a) s = .next (deliverTrap s.cur c (Trap.illegal 5))) ∧
        (Admitted v c.s.fab.dord (c.s.classOf c.h) →
          ((∀ t : Slot, c.h.tags[t] ≠ .free) ∨ c.queueRoom s.cur = false) →
          exec (.coll d a) s = .next (settle s.cur (.hold ⟨h, s⟩))) ∧
        (∀ t : Slot, Admitted v c.s.fab.dord (c.s.classOf c.h) → lowestFree c.h t →
          c.queueRoom s.cur = true → NoTransfers c.h →
          exec (.coll d a) s = .next (settle s.cur (.done
            ⟨(c.startColl t x).h.setX d (BitVec.ofNat 64 t.val), (c.startColl t x).s⟩)) ∧
          ∃ st : CollStart, (c.startColl t x).h = startsTransfer c.h t (.coll x st) ∧
            st.hcnt = c.s.hall.hcnt ∧ st.ports = c.s.portCounts))) ∧
    (∀ (d : MReg) (a : VReg), Issues (.cpyb d a) s h →
      ∀ active : List (Nat × Command),
      active = ((List.range (h.vl / 4)).filter (fun i => h.mask s.tick 0 (4 * i))).map (fun i =>
        (i, h.command s.tick a i)) →
      ((∃ q : Nat × Command, q ∈ active ∧ q.2.bad = true) →
        exec (.cpyb d a) s = .next (trapped s h (Trap.illegal 5))) ∧
      ((∀ q : Nat × Command, q ∈ active → q.2.bad = false) → h.stopAt = none → rawTag h s.tick a → h.ew = 64 →
        (h.kind s.tick a = .raw ∨ h.kind s.tick a = .int true 64 ∨ h.kind s.tick a = .int false 64) →
        ∀ r : Hart × List Nat, r = takeBatch
          (32 - ((withIndex 0 s.harts).map (fun (j, o) =>
            if j ≠ s.cur ∧ o.core = h.core then (o.tags.toList.filter TagState.isBusy).length else 0)).sum)
          active h (h.tags.toList.filter TagState.isBusy).length [] →
        exec (.cpyb d a) s = .next (finished s { (List.range (h.vl / 4)).foldl (fun (h' : Hart) i =>
          h'.setMask d i (r.2.contains i)) r.1 with vstart := 0 }))) ∧
    (∀ a : XReg, Issues (.ewait a) s h →
      (16 ≤ h.getU a → exec (.ewait a) s = .next (trapped s h (Trap.illegal 5))) ∧
      (∀ t : Slot, h.getU a = t.val →
        (h.tags[t] = .free → exec (.ewait a) s = .next (finished s h)) ∧
        (∀ f : Flight, h.tags[t] = .busy f → exec (.ewait a) s = .next (settle s.cur (.hold ⟨h, s⟩))) ∧
        (∀ (cause detail : Nat) (addr : Word), h.tags[t] = .failed cause detail addr →
          exec (.ewait a) s = .next (trapped s { h with tags := h.tags.set t .free }
            { Trap.plain cause detail with addr := addr, elem := t.val, toTvec := true })))) ∧
    (∀ d a : XReg, Issues (.etst d a) s h →
      (16 ≤ h.getU a → exec (.etst d a) s = .next (trapped s h (Trap.illegal 5))) ∧
      (∀ t : Slot, h.getU a = t.val → exec (.etst d a) s = .next (finished s (h.setX d
        (match h.tags[t] with
          | .free => 0
          | .busy _ => 1
          | .failed cause _ _ => BitVec.ofNat 64 (256 + cause))))))

/-- R243 to R246: the transforms. (Log entry 35: the pair at IN is pair IN ÷ 2, VXFE.RLE leaves RUN as it was, and a bad
header is met before a full output.) The fixed-length modes run from VSTART through the elements they write; the
variable-length modes run from XFRI, unit by unit, until their input is used up or their output is full, and leave
XFRI there; both leave VSTART 0 and give vd its tag. A bad sector header raises SHAPE, detail 3, with XFRI at it.
Under VL = 0 nothing is written. -/
def Obligations.Transforms : Prop :=
  ∀ (s : State) (h : Hart) (i : Instr), Issues i s h → h.stopAt = none →
    (∀ F : Fixed, fixedForm h s.tick i = some F → F.ok →
      exec i s = .next (finished s (if h.vl = 0 then { h with vstart := 0 }
        else { F.finish ((fromTo h.vstart F.count).foldl F.write h) with vstart := 0 }))) ∧
    (∀ F : Variable, variableForm h s.tick i = some F → F.ok →
      (h.vl = 0 → exec i s = .next (finished s { h with vstart := 0 })) ∧
      (h.vl ≠ 0 → ∀ (h' : Hart) (x : Xfr), Units F.unit h h.xfr h' x →
        (¬ F.bad h' x →
          exec i s = .next (finished s { (h'.setTag F.d F.tag).setXfr x with vstart := 0 })) ∧
        (F.bad h' x → exec i s = .next (trapped s (h'.setXfr x)
          { Trap.plain causeShape 3 with elem := x.inp, idx := some 0 }))))

/-! ## What the hall, the host, the fabric and the power controller do -/

namespace Sys2Proof.Claims

/-- A hart that is hard-stopped (R292, R364): WP = 1, YREQ = 0, nothing of it waits, and its record holds STATE and the
resume PC (`Obligations.ContextRecords` says what else). -/
def stoppedHart (s : State) (h : Hart) (status : HartStatus) (state : Nat) (rpc : Word) : Hart :=
  let h' : Hart := { h with
    wp := true
    yreq := false
    yieldAt := none
    stopAt := none
    replay := none
    waits := false
    sentAt := none
    sentPage := none
    mattAt := none }
  { h' with status := status, record := some (h'.save ((s.cyc[h.core]?).getD 0) state rpc) }

/-- The machine whose hart k has been hard-stopped: HSTOPS counts it. -/
def stoppedAs (s : State) (k : Nat) (h : Hart) (status : HartStatus) (state : Nat) (rpc : Word) : State :=
  { s with
    harts := s.harts.set k (stoppedHart s h status state rpc)
    hall := { s.hall with hstops := s.hall.hstops + 1 } }

/-- A hart that stands between two instructions with none unfinished: outside lane-thread mode and a replay, and not at
a window instruction that has issued under a prefix and waits. -/
structure StandsBetween (s : State) (h : Hart) : Prop where
  scalar : h.lt = false
  noReplay : h.replay = none
  noWindow : h.waits = false ∨ h.pfx = none ∨
    ∀ (w : Nat) (c : Ctx), Ctx.fetch ⟨h, s⟩ h.pc = .ok (w, c) → windowMajor (w / 2 ^ 26 % 64) = false

/-- A hard stop between two instructions (R292): STATE 2, the window empty; a prefix is kept for its successor, but not
when that has issued and waits. -/
def stoppedBetween (s : State) (k : Nat) (h : Hart) : State :=
  stoppedAs s k { shutHart h with pfx := if h.waits then none else h.pfx } .stopped 2 h.pc

/-- A hart that has ended (R120): every register as before a launch, every allocation given back; what stays is who it
was and its engine tags, with the scratchpad while one of them is busy. -/
def closedHart (h : Hart) : Hart :=
  let base : Hart := { Hart.reset with
    launch := h.launch
    core := h.core
    hartid := h.hartid
    gangid := h.gangid
    gangn := h.gangn
    tags := h.tags
    livev := h.livev }
  if h.tags.toList.any TagState.isBusy then { base with scratch := h.scratch, scratchSize := h.scratchSize } else base

/-- Every hart of launch l has ended, and the launch keeps its first failure (R343). -/
def GangEnded (s t : State) (l : Nat) (f : Failure) : Prop :=
  (∀ (j : Nat) (o : Hart), s.harts[j]? = some o → o.launch = l → o.status ≠ .ended →
    t.harts[j]? = some (closedHart o)) ∧
  (∀ (j : Nat) (o : Hart), s.harts[j]? = some o → o.launch ≠ l →
    ∃ o' : Hart, t.harts[j]? = some o' ∧ o'.status = o.status) ∧
  (∀ L : Launch, s.hall.launches[l]? = some L →
    ∃ L' : Launch, t.hall.launches[l]? = some L' ∧ L'.failure = L.failure.or (some f))

/-- What a launch reports when hart h ends on the trap in its trap registers (R343, R345). -/
def trapFailure (h : Hart) (status : Nat) : Failure :=
  ⟨status, h.tcause.toNat % 2 ^ 8, h.hartid.toNat, h.tcause.toNat % 2 ^ 12, h.tpc⟩

/-- The hall's answer to a SYSC: x5 in the record, the resume PC at TPC + 4; the hart then waits for resumption
like any stopped hart (R366). -/
def answered (s : State) (k : Nat) (h : Hart) (cr : CtxRecord) (x5 : Word) : State :=
  s.setHart k { h with
    status := .stopped
    pc := h.tpc + 4
    record := some { cr with x := cr.x.set 5 x5, rpc := h.tpc + 4 } }

/-- The hall's walk of a page for PREFAULT: as for an access of the hart, but no access to another device is lost. -/
def prefaultWalk (s : State) (h : Hart) (va : Nat) : WalkEnd × State :=
  s.walk (h.core / 4) (s.asidOf h) va ⟨s.dmPaging h, false, s.linkOpen (s.classOf h)⟩

/-- A walk has met a page that PREFAULT could not map: its list gives no frame (reason 2), data is uncorrectable or out
of reach, or what stands there is a placeholder still. -/
def cannotMap (cause e reason level : Nat) : Prop :=
  reason = 2 ∨ cause = causeUncorr ∨ (level = 4 ∧ entryMeaning 4 e = .placeholder)

/-- What PREFAULT does of n pages from address `va` (R366, R379): a page that is mapped, or that lies in no
device-managed region (log entry 42), is passed; the first that could not be mapped is the last, its cause the answer,
and the hall reports it with SRC 3 (R381). -/
inductive Prefaults (k : Nat) (h : Hart) : (n va : Nat) → State → State → Nat → Prop where
  | none {va : Nat} {s : State} : Prefaults k h 0 va s s 0
  | outside {n va x5 : Nat} {s t : State} (out : va < 0x1000000 ∨ 2 ^ 56 ≤ va)
      (rest : Prefaults k h n (va + 0x10000) s t x5) : Prefaults k h (n + 1) va s t x5
  | mapped {n va x5 level e : Nat} {s s' t : State} (low : 0x1000000 ≤ va) (high : va < 2 ^ 56)
      (leaf : prefaultWalk s h va = (.leaf level e, s')) (rest : Prefaults k h n (va + 0x10000) s' t x5) :
      Prefaults k h (n + 1) va s t x5
  | notManaged {n va x5 cause e reason level : Nat} {s s' t : State} (low : 0x1000000 ≤ va) (high : va < 2 ^ 56)
      (fault : prefaultWalk s h va = (.fault cause e reason level, s')) (other : ¬ cannotMap cause e reason level)
      (rest : Prefaults k h n (va + 0x10000) s' t x5) : Prefaults k h (n + 1) va s t x5
  | fails {n va cause e reason level : Nat} {s s' : State} (low : 0x1000000 ≤ va) (high : va < 2 ^ 56)
      (fault : prefaultWalk s h va = (.fault cause e reason level, s')) (unmapped : cannotMap cause e reason level) :
      Prefaults k h (n + 1) va s { s' with hall := { s'.hall with
        faults := s'.hall.faults ++ [⟨s'.hall.nextFid, k, .prefault, cause, BitVec.ofNat 64 va,
          ⟨0, BitVec.ofNat 64 e, reason, level, true⟩, false, false⟩]
        nextFid := s'.hall.nextFid + 1 } } cause

/-- What an instruction that stands next does, taken by an event on its behalf. -/
def NextDoes (s : State) (k : Nat) (event : Instr) (i : Instr) : Prop :=
  ∀ s' : State, fetchHart k { s with cur := k } = .run i s' →
    ∃ t : State, exec event s = .next t ∧ exec i s' = .next t

/-- The width of a saved register (R368): its tag's, and EW for a raw or an undefined tag and for one with ILL = 1. -/
def savedWidth (ew : Nat) (tag : Option (BitVec 7)) : Nat :=
  match tag with
  | some t => if t.getLsbD 6 then ew else (kindOf (t.toNat % 64)).width ew
  | none => ew

/-- Where position e of a register of width w lies in the ordinary layout (R23, R68): element e below VL; from VL on
position e of whole rows. -/
def placeOf (h : Hart) (w e : Nat) : Spot :=
  let p := max w h.ew
  let row := h.width * 2048 / p
  let (r, c) := rowCol (if e < h.vl then (if w ≤ h.ew then h.vcols else min h.vcols row) else row) e
  spotAt p r c

/-- The machine with its queue q changed. -/
def withQueue (s : State) (q : Nat) (b : Queue) : State := { s with hall := s.hall.setQueue q b }

/-- The hall can use the word at `pa` in traffic of class `cls`: over the link while it is up and holds the class open
towards the host (R338, R339), or in a memory that is reached (R395); and its data is good (R403). -/
def hallUses (s : State) (cls pa : Nat) : Prop :=
  (if isHostAddr pa = true then s.link.up = true ∧ ∀ c : TrafficClass, c.val = cls → s.link.holdOut[c] = false
    else s.reaches pa = true) ∧ pa / 32 ∉ s.poison

/-- A class may be used by the host: the link is up and does not hold it (R338, R339). -/
def hostMay (s : State) (cls : TrafficClass) : Prop := s.link.up = true ∧ s.link.holdIn[cls] = false
/-- The host can send a transaction of some class. -/
def hostOpen (s : State) : Prop := s.link.up = true ∧ ∃ cls : TrafficClass, s.link.holdIn[cls] = false

/-- A size and place that the memory window admits (R336). -/
def windowOk (off size : Nat) : Prop :=
  off + size ≤ 2 ^ 39 ∧
  (((size = 1 ∨ size = 2 ∨ size = 4 ∨ size = 8) ∧ off % size = 0) ∨
   (size % 16 = 0 ∧ 16 ≤ size ∧ size ≤ 256 ∧ off % 16 = 0))

/-- The base of this device's memory (R394). -/
def baseOf (s : State) : Nat := s.fab.dord * 2 ^ 39

/-- No sector of a range is poisoned. -/
def sound (s : State) (a n : Nat) : Prop := ∀ b : Nat, a ≤ b → b < a + n → b / 32 ∉ s.poison

/-- The machine with the outside's answer. -/
def answers (s : State) (bytes : List Byte) : State := { s with link := { s.link with answer := bytes } }

/-- The new value of an atomic of n bits (R134). -/
def atomicValue (op : AtomOp) (n old x e : Nat) : Nat :=
  match op with
  | .add => (old + x) % 2 ^ n
  | .incb => if old < x % 2 ^ n then old + 1 else old
  | .cas => if old = e % 2 ^ n then x % 2 ^ n else old
  | .swp => x % 2 ^ n
  | .min => if toSigned n old ≤ toSigned n x then old else x % 2 ^ n
  | .max => if toSigned n x ≤ toSigned n old then old else x % 2 ^ n
  | .and => old &&& (x % 2 ^ n)
  | .or => old ||| (x % 2 ^ n)

/-- The head node n leaves the list at `a` (R136). -/
def unlinked (s : State) (a n : Nat) : State :=
  let next := s.physRead n 8
  let s1 := s.physWrite a 8 next
  let s2 := if next = 0 then s1.physWrite (a + 8) 8 0 else s1
  s2.physWrite n 8 0

/-- The old tail of the list at `b` once node n has left the list at `a`. -/
def tailSeen (s : State) (a b n : Nat) : Nat := if n = 0 then 0 else (unlinked s a n).physRead (b + 8) 8

/-- The node n moves from the head of the list at `a` to the tail of the list at `b` (R136). -/
def nodeMoved (s : State) (a b n : Nat) : State :=
  let s1 := unlinked s a n
  let t := s1.physRead (b + 8) 8
  (s1.physWrite (if t = 0 then b else t) 8 n).physWrite (b + 8) 8 n

/-- The hall can move n, the head node of the list at `a`, to the tail of the list at `b`: it can use every word that
the move names (R136). -/
structure CanMove (s : State) (cls a b n : Nat) : Prop where
  head : n = s.physRead a 8
  some : n ≠ 0
  lists : hallUses s cls a ∧ hallUses s cls b
  node : hallUses s cls n
  tail : (unlinked s a n).physRead (b + 8) 8 = 0 ∨ hallUses s cls ((unlinked s a n).physRead (b + 8) 8)

/-- An invalidation of `count` pages of 64 KiB from `addr`, 0 for all, meets the span at `path` of a level (R378). -/
def covers (level path addr count : Nat) : Prop :=
  count = 0 ∨ (path * 2 ^ levelShift level < addr + count * 0x10000 ∧ addr < (path + 1) * 2 ^ levelShift level)

/-- Pin `pin` of hart k stands for page p: of a transfer that has translated it, or of an access of the hart or of a
virtual processor that has been sent (R378). -/
inductive Uses (k : Nat) (h : Hart) (p : PinnedPage) : Pin → Prop where
  | transfer (t : Slot) (f : Flight) (busy : h.tags[t] = .busy f) (page : p ∈ f.pages) :
      Uses k h p (.transfer k t.val f.seq)
  | hart (sent : h.sentPage = some p) : Uses k h p (.hart k p)
  | vp (vs : List Vp) (i : Nat) (v : Vp) (run : h.run = some vs) (mine : vs[i]? = some v) (sent : v.sentPage = some p) :
      Uses k h p (.vp k i p)

/-- What a pin of hart k stands for is still under way. -/
inductive Holds (k : Nat) (h : Hart) : Pin → Prop where
  | transfer (t : Slot) (f : Flight) (busy : h.tags[t] = .busy f) : Holds k h (.transfer k t.val f.seq)
  | hart (p : PinnedPage) (sent : h.sentPage = some p) : Holds k h (.hart k p)
  | vp (vs : List Vp) (i : Nat) (v : Vp) (p : PinnedPage) (run : h.run = some vs) (mine : vs[i]? = some v)
      (sent : v.sentPage = some p) : Holds k h (.vp k i p)

/-- The machine t after v has been written to the register at an offset of the window (R335, R345, R352, R373, R378,
R382, R384, R388, R391, R392, R405): the named field of v, nothing where the register is read-only or not assigned, or
where v lies outside the range that the spec gives (log entry 55). -/
structure RegisterWritten (s : State) (off v : Nat) (t : State) : Prop where
  ywin : off = 0x1018 → t = if v % 2 ^ 32 = 0 then s else { s with hall := { s.hall with ywin := v % 2 ^ 32 } }
  age : off = 0x1020 → t = { s with hall := { s.hall with age := v % 2 ^ 48 } }
  cl0q : off = 0x1028 → t = { s with hall := { s.hall with cl0q := BitVec.ofNat 32 v } }
  atbase : off = 0x1100 → t = { s with hall := { s.hall with atbase := BitVec.ofNat 64 v } }
  atlim : off = 0x1108 → t = if 4096 < v then s else { s with hall := { s.hall with atlim := v } }
  ivchan : off = 0x1110 → t = { s with hall := { s.hall with ivchan := BitVec.ofNat 64 v } }
  ivaddr : off = 0x1118 → t = { s with hall := { s.hall with ivaddr := BitVec.ofNat 64 v } }
  qlist : ∀ q : Nat, q < 1024 → off = 0x100018 + 64 * q → t =
    if s.sec.stage = 5 ∧ (s.hall.queue q).en = false
    then withQueue s q { s.hall.queue q with qlist := BitVec.ofNat 64 v } else s
  done : ∀ q : Nat, q < 1024 → off = 0x100020 + 64 * q → t =
    if s.sec.stage = 5 ∧ (s.hall.queue q).en = false
    then withQueue s q { s.hall.queue q with done := BitVec.ofNat 64 v } else s
  dord : off = 0x200008 →
    if s.fab.den = true ∨ v % 2 ^ 7 = s.fab.dord then t = s
    else t = { s with mem := t.mem, poison := t.poison, fab := { s.fab with dord := v % 2 ^ 7 } }
  cto : off = 0x200020 → t = if v % 2 ^ 32 = 0 then s else { s with fab := { s.fab with cto := v % 2 ^ 32 } }
  mbuf : off = 0x200028 →
    t = if 4096 ≤ v ∧ v ≤ 0x4000000 then { s with fab := { s.fab with mbuf := v } } else s
  route : ∀ d : Nat, d < 128 → off = 0x201000 + 8 * d →
    t = { s with harts := t.harts, fab := { s.fab with routes := s.fab.routes.set d (BitVec.ofNat 24 v) } }
  reclen : off = 0x300040 → t = { s with sec := { s.sec with reclen := v } }
  anonce : ∀ i : Fin 4, off = 0x300080 + 8 * i.val →
    t = { s with sec := { s.sec with anonce := s.sec.anonce.set i (BitVec.ofNat 64 v) } }
  aout : off = 0x3000A0 → t = { s with sec := { s.sec with aout := BitVec.ofNat 64 v } }
  plim : off = 0x400040 → t = if 1000 ≤ v ∧ v ≤ 2800 then { s with rel := { s.rel with plim := v } } else s
  other : off ∉ [0x1018, 0x1020, 0x1028, 0x1100, 0x1108, 0x1110, 0x1118, 0x200008, 0x200020, 0x200028, 0x300040,
      0x300080, 0x300088, 0x300090, 0x300098, 0x3000A0, 0x400040] →
    ¬ (0x100000 ≤ off ∧ off < 0x110000 ∧ (off % 64 = 0x18 ∨ off % 64 = 0x20)) →
    ¬ (0x201000 ≤ off ∧ off < 0x201400) → t = s

/-- The hall's faults once the one named `fid` has had its answer: where its record is still to be posted it stays for
that (R344, R381). -/
def leftAfter (fid : Nat) (fs : List HallFault) : List HallFault :=
  (fs.filter (fun g => !(g.fid == fid && g.posted))).map (fun g =>
    if g.fid == fid then { g with closed := true } else g)

/-- Every register at the value R20 starts a hart with, but for X10 and HARTID, GANGID, GANGN, LGRP, which the launch
gives. -/
structure StartRegisters (h : Hart) : Prop where
  x : ∀ r : XReg, r ≠ 10 → h.getX r = 0
  v : ∀ r : VReg, h.v[r].tag = some 0 ∧ ∀ key : Nat, h.v[r].words.get key = some 0
  m : ∀ r : MReg, ∀ tick e : Nat, h.mask tick r e = false
  slots : ∀ i : Slot, h.op[i] = none
  lanes : ∀ key : Nat, h.lanes.get key = some 0
  tags : ∀ t : Slot, h.tags[t] = .free
  shape : h.vtype = 3 ∧ h.vrows = 1 ∧ h.vcols = 0 ∧ h.vstart = 0 ∧ h.mvl = 128 ∧ h.livev = 0
  status : h.wp = false ∧ h.ma = false ∧ h.lt = false ∧ h.pfx = none ∧ h.cwo = 0 ∧ h.yreq = false ∧ h.pend = none ∧
    h.offer = ⟨0, 0⟩
  numeric : h.fpcsr = 0 ∧ h.sb = 0 ∧ h.rkey = 0 ∧ h.athr = 0xFF800000
  pass : h.passst = 0 ∧ h.pseq = 0 ∧ h.xfri = 0 ∧ h.mgrant = 0
  trap : h.tvec = 0 ∧ h.tpc = 0 ∧ h.tcause = 0 ∧ h.taddr = 0 ∧ h.telem = 0 ∧ h.spc = 0
  window : h.win = Vector.replicate 4 0
  scratch : ∀ tick a : Nat, h.scratch.read tick a = Memory.empty.read tick a
  sdata : ∀ tick a : Nat, h.sdata.read tick a = Memory.empty.read tick a

/-- The first doubleword of a collective's status (R254). -/
def statusLow (m : Merged) : Nat :=
  m.code + m.flags.toNat * 2 ^ 16 + (if m.ovf then 2 ^ 21 else 0) + (if m.dense then 2 ^ 22 else 0) +
    m.refused * 2 ^ 24 + m.nout * 2 ^ 32

/-- The second: REASON, PORT, whether ORD is valid, ORD, and the flit replays since its start (log entry 34). -/
def statusHigh (s : State) (st : CollStart) (reason port : Nat) (ord : Option Nat) : Nat :=
  ord.getD 0 + (if ord.isSome then 2 ^ 7 else 0) + port * 2 ^ 8 + reason * 2 ^ 16 + s.replaysSince st * 2 ^ 32

/-- The tag of a transfer of hart k has come to a state. -/
def TagIs (t : State) (k : Nat) (tag : Slot) (st : TagState) : Prop :=
  ∃ h : Hart, t.harts[k]? = some h ∧ h.tags[tag] = st

/-- A collective ends (R254, R271): once DST and the status can be written whole, `out` is written to DST, or with
`spoil` DST becomes undefined; then the status's second doubleword is written and then its first; the tag is free, and
CODE 1 and 3 are counted. Where one of the two checks meets a fault that the hall resolves, nothing is written, and the
collective stays under way. -/
def CollEnds (r : Result) (k : Nat) (t : Slot) (c : Ctx) (d : CollDesc) (out : List Byte) (spoil : Bool)
    (high low code : Nat) : Prop :=
  (∀ c1 c2 c3 c4 c5 : Ctx, c.checkRange d.dst out = .ok ((), c1) →
    c1.checkRange d.status (leBytes 8 low ++ leBytes 8 high) = .ok ((), c2) →
    Ctx.writeRange (if spoil then c2.spoilRange d.dst d.dstLen else c2) d.dst out = .ok ((), c3) →
    c3.writeRange (d.status + 8) (leBytes 8 high) = .ok ((), c4) →
    c4.writeRange d.status (leBytes 8 low) = .ok ((), c5) →
    ∃ t' : State, r = .next t' ∧ t'.mem = c5.s.mem ∧ TagIs t' k t .free ∧ t'.fab = { c5.s.fab with
      sfault := c5.s.fab.sfault + (if code = 1 then 1 else 0)
      ctout := c5.s.fab.ctout + (if code = 3 then 1 else 0) }) ∧
  (∀ (g : MemFault) (c2 : Ctx), g.info.resolvable = true → g.cause ≠ causeUncorr →
    (c.checkRange d.dst out = .error (.fault g c2) ∨ ∃ c1 : Ctx, c.checkRange d.dst out = .ok ((), c1) ∧
      c1.checkRange d.status (leBytes 8 low ++ leBytes 8 high) = .error (.fault g c2)) →
    ∃ t' : State, r = .next t' ∧ t'.mem = c2.s.mem ∧ ∃ f : Flight, TagIs t' k t (.busy f))

/-- A collective that has met a case of R400 (CODE, REASON, PORT, ORD) ends with it: with CODE 5 DST becomes undefined,
with CODE 3 it stays; the rest of its status is zero. -/
def CaseEnds (r : Result) (s : State) (h : Hart) (k : Nat) (t : Slot) (f : Flight) (d : CollDesc) (st : CollStart)
    (met : Nat × Nat × Nat × Option Nat) : Prop :=
  CollEnds r k t ⟨{ h with held := f.pages }, s⟩ d [] (met.1 == 5)
    (statusHigh s st met.2.1 met.2.2.1 met.2.2.2) met.1 met.1

/-- The machine after a step's time and with one turn taken off the agenda. -/
def turnTaken (s : State) (rest : List Turn) : State := { s.passTime with agenda := rest }

end Sys2Proof.Claims

/-- R15, R16, R120, R124, R141, R235, R242, R292, R343, R355, R356, R362 to R365: what the hall does to a hart. It may
withdraw a pending stall or give one it may give (R356); a SETVL that stands next adopts it, or yields with YREQ = 1;
the MATT that stands next is answered; a halting hart whose transfers are over ends, and its launch completes with it
where it was the last, or fails with STATUS 6 where it holds a failed tag; a barrier that every hart of a gang has
reached completes for each that waits; a class 0 launch's pre-emption stops a hart at once, between instructions or
inside its next one, another asks for a yield, and the window's end stops it, or ends a hart whose lane-thread run has
not joined; a narrowing that is not adopted in time is withdrawn, and where the hall then pre-empts the hart's gang it
is stopped whole; a stopped hart resumes from its record. (The model's choices: what a stop inside the chain window
leaves, log entries 14 and 54, and what it notes of the span, log entry 62; DETAIL at the window's end, log entry 36;
which stalls may be pending, which pre-emption a late narrowing calls for, and the whole gang's stop, log entry 38;
what outlives a hart, log entry 37.) -/
def Obligations.HartEvents : Prop :=
  ∀ (s : State) (h : Hart) (k : Nat), s.harts[k]? = some h →
    (s.input = .stallChangeRequest k none → h.status = .running → h.pend.isSome = true →
      exec .stallChangeRequest s = .next (s.setHart k { h with pend := none, pendAt := none })) ∧
    (∀ p : PendingStall, s.input = .stallChangeRequest k (some p) → h.status = .running →
      (s.stallOk k h p = false → exec .stallChangeRequest s = .next s) ∧
      (s.stallOk k h p = true →
        exec .stallChangeRequest s =
          .next (s.setHart k { h with pend := some p, offer := p, pendAt := some s.hall.hcnt }) ∧
        ∃ L : Launch, s.launchOf h = some L ∧
          p.base.toNat % 2 ^ p.size.toNat = 0 ∧ 2 ^ p.size.toNat ≤ L.req.maxw ∧
          (h.wp = true → h.width ≤ 2 ^ p.size.toNat) ∧
          (bitAt L.req.flags 0 = false → h.startSize ≤ p.size.toNat))) ∧
    (s.input = .stallAdoption k → h.canIssue = true → h.pend.isSome = true → h.yreq = false →
      (∀ d a : XReg, NextDoes s k .stallAdoption (.setvl d a)) ∧
      (∀ d a b : XReg, NextDoes s k .stallAdoption (.setvlx d a b))) ∧
    (s.input = .setvlYield k → h.canIssue = true → h.yreq = true →
      (∀ d a : XReg, NextDoes s k .setvlYield (.setvl d a)) ∧
      (∀ d a b : XReg, NextDoes s k .setvlYield (.setvlx d a b))) ∧
    (s.input = .matrixArbitration k → h.canIssue = true → h.ma = false →
      ∀ d a b : XReg, NextDoes s k .matrixArbitration (.matt d a b)) ∧
    (s.input = .hartEnd k → h.status = .halting → NoTransfers h →
      ((∀ (t : Slot) (c d : Nat) (a : Word), h.tags[t] ≠ .failed c d a) →
        ∃ t : State, exec .hartEnd s = .next t ∧ t.harts[k]? = some (closedHart h) ∧
          ∀ L : Launch, s.launchOf h = some L → L.phase = .started →
            (∀ (j : Nat) (o : Hart), s.harts[j]? = some o → o.launch = h.launch → j ≠ k →
              o.status = .ended ∧ NoTransfers o) →
            ∃ st d : Nat, (L.failure = none → st = 0 ∧ d = 0) ∧
              (∀ f : Failure, L.failure = some f → st = f.status ∧ d = f.detail) ∧
              t.hall.due = s.hall.due ++ [⟨L.req.cpl, .completion h.launch st d⟩] ∧
              t.hall.launches[h.launch]? = some { L with phase := .completing, status := st }) ∧
      (∀ (t : Slot) (c d : Nat) (a : Word), h.tags[t] = .failed c d a →
        (∀ u : Slot, u < t → ∀ (c' d' : Nat) (a' : Word), h.tags[u] ≠ .failed c' d' a') →
        ∃ t' : State, exec .hartEnd s = .next t' ∧ GangEnded s t' h.launch ⟨6, c, h.hartid.toNat, c, h.pc⟩)) ∧
    (s.input = .barrierCompletion h.launch → h.status = .running → h.arrived = true → h.stopAt = none →
      h.replay = none →
      (∀ (j : Nat) (o : Hart), s.harts[j]? = some o → o.launch = h.launch →
        o.status = .ended ∨ h.barriers < o.barriers ∨ (o.barriers = h.barriers ∧ o.arrived = true)) →
      ∃ t : State, exec .barrierCompletion s = .next t ∧ t.harts[k]? = some
        { issuedHart h with barriers := h.barriers + 1, arrived := false, pc := h.pc + 4 }) ∧
    (∀ at_ : Option Nat, s.input = .hardStop k at_ → h.status = .running → h.stopAt = none →
      s.stopsAtOnce k h = true →
      (at_ = none → StandsBetween s h → exec .hardStop s = .next (stoppedBetween s k h)) ∧
      (∀ (w : Nat) (c : Ctx), at_ = none → h.lt = false → h.replay = none → h.drain = none → h.waits = true →
        h.pfx.isSome = true → Ctx.fetch ⟨h, s⟩ h.pc = .ok (w, c) → windowMajor (w / 2 ^ 26 % 64) = true →
        exec .hardStop s = .next (stoppedAs s k (Ctx.noteSpan ⟨h, s⟩ { h with
          win := #v[BitVec.ofNat 64 (2 ^ 63 + 2 ^ 48 + 2 * 2 ^ 40 + h.vstart % 2 ^ 17), 0, 0, 0]
          windowed := true
          pfx := none
          ahead := []
          pc := h.pc - 4 } (h.pc - 4)) .stopped 3 (h.pc - 4))) ∧
      (∀ n : Nat, at_ = some n → h.lt = false →
        exec .hardStop s = .next (s.setHart k { h with stopAt := some n })) ∧
      (h.lt = true → ∃ n : Nat, exec .hardStop s = .next (s.setHart k { h with
        stopAt := some n, yieldAt := h.yieldAt.or (some s.hall.hcnt) }))) ∧
    (s.input = .yieldRequest k → h.status = .running → h.yreq = false → s.asksYield k h = true →
      exec .yieldRequest s = .next (s.setHart k { h with yreq := true, yieldAt := some s.hall.hcnt })) ∧
    (∀ t : Word, s.input = .yieldWindowExpiry k → h.status = .running → h.yreq = true → h.yieldAt = some t →
      s.hall.ywin ≤ (s.hall.hcnt - t).toNat →
      (h.run = none → StandsBetween s h → exec .yieldWindowExpiry s = .next (stoppedBetween s k h)) ∧
      (h.run.isSome = true → ∃ t' : State, exec .yieldWindowExpiry s = .next t' ∧
        GangEnded s t' h.launch (trapFailure h 2))) ∧
    (∀ (p : PendingStall) (t : Word) (s' : State), s.input = .narrowingTimeout k → h.status = .running →
      h.pend = some p → p.size.toNat < h.size → h.pendAt = some t → s.hall.ywin ≤ (s.hall.hcnt - t).toNat →
      s' = s.setHart k { h with pend := none, pendAt := none } →
      ((∀ q : Preemption, q ∈ s.hall.preemptions → ∀ c : Claim, (k, c) ∉ q.victims) →
        (∀ l : Nat, l ∈ s'.hallOrder → s'.preempt l (fun vs => vs.contains h.launch) = none) →
        exec .narrowingTimeout s = .next s') ∧
      (((∃ (q : Preemption) (c : Claim) (L : Launch), q ∈ s.hall.preemptions ∧ (k, c) ∈ q.victims ∧
            s.hall.launches[q.launch]? = some L) ∨
          ∃ l : Nat, l ∈ s'.hallOrder ∧ (s'.preempt l (fun vs => vs.contains h.launch)).isSome = true) →
        ∃ t' : State, exec .narrowingTimeout s = .next t' ∧
          ∀ (j : Nat) (o : Hart), s.harts[j]? = some o → o.launch = h.launch → o.status = .running → o.lt = false →
            ∃ o' : Hart, t'.harts[j]? = some o' ∧ o'.status = .stopped ∧ o'.wp = true ∧ (j = k → o'.pend = none))) ∧
    (∀ (st : Stall) (cr : CtxRecord), s.input = .contextRestore k st → h.resumable = true → h.record = some cr →
      s.hallNext = some h.launch → s.resumeAdmits h.launch [st] = true →
      ∃ t : State, exec .contextRestore s = .next t ∧ t.harts[k]? = some (h.restore s.tick cr st))

/-- R141, R292, R364, R367 to R370: the context record. A hard stop sets WP and counts in HSTOPS, a yield clears it, its
window and YREQ and counts in YIELDS. The record holds the hart's state: STATE, WIDTH, the flags' content, SPC, the
resume PC, the prefix word, VL, X, the system registers in number order, the masks, the operator slots, the engine tags,
the matrix rows with MA = 1, the local image while no tag is busy, and for each register of LIVEV its tag and its live
positions, each as it stands, in the ordinary layout. A restore writes back what R370 says onto the new stall, leaves
everything else undefined, and replays the window that WIN0.V = 1 leaves. (Log entry 20 says where positions above VL
lie; the bytes are log entry 20's too.) -/
def Obligations.ContextRecords : Prop :=
  (∀ (s : State) (k : Nat) (h : Hart) (status : HartStatus) (state : Nat) (rpc : Word),
    s.hardStop k h status state rpc = stoppedAs s k h status state rpc) ∧
  (∀ (s : State) (k : Nat) (h h' : Hart),
    h' = { shutHart h with wp := false, yreq := false, yieldAt := none, stopAt := none } →
    s.yieldStop k h = { s with
      harts := s.harts.set k { h' with
        status := .yielded
        record := some (h'.save ((s.cyc[h.core]?).getD 0) 1 h.pc) }
      hall := { s.hall with yields := s.hall.yields + 1 } }) ∧
  (∀ (h : Hart) (cyc : Word) (state : Nat) (rpc : Word) (r : CtxRecord), r = h.save cyc state rpc →
    (r.state = state ∧ r.width = h.width ∧ r.wp = h.wp ∧ r.pfxWord = h.pfx ∧ r.spc = h.spc ∧ r.rpc = rpc ∧
      r.vls = h.vrows * h.vcols ∧ r.x = h.x) ∧
    (∀ n : Nat, n < 33 → r.sys[n]? = some (h.sysRead cyc n)) ∧
    (∀ i : MReg, r.masks[i.val]? = some h.m[i]) ∧
    (∀ i : Slot, r.slots[i.val]? = some (h.op[i].getD 0)) ∧
    (∀ t : Slot, r.tags[t.val]? = some (match h.tags[t] with
      | .free => (0, 0)
      | .busy _ => (1, 0)
      | .failed c _ _ => (2, c))) ∧
    r.matrix = (if h.ma then some (h.mgrant, h.bins) else none) ∧
    (NoTransfers h → r.image = some (h.scratch, h.sdata)) ∧
    (∀ (t : Slot) (f : Flight), h.tags[t] = .busy f → r.image = none) ∧
    (∀ n : VReg, (h.livev = 0 ∨ h.livev.getLsbD n.val = true) ↔ ∃ en : VecEntry, en ∈ r.vectors ∧ en.reg = n.val) ∧
    r.vectors.Pairwise (fun a b => a.reg < b.reg) ∧
    (∀ (en : VecEntry) (n : VReg) (w p : Nat), en ∈ r.vectors → en.reg = n.val → w = savedWidth h.ew h.v[n].tag →
      p = max w h.ew →
      en.tag = h.v[n].tag ∧ en.positions.length = min (max (h.vrows * h.vcols) 32) (16 * (h.width * 2048 / p)) ∧
      (h.blk ≠ 2 → ∀ e : Nat, e < en.positions.length → en.positions[e]? = some
        ((h.v[n].words.get (placeOf h w e).key).map (fun x =>
          BitVec.ofNat 64 (x.toNat / 2 ^ (placeOf h w e).lo % 2 ^ w)))))) ∧
  (∀ (h h' : Hart) (tick : Nat) (cr : CtxRecord) (st : Stall), h' = h.restore tick cr st →
    (h'.status = .running ∧ h'.core = st.core ∧ h'.base = st.base ∧ h'.size = st.size ∧ h'.pend = none ∧
      h'.width = cr.width ∧ h'.x = cr.x ∧ h'.spc = cr.spc ∧ h'.wp = cr.wp ∧ h'.pfx = cr.pfxWord ∧ h'.pc = cr.rpc ∧
      h'.yreq = false ∧ h'.tags = h.tags ∧ h'.hartid = h.hartid ∧ h'.gangid = h.gangid ∧ h'.gangn = h.gangn) ∧
    (h.vfetchAt ≠ some cr.rpc → h'.lt = false) ∧
    (∀ (n : Nat) (v cyc : Word), cr.sys[n]? = some v →
      n ∈ [1, 2, 3, 5, 6, 7, 8, 9, 0x0A, 0x0B, 0x0D, 0x0E, 0x0F, 0x10, 0x11, 0x12, 0x13, 0x14] →
      h'.sysRead cyc n = v) ∧
    (∀ w : Word, cr.sys[0x16]? = some w →
      (w.getLsbD 63 = false → h'.replay = none) ∧
      (w.getLsbD 63 = true → w.toNat / 2 ^ 40 % 2 ^ 8 ≠ 0 →
        h'.replay = some ⟨cr.rpc, w.toNat / 2 ^ 40 % 2 ^ 8, 0⟩ ∧
        ∀ (i : Fin 4) (v : Word), cr.sys[0x16 + i.val]? = some v → h'.win[i] = v)) ∧
    (∀ (i : Slot) (w : Word), cr.slots[i.val]? = some w → h'.op[i] = if w = 0 then none else some w) ∧
    h'.ma = cr.matrix.isSome ∧
    (∀ (g : Nat) (b : Vector BinRows 4), cr.matrix = some (g, b) → h'.mgrant = g ∧ h'.bins = b) ∧
    (∀ a b : Memory, cr.image = some (a, b) → h'.scratch = a ∧ h'.sdata = b) ∧
    (cr.image = none → h'.scratch = h.scratch ∧ h'.sdata = h.sdata) ∧
    (∀ key : Nat, h'.lanes.get key = none) ∧
    (∀ (i : MReg) (m : Mask) (t e : Nat), cr.masks[i.val]? = some m → e < cr.vls →
      h'.mask t i e = m.bit t i.val e) ∧
    (∀ (i : MReg) (e : Nat), cr.vls ≤ e → ((h'.m[i].hidden.get (e / 64)).getD 0).getLsbD (e % 64) = true) ∧
    (∀ r : VReg, (∀ en : VecEntry, en ∈ cr.vectors → en.reg ≠ r.val) →
      h'.v[r].tag = none ∧ ∀ key : Nat, h'.v[r].words.get key = none) ∧
    (∀ (r : VReg) (en : VecEntry) (w : Nat), cr.vectors.find? (fun e => e.reg == r.val) = some en →
      w = savedWidth h'.ew en.tag →
      h'.v[r].tag = en.tag ∧
      (h'.blk ≠ 2 → w ≤ h'.ew → h'.vcols ≤ h'.w → h'.width ≤ 8 → en.slots = [] →
        en.positions.length ≤ max h'.vl 32 →
        ∀ (e : Nat) (b : BitVec 64), e < h'.vl → e < 16 * (2 ^ st.size * 2048 / h'.ew) →
          en.positions[e]? = some (some b) → b.toNat < 2 ^ w →
          (h'.v[r].words.get (placeOf h' w e).key).map (fun x =>
            x.toNat / 2 ^ (placeOf h' w e).lo % 2 ^ h'.ew) = some b.toNat)))

/-- R366: the services of SYSC. NULL answers 0, TIME HCNT, BUDGET the ticks to the effective deadline, 0 when it has
passed and all ones without one; PREFAULT goes through the pages of its range: 0 where each is mapped, or lies in no
device-managed region, else the cause at the first page that could not be, which is also reported with SRC 3; it waits
where its walk waits for the link; any other service all ones. (That a failing PREFAULT is reported so, what counts as a
page that could not be mapped, and that it waits for the link are log entry 42.) -/
def Obligations.HallServices : Prop :=
  ∀ (s : State) (h : Hart) (k : Nat) (cr : CtxRecord),
    s.harts[k]? = some h → h.status = .inSysc → h.record = some cr →
    (s.input = .syscNull k → cr.x[5] = 0 → exec .syscNull s = .next (answered s k h cr 0)) ∧
    (s.input = .syscTime k → cr.x[5] = 1 → exec .syscTime s = .next (answered s k h cr s.hall.hcnt)) ∧
    (s.input = .syscBudget k → cr.x[5] = 2 →
      (∀ L : Launch, s.launchOf h = some L → L.req.deadline ≠ 0 → exec .syscBudget s = .next (answered s k h cr
        (BitVec.ofNat 64 (L.accepted.toNat + L.req.deadline - s.hall.hcnt.toNat)))) ∧
      ((∀ L : Launch, s.launchOf h = some L → L.req.deadline = 0) →
        exec .syscBudget s = .next (answered s k h cr (BitVec.allOnes 64)))) ∧
    (s.input = .syscPrefault k → cr.x[5] = 3 →
      (cr.x[7] = 0 → exec .syscPrefault s = .next (answered s k h cr 0)) ∧
      (∀ va n : Nat, va = cr.x[6].toNat / 0x10000 * 0x10000 → 1 ≤ cr.x[7].toNat →
        n = (cr.x[6].toNat + cr.x[7].toNat - va + 0xFFFF) / 0x10000 →
        (∀ (t : State) (x5 : Nat), Prefaults k h n va s t x5 →
          exec .syscPrefault s = .next (answered t k h cr (BitVec.ofNat 64 x5))) ∧
        (∀ (e m : Nat) (s' : State), 0x1000000 ≤ va → va < 2 ^ 56 → prefaultWalk s h va = (.linkDown e m, s') →
          exec .syscPrefault s = .next s))) ∧
    (s.input = .syscUnknown k → 3 < cr.x[5].toNat →
      exec .syscUnknown s = .next (answered s k h cr (BitVec.allOnes 64)))

/-- R340 to R348, R385: queues. QCTL.EN is set only over a QLIST and a DONE that are aligned and not zero, outside a
reset, else CFGERR; before STAGE 5 the write is ignored. A queue's reset ends its waiting launches with STATUS 5. An
enabled queue's first record moves to DONE and is accepted, or refused with the DETAIL of the first check of R341 that
fails; a refusal with DETAIL 1 is no launch. The first due completion whose channel takes it is posted, under the next
DSEQ: its FREE list holds a node, and every word of the posting is reached and good. (When DSEQ counts and what
cancelling does to a started launch are log entry 41.)

R20, R353, R354, R357 to R359, R365: placement. The launch that is next starts its gang: hart i on the i-th stall
of its placement by core and base, at ENTRY with X10 = ARG, every other register at its start value; or its stopped
harts resume. A launch that cannot be placed has the fewest gangs below it pre-empted: they are tried class 2 before
class 1, then the most recently started, until its placement fits with the first n of them stopped; the gangs stopped
are among these. One that has waited longer than AGE gets its target. (The choices among
victims, plans and targets are log entries 39 and 40.) -/
def Obligations.PlacementEvents : Prop :=
  (∀ (s : State) (q : Nat) (b : Queue), b = s.hall.queue q → q < 1024 →
     (∀ en : Bool, s.input = .queueEnable q en → hostOpen s →
       (s.sec.stage ≠ 5 → exec .queueEnable s = .next s) ∧
       (s.sec.stage = 5 → en = false → exec .queueEnable s = .next (withQueue s q { b with en := false })) ∧
       (s.sec.stage = 5 → en = true →
         b.qlist ≠ 0 ∧ b.qlist.toNat % 16 = 0 ∧ b.done ≠ 0 ∧ b.done.toNat % 16 = 0 ∧ b.resetting = false →
         exec .queueEnable s = .next (withQueue s q { b with en := true, cfgerr := false })) ∧
       (s.sec.stage = 5 → en = true →
         ¬ (b.qlist ≠ 0 ∧ b.qlist.toNat % 16 = 0 ∧ b.done ≠ 0 ∧ b.done.toNat % 16 = 0 ∧ b.resetting = false) →
         exec .queueEnable s = .next (withQueue s q { b with en := false, cfgerr := true }))) ∧
     (s.input = .queueReset q → hostOpen s →
       (s.sec.stage ≠ 5 → exec .queueReset s = .next s) ∧
       (s.sec.stage = 5 → ∃ t : State, exec .queueReset s = .next t ∧
         ∀ (l : Nat) (L : Launch), s.hall.launches[l]? = some L → L.queue = q → L.phase = .waiting →
           ∃ L' : Launch, t.hall.launches[l]? = some L' ∧ L'.phase = .completing ∧ L'.status = 5)) ∧
     (s.input = .queueResetDone q → b.resetting = true → b.completed = b.accepted →
       exec .queueResetDone s = .next (withQueue s q { b with resetting := false })) ∧
     (∀ (n : Nat) (r : LaunchRec), s.input = .launchAccept q → b.en = true →
       s.hall.inflight (fun _ => true) < 4096 → CanMove s 0 b.qlist.toNat b.done.toNat n →
       r = launchRec (s.physRead n 128) →
       (∀ s' : State, s' = (s.physMove b.qlist.toNat b.done.toNat).2 →
         exec .launchAccept s = .next (s'.acceptRecord q r) ∧
         (s'.refusal q r = none → r.dvalid = 0 →
           ((s'.acceptRecord q r).hall.queue q).accepted = r.hseq ∧
           ∃ L : Launch, (s'.acceptRecord q r).hall.launches[s.hall.launches.length]? = some L ∧ L.queue = q ∧
             L.req = r ∧ L.phase = .waiting ∧ L.accepted = s.hall.hcnt) ∧
         (s'.refusal q r = some 1 → r.cpl % 32 = 0 →
           (s'.acceptRecord q r).hall.launches = s.hall.launches ∧
           (s'.acceptRecord q r).hall.due = s.hall.due ++ [⟨r.cpl, .refusal q r.hseq r.cls 1⟩]) ∧
         (∀ d : Nat, s'.refusal q r = some d → d ≠ 1 → d ≠ 8 →
           ∃ L : Launch, (s'.acceptRecord q r).hall.launches[s.hall.launches.length]? = some L ∧
             L.phase = .completing ∧ L.status = 3 ∧
             (s'.acceptRecord q r).hall.due =
               s.hall.due ++ [⟨r.cpl, .completion s.hall.launches.length 3 d⟩]))) ∧
     (∀ (ch q hs cls d : Nat), cls < 3 →
       (s.canPost ⟨ch, .refusal q hs cls d⟩ = true ↔ ∃ n : Nat, CanMove s cls ch (ch + 16) n)) ∧
     (∀ (before after : List Posting) (p : Posting), s.hall.due = before ++ p :: after →
       (∀ o : Posting, o ∈ before → s.canPost o = false) → s.canPost p = true →
       exec .completionPost s = .next (({ s with hall := { s.hall with due := before ++ after } }).post p) ∧
       ((∃ (l st d : Nat) (L : Launch), p.kind = .completion l st d ∧ s.hall.launches[l]? = some L) ∨
           (∃ r hs c d : Nat, p.kind = .refusal r hs c d) ∨ (∃ i : Nat, p.kind = .invalidation i) →
         (({ s with hall := { s.hall with due := before ++ after } }).post p).hall.dseql = s.hall.dseql + 1))) ∧
  (∀ (s : State) (l : Nat) (L : Launch), s.hall.launches[l]? = some L →
     (∀ (stalls : List Stall) (cs : List Claim), s.input = .gangPlacement l stalls → s.hallNext = some l →
       s.eligible L = true → s.startPlace l = some cs →
       ∃ t : State, exec .gangPlacement s = .next t ∧
         ∀ (i : Nat) (c : Claim), (sortClaims cs)[i]? = some c →
           ∃ h : Hart, t.harts[s.harts.length + i]? = some h ∧ StartRegisters h ∧ h.getX 10 = L.req.arg ∧
             h = { Hart.reset with
               launch := l
               status := .running
               core := c.core
               base := c.base
               size := Nat.log2 c.count
               startSize := Nat.log2 c.count
               width := c.count
               scratchSize := c.scratch
               sdataSize := c.sdata
               pc := BitVec.ofNat 64 L.req.entry
               x := h.x
               hartid := BitVec.ofNat 64 i
               gangid := BitVec.ofNat 64 (L.queue * 2 ^ 32 + L.req.hseq % 2 ^ 32)
               gangn := BitVec.ofNat 64 L.req.gang }) ∧
     (∀ stalls : List Stall, s.input = .gangPlacement l stalls → s.hallNext = some l → s.eligible L = false →
       s.resumeAdmits l stalls = true → exec .gangPlacement s = .next (s.resumeGang l stalls)) ∧
     (∀ v : Nat, v ∈ s.victimGangs L.req.cls ↔ ∃ V : Launch, s.hall.launches[v]? = some V ∧
       L.req.cls < 2 ∧ L.req.cls < V.req.cls ∧
       (∃ (j : Nat) (o : Hart), s.harts[j]? = some o ∧ o.launch = v ∧ (o.status = .running ∨ o.status = .halting)) ∧
       ∀ p : Preemption, p ∈ s.hall.preemptions → ∀ (j : Nat) (c : Claim), (j, c) ∈ p.victims →
         ∀ o : Hart, s.harts[j]? = some o → o.launch ≠ v) ∧
     (s.victimGangs L.req.cls).Pairwise (fun a b => ∀ A B : Launch, s.hall.launches[a]? = some A →
       s.hall.launches[b]? = some B → B.req.cls < A.req.cls ∨ (B.req.cls = A.req.cls ∧ B.startedAt ≤ A.startedAt)) ∧
     (∀ (vs : List Nat) (plan : List Claim), s.victims l L = some (vs, plan) →
       ∃ n : Nat, 1 ≤ n ∧ n ≤ (s.victimGangs L.req.cls).length ∧
         s.planWith l L ((s.victimGangs L.req.cls).take n) = some plan ∧
         (∀ m : Nat, 1 ≤ m → m < n → s.planWith l L ((s.victimGangs L.req.cls).take m) = none) ∧
         vs.Sublist ((s.victimGangs L.req.cls).take n)) ∧
     (∀ (vs : List Nat) (plan : List Claim), s.input = .preemption l → s.waits l = true → s.canRun l = false →
       (∀ p : Preemption, p ∈ s.hall.preemptions → p.launch ≠ l) → s.victims l L = some (vs, plan) →
       exec .preemption s = .next { s with hall := { s.hall with
         preemptions := s.hall.preemptions ++ [⟨l, ((withIndex 0 s.harts).filter (fun (_, h) =>
           vs.contains h.launch && h.placed)).map (fun (k, h) => (k, s.claim h)), [], plan⟩] } }) ∧
     (s.input = .agingExpiry l → s.eligible L = true → L.aged = false →
       s.hall.age < (s.hall.hcnt - L.accepted).toNat →
       exec .agingExpiry s = .next (s.setLaunch l { L with aged := true, target := s.targetOf l })))

/-- R376, R378, R379, R381, R382: paging. A page whose list has refilled is mapped for every access that waits on it;
a fault's record is posted once its channel takes it, also where nobody waits for an answer any more; the host's answer
makes the access walk again or ends it, and one that names no waiting fault is ignored; an invalidation retires the
translations of its range at once, notes the transfers of its ASID that have translated a page of the range and the
accesses that have been sent with one, and its record is due once none of these is under way, in IVSEQ order. (That an
entry of level 0 pins every page below it, and that a sent access pins its page, are log entry 43.) -/
def Obligations.PagingEvents : Prop :=
  ∀ s : State,
    (∀ (asid : Nat) (va : Word) (fs : List HallFault) (f : HallFault) (rest : List HallFault) (h : Hart) (n e : Nat)
        (s' : State),
      s.input = .devicePageMap asid va → fs = s.hall.faults.filter (s.waitsFrame asid va.toNat) → fs = f :: rest →
      s.harts[f.hart]? = some h → s.walk (h.core / 4) asid va.toNat ⟨true, false, s.linkOpen (s.classOf h)⟩ =
        (.leaf n e, s') →
      exec .devicePageMap s = .next (fs.foldl State.release s')) ∧
    (∀ (before after : List HallFault) (f : HallFault) (h : Hart), s.hall.faults = before ++ f :: after →
      (∀ g : HallFault, g ∈ before → s.canReport g = false) → s.canReport f = true → s.harts[f.hart]? = some h →
      exec .faultRecordPost s = .next ((s.postFault f h).markPosted f)) ∧
    (∀ fid : BitVec 48, hostOpen s →
      (s.faultNamed fid = none →
        (s.input = .frespRetry fid → exec .frespRetry s = .next s) ∧
        (s.input = .frespEnd fid → exec .frespEnd s = .next s)) ∧
      (∀ (f : HallFault) (h : Hart) (dropped : State), s.faultNamed fid = some f → s.harts[f.hart]? = some h →
        dropped = { s with hall := { s.hall with faults := leftAfter f.fid s.hall.faults } } →
        (s.input = .frespRetry fid →
          (f.source = .hart → h.status = .parked → exec .frespRetry s =
            .next (dropped.setHart f.hart { h with status := .stopped, fault := none })) ∧
          (∀ (p : Nat) (vs : List Vp), f.source = .vp p → h.run = some vs → exec .frespRetry s =
            .next (dropped.setHart f.hart { h with run := some (vs.modify p (fun v => { v with
              state := match v.state with
                | .faultBlock a n => .waitBlock a n
                | _ => .ready })) })) ∧
          (∀ t : Nat, f.source = .engine t → exec .frespRetry s = .next dropped)) ∧
        (s.input = .frespEnd fid →
          (f.source = .hart → ∃ t' : State, exec .frespEnd s = .next t' ∧
            GangEnded s t' h.launch (trapFailure h 2)) ∧
          (∀ (t : Slot) (fl : Flight), f.source = .engine t.val → h.tags[t] = .busy fl →
            ∃ t' : State, exec .frespEnd s = .next t' ∧
              TagIs t' f.hart t (.failed f.cause f.info.kind f.va) ∧
              ∀ g : HallFault, g ∈ t'.hall.faults → g.hart = f.hart → g.source = .engine t.val → g.closed = true)))) ∧
    (∀ (ctl : BitVec 64) (asid addr count : Nat), s.input = .invalidate ctl → hostOpen s →
      asid = ctl.toNat % 2 ^ 16 → count = ctl.toNat / 2 ^ 16 % 2 ^ 32 →
      addr = s.hall.ivaddr.toNat / 0x10000 * 0x10000 →
      ((2 ^ 48 ≤ ctl.toNat ∨ s.hall.ivchan = 0) → exec .invalidate s = .next s) ∧
      (ctl.toNat < 2 ^ 48 → s.hall.ivchan ≠ 0 → ∃ (t : State) (pins : List Pin),
        exec .invalidate s = .next t ∧
        t = { s with
          tlb := t.tlb
          hall := { s.hall with
            ivseq := s.hall.ivseq + 1
            retiring := s.hall.retiring ++ [(s.hall.ivseq + 1, pins)] } } ∧
        (∀ e : TlbEntry, e ∈ t.tlb ↔ e ∈ s.tlb ∧ ¬ (e.asid = asid ∧ covers e.level e.path addr count)) ∧
        (∀ pin : Pin, pin ∈ pins ↔ ∃ (k : Nat) (h : Hart) (p : PinnedPage), s.harts[k]? = some h ∧ s.asidOf h = asid ∧
          Uses k h p pin ∧ covers 0 (p.page * 2 ^ 16 / 2 ^ levelShift 0) addr count))) ∧
    (∀ (seq : Nat) (pins : List Pin) (rest : List (Nat × List Pin)), s.hall.retiring = (seq, pins) :: rest →
      ((∀ pin : Pin, pin ∈ pins → ∀ (k : Nat) (h : Hart), s.harts[k]? = some h → ¬ Holds k h pin) →
        exec .invalidationComplete s = .next { s with hall := { s.hall with
          retiring := rest
          due := s.hall.due ++ [⟨s.hall.ivchan.toNat, .invalidation seq⟩] } }) ∧
      (∀ (pin : Pin) (k : Nat) (h : Hart), pin ∈ pins → s.harts[k]? = some h → Holds k h pin →
        exec .invalidationComplete s = .next s))

/-- R137, R334, R336, R338, R339: the Cedor link. Reads, writes, atomics and list moves of the memory window act on this
device's memory; a list move whose node or old tail is no multiple of 8 changes nothing; a read of a register returns
its bytes and a write of 8 bytes writes it; a malformed access of the register window returns ones or does nothing, and
counts. Holds rise and fall per class and direction; the link falls and rises, and an access to host memory that has
waited 100 ms since it was sent fails. (An uncorrectable word in a host's list move is log entry 45; that a host access
needs an open class, log entry 50; that LINK_UP leaves no class held and begins every wait anew, log entry 44; what a
write of a register takes of a value with bits above the field, log entry 55.) -/
def Obligations.LinkEvents : Prop :=
  ∀ s : State,
    (∀ (off size : Nat) (store : Bool), s.input = .malformedAccess off size store → hostOpen s →
      off < 0x4000000 → 0 < size → ¬ ((size = 4 ∨ size = 8) ∧ off % size = 0) →
      exec .malformedAccess s = .next
        (let s' : State := { s with link := { s.link with malacc := min 0xFFFF (s.link.malacc + 1) } }
          if store then s' else answers s' (List.replicate size 0xFF))) ∧
    (∀ (off size : Nat) (cls : TrafficClass), hostMay s cls →
      (s.input = .hostRead .registers off size cls → off < 0x4000000 → (size = 4 ∨ size = 8) → off % size = 0 →
        exec .hostRead s = .next (answers s
          (leBytes size (s.register (off / 8 * 8) / 2 ^ (8 * (off % 8)))))) ∧
      (s.input = .hostRead .memory off size cls → windowOk off size → sound s (baseOf s + off) size →
        exec .hostRead s = .next (answers s (s.mem.readBytes s.tick (baseOf s + off) size)))) ∧
    (∀ (off : Nat) (bytes : List Byte) (cls : TrafficClass), s.input = .hostWrite off bytes cls → hostMay s cls →
      windowOk off bytes.length → sound s (baseOf s + off) bytes.length →
      exec .hostWrite s = .next { s with mem := s.mem.writeBytes (baseOf s + off) bytes }) ∧
    (∀ (op : AtomOp) (off : Nat) (wide : Bool) (x e : BitVec 64) (cls : TrafficClass) (n old : Nat),
      s.input = .hostAtomic op off wide x e cls → hostMay s cls → n = (if wide then 8 else 4) → off % n = 0 →
      off + n ≤ 2 ^ 39 → sound s (baseOf s + off) n → old = s.mem.readLe s.tick (baseOf s + off) n →
      exec .hostAtomic s = .next (answers
        { s with mem := s.mem.writeLe (baseOf s + off) n (atomicValue op (8 * n) old x.toNat e.toNat) }
        (leBytes n old))) ∧
    (∀ (off1 off2 a b n t : Nat) (cls : TrafficClass), s.input = .hostLmove off1 off2 cls → hostMay s cls →
      off1 % 16 = 0 → off2 % 16 = 0 → off1 + 16 ≤ 2 ^ 39 → off2 + 16 ≤ 2 ^ 39 → a = baseOf s + off1 →
      b = baseOf s + off2 → n = s.physRead a 8 → t = tailSeen s a b n →
      (n % 8 = 0 → t % 8 = 0 → (∀ p : Nat, p ∈ [a, b, n, t] → (p = a ∨ p = b ∨ p ≠ 0) → p / 32 ∉ s.poison) →
        exec .hostLmove s = .next (answers (if n = 0 then s else nodeMoved s a b n) (leBytes 8 n))) ∧
      (n % 8 ≠ 0 ∨ t % 8 ≠ 0 ∨ (∃ p : Nat, p ∈ [a, b, n, t] ∧ (p = a ∨ p = b ∨ p ≠ 0) ∧ p / 32 ∈ s.poison) →
        exec .hostLmove s = .next (answers s (leBytes 8 0)))) ∧
    (∀ (off : Nat) (v : BitVec 64) (cls : TrafficClass), s.input = .hostRegisterWrite off 8 v cls → hostMay s cls →
      off < 0x4000000 → off % 8 = 0 → hasBehaviour off v.toNat = false →
      ∃ t : State, exec .hostRegisterWrite s = .next t ∧ RegisterWritten s off v.toNat t) ∧
    (∀ (dir : LinkDir) (cls : TrafficClass), s.link.up = true →
      (s.input = .linkHold dir cls → s.link.held dir cls = false →
        ∃ t : State, exec .linkHold s = .next t ∧ t.link.held dir cls = true ∧ t = { s with link := t.link }) ∧
      (s.input = .linkHoldRelease dir cls → s.link.held dir cls = true →
        ∃ t : State, exec .linkHoldRelease s = .next t ∧ t.link.held dir cls = false ∧ t = { s with link := t.link })) ∧
    (s.input = .linkDown → s.link.up = true →
      exec .linkDown s = .next { s with link := { s.link with up := false, downAt := s.hall.hcnt } }) ∧
    (s.input = .linkUp → s.link.up = false → s.sec.stage ≠ 1 → ∃ t : State, exec .linkUp s = .next t ∧
      t.link.up = true ∧ t.link.retrained = min 0xFF (s.link.retrained + 1) ∧
      (∀ (dir : LinkDir) (cls : TrafficClass), t.link.held dir cls = false) ∧ t.mem = s.mem ∧ t.hall = s.hall ∧
      ∀ (k : Nat) (h : Hart), s.harts[k]? = some h →
        ∃ h' : Hart, t.harts[k]? = some h' ∧ h'.sentAt = none ∧ h'.timedOut = false) ∧
    (∀ (k : Nat) (h : Hart) (sent : Word), s.input = .linkAccessTimeout k none → s.harts[k]? = some h →
      h.status = .running → h.run = none → h.sentAt = some sent → s.link.up = false →
      (150000000 ≤ (s.hall.hcnt - sent).toNat →
        exec .linkAccessTimeout s = .next (s.setHart k { h with timedOut := true })) ∧
      ((s.hall.hcnt - sent).toNat < 150000000 → h.timedOut = false → exec .linkAccessTimeout s = .next s))

/-- R238, R239, R242, R248 to R254, R263, R271, R393, R400: transfers end. A copy reads every source byte before it
writes any, and frees its tag; one that meets a fault the hall can resolve hands it over and stays busy until the
answer; any other fault leaves its tag failed with the cause, the detail and the address. A collective whose members
have all joined leaves at DST what their merge gives: sums and extremes element by element, nothing where the members
disagree (CODE 2), an undefined DST where a stream is ill-formed (CODE 1); one that the fabric has failed, here or at
another device, ends with CODE 5 and an undefined DST, and one whose members do not come within CTO with CODE 3. Each
then writes its status: the second doubleword before the first. (How ties among failures fall, and what the status
fields hold beyond R254's words, log entries 33 and 34; the order among a hart's own transfers, log entry 31.) -/
def Obligations.TransferEvents : Prop :=
  (∀ (s : State) (h : Hart) (k : Nat) (t : Slot) (f : Flight), s.harts[k]? = some h → h.tags[t] = .busy f →
    (∀ g : HallFault, g ∈ s.hall.faults → ¬ (g.hart = k ∧ g.source = .engine t.val)) →
    (∀ (u : Slot) (g : Flight), h.tags[u] = .busy g → f.seq ≤ g.seq) →
    (∀ (dst src len : Nat) (zero : Bool) (c : Ctx), f.transfer = .copy dst src len zero →
      c = ⟨{ h with held := f.pages }, s⟩ →
      (s.input = .engineTransferEnd k t →
        (f.done = true → ∃ t' : State, exec .engineTransferEnd s = .next t' ∧ t'.mem = s.mem ∧ TagIs t' k t .free) ∧
        (∀ (bytes : List Byte) (c1 c2 : Ctx), f.done = false →
          (if zero then bytes = List.replicate len 0 ∧ c1 = c else c.readRange src len = .ok (bytes, c1)) →
          c1.writeRange dst bytes = .ok ((), c2) →
          ∃ t' : State, exec .engineTransferEnd s = .next t' ∧ t'.mem = c2.s.mem ∧ TagIs t' k t .free) ∧
        (∀ (g : MemFault) (c1 : Ctx), f.done = false → c.runCopy dst src len zero = .error (.fault g c1) →
          g.info.resolvable = true → g.cause ≠ causeUncorr →
          ∃ t' : State, exec .engineTransferEnd s = .next t' ∧
            t'.hall.faults = c1.s.hall.faults ++
              [⟨c1.s.hall.nextFid, k, .engine t.val, g.cause, g.addr, g.info, false, false⟩] ∧
            TagIs t' k t (.busy { f with pages := c1.h.held }))) ∧
      (∀ (g : MemFault) (c1 : Ctx), s.input = .engineTransferFailure k t → f.done = false →
        c.runCopy dst src len zero = .error (.fault g c1) → (g.info.resolvable = false ∨ g.cause = causeUncorr) →
        ∃ t' : State, exec .engineTransferFailure s = .next t' ∧ TagIs t' k t
          (.failed g.cause (if g.cause = causeUncorr then g.info.kind else g.detail) g.addr))) ∧
    (∀ (d : CollDesc) (st : CollStart), f.transfer = .coll d st →
      (∀ (peers : List CollMember) (elsewhere : Option CollFault), s.input = .collectiveEnd k t peers elsewhere →
        (∀ met : Nat × Nat × Nat × Option Nat, st.met = some met →
          CaseEnds (exec .collectiveEnd s) s h k t f d st met) ∧
        (∀ e : CollFault, st.met = none → elsewhere = some e → e.reason ∈ [1, 3, 4, 5] → e.port < 32 →
          (∀ o : Nat, e.ord = some o → o < 128 ∧ bitAt d.group.toNat o = true) →
          CaseEnds (exec .collectiveEnd s) s h k t f d st (5, e.reason, e.port, e.ord)) ∧
        (∀ (own : List Byte) (c1 : Ctx) (m : Merged), st.met = none → elsewhere = none →
          peersOk s.fab.dord d peers = true →
          Ctx.readRange ⟨{ h with held := f.pages }, s⟩ d.src (Ctx.collSrcLen ⟨h, s⟩ d) = .ok (own, c1) →
          m = merge d peers (byRank c1.s.fab.dord own peers) →
          CollEnds (exec .collectiveEnd s) k t c1 d (if m.code = 0 then m.out else []) m.spoil
            (statusHigh c1.s st 0 0x1F none) (statusLow m) m.code)) ∧
      (s.input = .collectiveTimeout k t → st.met = none →
        ((s.hall.hcnt - st.hcnt).toNat < s.fab.cto → exec .collectiveTimeout s = .next s) ∧
        (s.fab.cto ≤ (s.hall.hcnt - st.hcnt).toNat →
          CaseEnds (exec .collectiveTimeout s) s h k t f d st (3, 2, 0x1F, none))))) ∧
  (∀ (d : CollDesc) (peers : List CollMember) (members : List (List Byte)),
    ((∃ p : CollMember, p ∈ peers ∧ (p.op ≠ d.op ∨ p.typ ≠ d.typ ∨ p.cls ≠ d.cls ∨ p.k ≠ d.k ∨
        (d.op < 3 ∧ p.count ≠ d.count))) →
      merge d peers members = ⟨2, [], false, 0, 0, false, false, 0⟩) ∧
    ((∀ p : CollMember, p ∈ peers → p.op = d.op ∧ p.typ = d.typ ∧ p.cls = d.cls ∧ p.k = d.k ∧ p.count = d.count) →
      (d.op = 4 → (∃ bs : List Byte, bs ∈ members ∧ streamOk bs = false) →
        merge d peers members = ⟨1, [], true, 0, 0, false, false, 0⟩) ∧
      (∀ (a b : List Byte), members = [a, b] → d.op ≤ 2 →
        (merge d peers members).code = 0 ∧ (merge d peers members).nout = d.count ∧
        (merge d peers members).out.length = collSize d.typ * d.count ∧
        ∀ (i n : Nat) (signed : Bool) (x y lo hi v : Int), i < d.count → n = 8 * collSize d.typ →
          kindOf d.typ = .int signed n →
          x = (if signed then toSigned n (bytesAt a (n / 8 * i) (n / 8)) else (bytesAt a (n / 8 * i) (n / 8) : Int)) →
          y = (if signed then toSigned n (bytesAt b (n / 8 * i) (n / 8)) else (bytesAt b (n / 8 * i) (n / 8) : Int)) →
          lo = (if signed then -2 ^ (n - 1) else 0) → hi = (if signed then 2 ^ (n - 1) - 1 else 2 ^ n - 1) →
          v = (if d.op = 0 then max lo (min hi (x + y)) else if d.op = 1 then max x y else min x y) →
          bytesAt (merge d peers members).out (n / 8 * i) (n / 8) = ofInt n v)))

/-- R384 to R391: boot, recovery, flash and attestation. A device reset keeps memory, flash and the fuses and starts
the boot ROM; the loss of power loses memory too, and the flash record of the leaf index where it falls into its
write. The boot then goes through its stages: STAGE 1 brings up the link, 2 reads, 3 verifies flash, or the staged
image, and goes to 4 with FWVER and FWDIG or to 6 with the error of the first check that fails, 4 opens the hall
at 5. RECGO begins the verification of the staged image, and is ignored outside STAGE 6. Flash takes a verified image
of its own size; a write that is cut off leaves its first bytes, and power is lost. A report takes a leaf, or none with
CODE 1 or 2, and holds what R391 says. (In which order the checks of one image come, and when each stage begins, are
log entry 46; when a leaf's range is reserved, log entry 47.) -/
def Obligations.BootEvents : Prop :=
  ∀ s : State,
    (s.input = .deviceReset → ∃ t : State, exec .deviceReset s = .next t ∧
      (s.fab.dord = 0 → t.mem = s.mem ∧ t.poison = s.poison) ∧
      t.harts = [] ∧ t.tlb = [] ∧ t.link = Link.reset ∧ t.hall = Hall.reset ∧ t.fab = Fabric.reset ∧
      t.rel = Reliability.reset ∧ t.sec = { Security.reset with
        flash := s.sec.flash
        leafRecord := s.sec.leafRecord
        trees := s.sec.trees
        key := s.sec.key
        minVersion := s.sec.minVersion }) ∧
    (∀ torn : Bool, s.input = .powerLoss torn → ∃ t : State, exec .powerLoss s = .next t ∧ t.mem = .empty ∧
      t.poison = [] ∧ t.harts = [] ∧ t.tlb = [] ∧ t.link = Link.reset ∧ t.hall = Hall.reset ∧
      t.sec = { Security.reset with
        flash := s.sec.flash
        leafRecord := if torn then none else s.sec.leafRecord
        trees := s.sec.trees
        key := s.sec.key
        minVersion := s.sec.minVersion }) ∧
    (∀ (rest : List Turn) (t : State), s.agenda = .boot :: rest → s.rel.tripped = false → t = turnTaken s rest →
      (s.sec.stage = 1 → step s = .next { t with
        link := { s.link with up := true }
        sec := { s.sec with stage := 2 } }) ∧
      (s.sec.stage = 2 → step s = .next { t with sec := { s.sec with stage := 3, staged := false } }) ∧
      (s.sec.stage = 4 → step s = .next { t with sec := { s.sec with stage := 5 } }) ∧
      (s.sec.stage = 3 → s.sec.staged = false →
        (s.sec.flashImage = none → step s = .next { t with sec := { s.sec with stage := 6, err := 5 } }) ∧
        (∀ bs : List Byte, s.sec.flashImage = some bs →
          (s.sec.checkImage bs ≠ 0 →
            step s = .next { t with sec := { s.sec with stage := 6, err := s.sec.checkImage bs } }) ∧
          (s.sec.checkImage bs = 0 → ∃ c : Security, step s = .next { t with sec := c } ∧ c.stage = 4 ∧ c.err = 0 ∧
            c.recovered = false ∧ c.fwver = (imageHead bs).version ∧
            c.fwdig = sha256 (bs.take (64 + (imageHead bs).blen)) ∧ c.flash = s.sec.flash ∧
            c.minVersion = s.sec.minVersion))) ∧
      (s.sec.stage = 3 → s.sec.staged = true →
        ((imageHead (t.outerRead (baseOf s) 64)).size ≠ some s.sec.reclen →
          step s = .next { t with sec := { s.sec with stage := 6, err := 6 } }) ∧
        (∀ bs : List Byte, (imageHead (t.outerRead (baseOf s) 64)).size = some s.sec.reclen →
          (imageHead (t.outerRead (baseOf s) 64)).ok = true → bs = t.outerRead (baseOf s) s.sec.reclen →
          (s.sec.checkImage bs ≠ 0 →
            step s = .next { t with sec := { s.sec with stage := 6, err := s.sec.checkImage bs } }) ∧
          (s.sec.checkImage bs = 0 → ∃ c : Security, step s = .next { t with sec := c } ∧ c.stage = 4 ∧ c.err = 0 ∧
            c.recovered = true ∧ c.fwver = (imageHead bs).version ∧
            c.fwdig = sha256 (bs.take (64 + (imageHead bs).blen)) ∧ c.flash = s.sec.flash)))) ∧
    (∀ bs : List Byte,
      (s.sec.checkImage bs = 1 ↔ (imageHead bs).ok = false) ∧
      ((imageHead bs).ok = true → (s.sec.checkImage bs = 2 ↔ (imageHead bs).version < s.sec.minVersion)) ∧
      (s.sec.checkImage bs = 0 → beValue (slice s.sec.key 0 4) = (imageHead bs).sigtype ∧
        lmsVerify s.sec.key (bs.take (64 + (imageHead bs).blen)) (bs.drop (64 + (imageHead bs).blen)) = true)) ∧
    (s.input = .recoveryGo → hostOpen s →
      (s.sec.stage ≠ 6 → exec .recoveryGo s = .next s) ∧
      (s.sec.stage = 6 → exec .recoveryGo s = .next { s with sec := { s.sec with stage := 3, staged := true } })) ∧
    (∀ (image : Option (List Byte)) (v cut : Option Nat), s.input = .firmwareFlashWrite image v cut →
      (s.sec.stage = 4 ∨ s.sec.stage = 5) →
      (∀ bs : List Byte, image = some bs →
        (imageHead bs).ok = true ∧ (imageHead bs).size = some bs.length ∧ s.sec.checkImage bs = 0) →
      (∀ n : Nat, v = some n → s.sec.minVersion ≤ n ∧ n ≤ s.sec.fwver) →
      (cut = none → exec .firmwareFlashWrite s = .next { s with sec := { s.sec with
        flash := image.getD s.sec.flash
        minVersion := v.getD s.sec.minVersion } }) ∧
      (∀ (bs : List Byte) (n : Nat), image = some bs → cut = some n → n < bs.length →
        ∃ t : State, exec .firmwareFlashWrite s = .next t ∧ t.sec.flash = bs.take n ∧ t.mem = .empty ∧
          t.sec.stage = 1 ∧ t.link.up = false)) ∧
    (s.input = .attestRequest → s.sec.stage ≠ 4 → s.sec.stage ≠ 5 → exec .attestRequest s = .next s) ∧
    (s.input = .attestRequest → hostOpen s → (s.sec.stage = 4 ∨ s.sec.stage = 5) →
      (s.sec.report.isSome = true → exec .attestRequest s = .next s) ∧
      (s.sec.report = none → ∃ c : Security, ∃ r : Report, exec .attestRequest s = .next { s with sec := c } ∧
        c.report = some r ∧ r.addr = s.sec.aout ∧ r.leaf = s.sec.nextLeaf ∧
        r.nonce = s.sec.anonce.toList.flatMap (fun w => leBytes 8 w.toNat) ∧
        (s.aoutOk = false → r.code = 1 ∧ c.nextLeaf = s.sec.nextLeaf) ∧
        (s.aoutOk = true → 2 ^ 35 ≤ s.sec.nextLeaf → r.code = 2 ∧ c.nextLeaf = s.sec.nextLeaf) ∧
        (s.aoutOk = true → s.sec.nextLeaf < 2 ^ 35 → r.code = 0 ∧ c.nextLeaf = s.sec.nextLeaf + 1))) ∧
    (∀ r : Report, s.input = .attestReportComplete → s.sec.report = some r →
      (r.code ≠ 0 → exec .attestReportComplete s =
        .next { s with sec := { s.sec with report := none, code := r.code } }) ∧
      (r.code = 0 → sound s r.addr.toNat 3540 → r.nonce.length = 32 → s.sec.fwdig.length = 32 →
        ∃ bytes : List Byte, exec .attestReportComplete s = .next { s with
          mem := s.mem.writeBytes r.addr.toNat bytes
          sec := { s.sec with report := none, code := 0, reports := s.sec.reports + 1 } } ∧
        bytes.length = 3540 ∧
        bytes.take 0x60 = leBytes 4 0x41545352 ++ leBytes 4 1 ++ r.nonce ++ s.sec.fwdig ++ leBytes 4 s.sec.fwver ++
          leBytes 4 (s.sec.stage + s.sec.err * 2 ^ 8 + (if s.sec.recovered then 2 ^ 16 else 0)) ++
          leBytes 8 r.leaf ++ leBytes 8 (2 ^ 35 - 1 - r.leaf)))

/-- R257, R392 to R397, R400, R402: the fabric. DCTL.EN needs this device among the members, else DMIS; a write of DMEMB
replaces its half, and a collective that loses a member ends with CODE 5, REASON 1 and the lowest member it has lost;
a port trains, counts its replays, and falls when a flit is lost; an access that gets no acknowledgement will fail;
another device's access acts on this device's memory, and what the host and the other devices store elsewhere is seen.
(That one collective is under way, and that its writes meet nothing, is the clause's premise; which member comes first
is log entry 33; what a port still held is log entry 11.)

R403 to R407: scrubbing goes through this device's sectors in address order, once in 24 hours, changes no value,
counts a corrected sector, and leaves an uncorrectable one poisoned and counted. The governor lowers one clock, of the
fastest quad without a class 0 hart and outside CL0Q first, or the bandwidth once every clock is at 1.5 GHz, while the
power is above the limit, takes the last step back more than 100 W below it, and holds otherwise and during a throttle.
TEMPMAX follows the hottest sensor; a throttle begins at 100 °C and ends below 95 °C; at 110 °C the trip loses this
device's memory and the link, and after it nothing moves but a reset or the loss of power, whatever the agenda says.
A soft error that is corrected is counted; an uncorrectable sector is poisoned and counted; uncorrectable storage of
the core raises UNCORR at the instruction that reads it. (How errors and sensors come is log entry 49; the steps of the
bandwidth, log entry 48.) -/
def Obligations.FabricAndPower : Prop :=
  (∀ s : State,
     (∀ den : Bool, s.input = .domainEnable den → hostOpen s →
       (den = false → exec .domainEnable s = .next { s with fab := { s.fab with den := false } }) ∧
       (den = true → exec .domainEnable s = .next { s with fab := { s.fab with
         den := bitAt s.fab.dmemb.toNat s.fab.dord
         dmis := !bitAt s.fab.dmemb.toNat s.fab.dord } })) ∧
     (∀ (high : Bool) (v : BitVec 64), s.input = .dmembWrite high v → hostOpen s →
       ∀ (m : BitVec 128) (s' : State),
       m = BitVec.ofNat 128 (if high then s.fab.dmemb.toNat % 2 ^ 64 + v.toNat * 2 ^ 64
         else s.fab.dmemb.toNat / 2 ^ 64 * 2 ^ 64 + v.toNat) → s' = { s with fab := { s.fab with dmemb := m } } →
       ((∀ (k : Nat) (h : Hart) (t : Slot) (f : Flight) (d : CollDesc) (st : CollStart), s.harts[k]? = some h →
         h.tags[t] = .busy f → f.transfer ≠ .coll d st) → exec .dmembWrite s = .next s') ∧
       (∀ (k : Nat) (h h' : Hart) (t : Slot) (f f' : Flight) (d : CollDesc) (st : CollStart) (o : Nat),
         s.harts[k]? = some h → h.tags[t] = .busy f → f.transfer = .coll d st → st.met = none →
         (∀ (j : Nat) (g : Hart) (u : Slot) (fl : Flight) (e : CollDesc) (w : CollStart), s.harts[j]? = some g →
           g.tags[u] = .busy fl → fl.transfer = .coll e w → j = k ∧ u = t) →
         s.faultKnown k (.engine t.val) = false → (∀ (u : Slot) (g : Flight), h.tags[u] = .busy g → f.seq ≤ g.seq) →
         o < 128 → bitAt d.group.toNat o = true → bitAt s.fab.dmemb.toNat o = true → bitAt m.toNat o = false →
         (∀ p : Nat, p < o → bitAt d.group.toNat p = true → bitAt s.fab.dmemb.toNat p = true →
           bitAt m.toNat p = true) →
         f' = { f with transfer := .coll d { st with met := some (5, 1, 0x1F, some o) } } →
         h' = { h with tags := h.tags.set t (.busy f') } →
         CaseEnds (exec .dmembWrite s) (s'.setHart k h') h' k t f' d st (5, 1, 0x1F, some o))) ∧
     (∀ (p n : Nat) (sent lost : Bool) (q : Port), s.input = .flitCrcReplay p n sent lost →
       s.fab.ports[p]? = some q → q.up = true → 1 ≤ n → n ≤ 8 → (lost = true → n = 8) →
       ∃ (t : State) (q' : Port), exec .flitCrcReplay s = .next t ∧ t.fab.ports[p]? = some q' ∧
         q'.up = !lost ∧ (sent = true → q'.preplay = q.preplay + BitVec.ofNat 64 n ∧ q'.pcrc = q.pcrc) ∧
         (sent = false → q'.preplay = q.preplay ∧ q'.pcrc = q.pcrc + BitVec.ofNat 64 (n + if lost then 1 else 0)) ∧
         (lost = true → q'.pdown = q.pdown + 1) ∧ (lost = false → q'.pdown = q.pdown ∧ q'.plost = q.plost) ∧
         (∀ (p' : Nat), p' ≠ p → t.fab.ports[p']? = s.fab.ports[p']?)) ∧
     (∀ (p peer peerPort : Nat) (q : Port), s.input = .portTrain p peer peerPort → s.fab.ports[p]? = some q →
       q.up = false → peer < 128 → peerPort < 24 →
       ∃ t : State, exec .portTrain s = .next t ∧
         t.fab.ports[p]? = some { q with up := true, peer := peer, peerPort := peerPort }) ∧
     (∀ (k : Nat) (h : Hart), s.input = .fabricAckTimeout k none → s.harts[k]? = some h → s.fab.den = true →
       h.status = .running → h.noAck = false →
       exec .fabricAckTimeout s = .next (s.setHart k { h with noAck := true })) ∧
     (∀ x : RemoteAccess, s.input = .remoteAccess x → s.fab.den = true → (∃ p : Fin 24, s.fab.ports[p].up = true) →
       (∀ a n : Nat, x = .load a n → baseOf s ≤ a → a + n ≤ baseOf s + 2 ^ 39 → sound s a n →
         exec .remoteAccess s = .next (answers s (s.mem.readBytes s.tick a n))) ∧
       (∀ (a : Nat) (bytes : List Byte), x = .store a bytes → baseOf s ≤ a → a + bytes.length ≤ baseOf s + 2 ^ 39 →
         sound s a bytes.length →
         exec .remoteAccess s = .next { s with mem := s.mem.writeBytes a bytes }) ∧
       (∀ (op : AtomOp) (a : Nat) (wide : Bool) (v e : BitVec 64) (n old : Nat), x = .atomic op a wide v e →
         n = (if wide then 8 else 4) → baseOf s ≤ a → a + n ≤ baseOf s + 2 ^ 39 → a % n = 0 → sound s a n →
         old = s.mem.readLe s.tick a n →
         exec .remoteAccess s = .next (answers
           { s with mem := s.mem.writeLe a n (atomicValue op (8 * n) old v.toNat e.toNat) } (leBytes n old)))) ∧
     (∀ (a : Nat) (bytes : List Byte) (rest : List Turn), s.agenda = .outside (.store a bytes) :: rest →
       s.rel.tripped = false → sound s a bytes.length →
       (a + bytes.length ≤ baseOf s ∨ baseOf s + 2 ^ 39 ≤ a) →
       step s = .next { turnTaken s rest with mem := s.mem.writeBytes a bytes })) ∧
  (∀ s : State,
     (∀ (n : Nat) (o : ScrubOutcome) (sector : Nat), s.input = .hbmScrub sector o →
       sector = s.fab.dord * 2 ^ 34 + n → n < 2 ^ 34 →
       (n < s.rel.scrubNext → (s.hall.hcnt - s.rel.scrubSince).toNat < 129600000000000 →
         exec .hbmScrub s = .next s) ∧
       (s.rel.scrubNext ≤ n →
         (∀ p : Nat, p ∈ s.poison →
           p < s.fab.dord * 2 ^ 34 + s.rel.scrubNext ∨ s.fab.dord * 2 ^ 34 + n ≤ p) →
         ∀ r : Reliability, r = { s.rel with scrubNext := n + 1 } →
         (o = .clean → sector ∉ s.poison → exec .hbmScrub s = .next { s with rel := r }) ∧
         (o = .corrected → sector ∉ s.poison →
           exec .hbmScrub s = .next { s with rel := { r with cehbm := s.rel.cehbm + 1 } }) ∧
         (o = .uncorrectable → ∃ t : State, exec .hbmScrub s = .next t ∧
           t = { s with
             poison := t.poison
             rel := { r with uecnt := s.rel.uecnt + 1, uelast := BitVec.ofNat 64 (32 * sector) } } ∧
           ∀ p : Nat, p ∈ t.poison ↔ p = sector ∨ p ∈ s.poison))) ∧
     (∀ watts : Nat, s.input = .governorTick watts → watts < 2 ^ 16 →
       ∃ r : Reliability, exec .governorTick s = .next { s with rel := r } ∧ r.pwr = watts ∧
         (s.rel.throttled = true → r = { s.rel with pwr := watts }) ∧
         (s.rel.throttled = false → watts ≤ s.rel.plim → s.rel.plim ≤ watts + 100 →
           r = { s.rel with pwr := watts }) ∧
         (s.rel.throttled = false → s.rel.plim < watts → (∃ q : Fin 32, 0 < s.rel.qclk[q]) →
           ∃ q : Fin 32, 0 < s.rel.qclk[q] ∧ r.qclk[q] = s.rel.qclk[q] - 1 ∧
             r.history = .clock q.val :: s.rel.history ∧ (∀ q' : Fin 32, q' ≠ q → r.qclk[q'] = s.rel.qclk[q']) ∧
             ∀ q' : Fin 32, 0 < s.rel.qclk[q'] →
               (s.zeroQuad q'.val = false → s.zeroQuad q.val = false) ∧
               (s.zeroQuad q'.val = s.zeroQuad q.val → s.rel.qclk[q'] ≤ s.rel.qclk[q] ∧
                 (s.rel.qclk[q'] = s.rel.qclk[q] → bitAt s.hall.cl0q.toNat q'.val = false →
                   bitAt s.hall.cl0q.toNat q.val = false))) ∧
         (s.rel.throttled = false → s.rel.plim < watts → (∀ q : Fin 32, s.rel.qclk[q] = 0) →
           r = (if s.rel.hbmLimit < 9 then { s.rel with
               pwr := watts
               hbmLimit := s.rel.hbmLimit + 1
               history := .bandwidth :: s.rel.history }
             else { s.rel with pwr := watts })) ∧
         (s.rel.throttled = false → watts + 100 < s.rel.plim → ∀ (q : Fin 32) (rest : List GovStep),
           s.rel.history = .clock q.val :: rest →
           r.history = rest ∧ r.qclk[q] = min 6 (s.rel.qclk[q] + 1)) ∧
         (s.rel.throttled = false → watts + 100 < s.rel.plim → ∀ rest : List GovStep,
           s.rel.history = .bandwidth :: rest →
           r = { s.rel with pwr := watts, history := rest, hbmLimit := s.rel.hbmLimit - 1 })) ∧
     (∀ temp : Nat, temp < 2 ^ 16 →
       (s.input = .thermalThrottle temp → 800 ≤ temp → temp < 880 → s.rel.throttled = false →
         exec .thermalThrottle s = .next { s with rel := { s.rel with tempmax := temp, throttled := true } }) ∧
       (s.input = .thermalThrottleEnd temp → temp < 760 → s.rel.throttled = true →
         exec .thermalThrottleEnd s = .next { s with rel := { s.rel with tempmax := temp, throttled := false } }) ∧
       (s.input = .thermalTrip temp → 880 ≤ temp → ∃ t : State, exec .thermalTrip s = .next t ∧
         t.link.up = false ∧ t.rel.tripped = true ∧ t.rel.tempmax = temp ∧ t.harts = s.harts ∧
         (s.mem.wf = true → ∀ tick a : Nat, t.mem.read tick a =
           if baseOf s ≤ a ∧ a < baseOf s + 2 ^ 39 then Memory.empty.read tick a else s.mem.read tick a)) ∧
       (∀ rest : List Turn, s.agenda = .sensor temp :: rest → s.rel.tripped = false → temp < 880 →
         step s = .next { turnTaken s rest with rel := { s.rel with
           tempmax := temp
           throttled := decide (800 ≤ temp) || (s.rel.throttled && decide (760 ≤ temp)) } })) ∧
     (s.rel.tripped = true →
       (s.agenda = [] → step s = .next s.passTime) ∧
       (∀ (x : Turn) (rest : List Turn), s.agenda = x :: rest →
         (x ≠ .event .deviceReset ∧ (∀ torn : Bool, x ≠ .event (.powerLoss torn)) →
           step s = .next (turnTaken s rest)) ∧
         (x = .event .deviceReset → step s = exec .deviceReset { turnTaken s rest with input := .deviceReset }) ∧
         (∀ torn : Bool, x = .event (.powerLoss torn) →
           step s = exec .powerLoss { turnTaken s rest with input := .powerLoss torn }))) ∧
     (∀ (e : SoftError) (rest : List Turn) (t : State), s.agenda = .soft e :: rest → s.rel.tripped = false →
       t = turnTaken s rest →
       (∀ n : Nat, e = .hbm n → n / 2 ^ 34 = s.fab.dord → n ∉ s.poison →
         step s = .next { t with rel := { s.rel with cehbm := s.rel.cehbm + 1 } }) ∧
       (e = .cache → step s = .next { t with rel := { s.rel with cecache := s.rel.cecache + 1 } }) ∧
       (e = .core → step s = .next { t with rel := { s.rel with cecore := s.rel.cecore + 1 } }) ∧
       (e = .fetch → step s = .next { t with rel := { s.rel with cefetch := s.rel.cefetch + 1 } }) ∧
       (∀ n : Nat, e = .tlbEntry n → step s = .next { t with
         tlb := s.tlb.eraseIdx n
         rel := { s.rel with cefetch := s.rel.cefetch + 1 } }) ∧
       (∀ n : Nat, e = .sector n → n / 2 ^ 34 = s.fab.dord → ∃ t' : State, step s = .next t' ∧ t'.mem = s.mem ∧
         n ∈ t'.poison ∧ t'.rel.uecnt = s.rel.uecnt + 1 ∧ t'.rel.uelast = BitVec.ofNat 64 (32 * n)) ∧
       (∀ (k : Nat) (addr : Word) (h : Hart), e = .read k addr → s.harts[k]? = some h → h.status = .running →
         h.run = none → step s = .next (deliverTrap k
           ⟨h, { t with rel := { s.rel with uecnt := s.rel.uecnt + 1, uelast := 0 } }⟩
           { Trap.plain causeUncorr 0 with addr := addr })) ∧
       (∀ (k : Nat) (tag : Slot) (addr : Word) (h : Hart) (f : Flight) (dst src len : Nat), e = .moved k tag.val addr →
         s.harts[k]? = some h → h.tags[tag] = .busy f → f.transfer = .copy dst src len false → f.done = false →
         (∀ (u : Slot) (g : Flight), h.tags[u] = .busy g → f.seq ≤ g.seq) →
         src ≤ addr.toNat → addr.toNat < src + len → addr.toNat < h.scratchSize →
         ∃ t' : State, step s = .next t' ∧ TagIs t' k tag (.failed causeUncorr 0 addr) ∧
           t'.rel.uecnt = s.rel.uecnt + 1)))

/-! ## Words and steps -/

/-- R3, R84, R85: a few words, written bit by bit, each with the instruction it stands for: the fields are, from
bit 31 down, the major opcode and the fields of R84's table. -/
def Obligations.DecodeWords : Prop :=
  -- ADD X3, X1, X2: major 0x02, xd, xa, xb, five zeros, fn 0
  decodeWord 0b000010_00011_00001_00010_00000_000000 = .instr (.add 3 1 2) ∧
  -- ADDI X5, X6, −1: major 0x03, xd, xa, imm16
  decodeWord 0b000011_00101_00110_1111111111111111 = .instr (.addi 5 6 0xFFFF) ∧
  -- LD X7, 16(X2): major 0x0D, xd, xa, fn 6, imm13
  decodeWord 0b001101_00111_00010_110_0000000010000 = .instr (.ld 7 2 16) ∧
  -- BNE X9, X10, −2 words: major 0x10, xa, xb, fn 1, imm13
  decodeWord 0b010000_01001_01010_001_1111111111110 = .instr (.bne 9 10 0x1FFE) ∧
  -- ACAS.D X1, X2, X3 at domain scope, acquire and release: fn 2 at bit 3, width at bit 2
  decodeWord 0b010011_00001_00010_00011_100_11_010_1_00 = .instr (.acas 1 2 3 .domain .acqRel true) ∧
  -- VADD V1, V2, V3, predicated, second operand constant
  decodeWord 0b010110_000001_000010_000011_1_0_1_00000 = .instr (.vadd 1 2 3 true false true) ∧
  -- VCMP.LT M1, V2, ATHR: operand code 62, cond 2
  decodeWord 0b011001_000001_000010_111110_0_0_0_010_00 = .instr (.vcmpLt 1 2 .athr false false) ∧
  -- VLD V4, (X5), predicated
  decodeWord 0b011100_000100_00101_000_000000_1_0_0000 = .instr (.vld 4 5 true) ∧
  -- MOPA bin 2 of V1, V3
  decodeWord 0b100111_10_0_0_0_0_000001_000011_00000000 = .instr (.mopa 2 1 3 false false false) ∧
  -- SRD X1, 0x004: fn 6
  decodeWord 0b000000_00001_00000_000000000100_0110 = .instr (.srd 1 4) ∧
  -- PFX mask 3, inverted, copy V5, slice bits 1
  decodeWord 0b000001_0011_1_000101_001_000000000000 = .instr (.pfx 3 true (some 5) 1) ∧
  -- a word of an unassigned major opcode (R84, R409)
  decodeWord 0xFFFFFFFF = .illegal 0 none

/-- R84, R96, R409: decode and encode agree. The word of every well-formed instruction, with every operand at every
value its encoding admits, fits 32 bits and decodes to that instruction; what has no word is an event, which some
input of the outside names, and no word decodes to it. So every well-formed instruction that is no event has a
word. -/
def Obligations.DecodeOfEncode : Prop :=
  ∀ i : Instr,
    (∀ w : Nat, encode i = some w → w < 2 ^ 32 ∧ (i.wellFormed = true → decodeWord w = .instr i)) ∧
    (encode i = none ↔ ∃ x : Input, eventOf x = some i) ∧
    (encode i = none → ∀ w : Nat, decodeWord w ≠ .instr i)

/-- R84, R96, R409: the other direction. A word that decodes to an instruction is that instruction's own word, so
no two words name one instruction and no bit of a word is dropped; the instruction is well formed; a word that is
refused has one of the details that R409 gives a word. -/
def Obligations.EncodeOfDecode : Prop :=
  ∀ w : Nat, w < 2 ^ 32 →
    (∀ i : Instr, decodeWord w = .instr i → i.wellFormed = true ∧ encode i = some w) ∧
    (∀ (d : Nat) (fields : Option Instr), decodeWord w = .illegal d fields →
      d = 0 ∨ d = 1 ∨ d = 2 ∨ d = 3 ∨ d = 4 ∨ d = 6)

/-- The turn that stands first on the agenda is the step's (log entry 1): a hart's instruction, with or without a look
at the window behind it (log entry 14), a virtual processor's word, or an event with its operands in `input`. When a
hart's turn has come and the word at its PC has been fetched (R78, R296), the step is `exec` of the instruction that
the word decodes to, in the machine that the fetch left; a word that decodes to none raises ILLEGAL (R96), with detail
3 where the prefix rules of R94 come first (R409), and directly after LSPLIT leaves lane-thread mode (R228); a fetch
that faults raises its cause, and one that waits changes nothing but the note of when its access was sent to the link,
and the page that it has translated (log entry 44). Where the instruction stands in a span whose WIN0 a handler has
cleared beside a valid entry its results are undefined (R287; `runLoose`, log entry 62). The word fetched is the four
bytes at the place that the PC resolves to, lowest address first.

R43, R351: what a step's time moves, before anything else of the step: every clock goes on by its own amount
(free values: the spec fixes none), and nothing else of the machine moves but the model's step counter; after a
thermal trip the clocks stand (R407). -/
def Obligations.StepRunsDecoded : Prop :=
  ((∀ (s : State) (k : Nat) (rest : List Turn), s.agenda = .hart k :: rest → s.rel.tripped = false →
     pickMove s.passTime = (.hart k, { s.passTime with
       agenda := rest
       cur := k
       vp := none })) ∧
   (∀ (s : State) (k p : Nat) (rest : List Turn), s.agenda = .vp k p :: rest → s.rel.tripped = false →
     step s = .next (vpStep k p { s.passTime with
       agenda := rest
       cur := k
       vp := some p })) ∧
   (∀ (s : State) (x : Input) (i : Instr) (rest : List Turn),
     s.agenda = .event x :: rest → s.rel.tripped = false → eventOf x = some i →
     step s = exec i { s.passTime with
       agenda := rest
       input := x }) ∧
   (∀ (s s' : State) (k : Nat) (h : Hart),
     pickMove s.passTime = (.hart k, s') → s'.harts[k]? = some h → h.status = .running → h.run = none →
     h.replay = none →
     (∀ (w : Nat) (c : Ctx), Ctx.fetch ⟨h, s'⟩ h.pc = .ok (w, c) →
       (∀ i : Instr, decodeWord w = .instr i →
         ((∀ (a : Word) (n : Nat), c.h.loose = some (a, n) → 4 * n ≤ (c.h.pc - a).toNat) →
           step s = exec i (c.s.setHart k c.h)) ∧
         (∀ (a : Word) (n : Nat), c.h.loose = some (a, n) → (c.h.pc - a).toNat < 4 * n →
           step s = runLoose k i c.h (c.s.setHart k c.h))) ∧
       (∀ (d : Nat) (fields : Option Instr), decodeWord w = .illegal d fields →
         (c.h.split = false → step s = .next (deliverTrap k c { Trap.illegal (illegalDetail c.h d fields) with
           atSelf := illegalDetail c.h d fields == 3 })) ∧
         (c.h.split = true → step s = .next (deliverTrap k { c with h := { c.h with lt := false, split := false } }
           { Trap.illegal (illegalDetail c.h d fields) with atSelf := illegalDetail c.h d fields == 3 })))) ∧
     (∀ (m : MemFault) (c : Ctx), Ctx.fetch ⟨h, s'⟩ h.pc = .error (.fault m c) →
       step s = .next (deliverTrap k c (m.trap 0 none))) ∧
     (∀ (sent : Option (Nat × AccKind)) (c : Ctx), Ctx.fetch ⟨h, s'⟩ h.pc = .error (.wait sent c) → h.stopAt = none →
       ∃ c' : Ctx, step s = .next (c'.s.setHart k c'.h) ∧ Sends s' h h.pc.toNat .fetch sent c') ∧
     (∀ (pa : Nat) (c : Ctx), Ctx.checked ⟨h, s'⟩ h.pc.toNat 4 .fetch none = .ok (.phys pa, c) →
       Ctx.fetch ⟨h, s'⟩ h.pc = .ok
         ((c.s.mem.read c.s.tick pa).toNat + 2 ^ 8 * (c.s.mem.read c.s.tick (pa + 1)).toNat +
           2 ^ 16 * (c.s.mem.read c.s.tick (pa + 2)).toNat + 2 ^ 24 * (c.s.mem.read c.s.tick (pa + 3)).toNat, c))) ∧
   (∀ (s s' t : State) (k : Nat) (ahead : List Nat) (rest : List Turn) (h h' : Hart) (w : Nat) (c : Ctx) (i : Instr),
     s.agenda = .window k ahead :: rest → s.rel.tripped = false → s.harts[k]? = some h → h.status = .running →
     h.run = none → h.replay = none →
     s' = { s.passTime with agenda := rest, cur := k, vp := none, harts := s.harts.set k { h with ahead := ahead } } →
     Ctx.fetch ⟨{ h with ahead := ahead }, s'⟩ h.pc = .ok (w, c) → decodeWord w = .instr i → c.h.loose = none →
     exec i (c.s.setHart k c.h) = .next t → t.harts[k]? = some h' →
     step s = .next (settleWindow k t) ∧
     (h'.drain = none → step s = .next (t.setHart k { h' with ahead := [] })))) ∧
  (∀ s : State,
     (s.rel.tripped = false → s.passTime = { s with
       tick := s.tick + 1
       hall := { s.hall with hcnt := s.hall.hcnt + BitVec.ofNat 64 (Config.hallTicks s.tick) }
       cyc := s.passTime.cyc } ∧
       ∀ c : Fin 128, s.passTime.cyc[c] = s.cyc[c] + BitVec.ofNat 64 (Config.cycles s.tick c.val)) ∧
     (s.rel.tripped = true → s.passTime = { s with tick := s.tick + 1 }))

/-! ## Invariants -/

/-- The device's memory keeps its canonical form in every step, whatever the step does: what it holds at an address
is one thing, so that equal memories are equal data. -/
def Obligations.MemoryStaysCanonical : Prop := StepKeeps (fun s => s.mem.wf = true)

/-- A hart's scratchpad, its scalar data memory, and the images of both in a context record (R368) keep their
canonical form in every step. -/
def Obligations.LocalMemoryStaysCanonical : Prop :=
  StepKeeps (fun s => ∀ h ∈ s.harts, h.scratch.wf = true ∧ h.sdata.wf = true ∧
    ∀ r : CtxRecord, h.record = some r → ∀ a b : Memory, r.image = some (a, b) → a.wf = true ∧ b.wf = true)

/-- The machine right after reset, as spec 19 to 24 give it: no launch and no hart; the hall's registers (R335, R352,
R373, R378), the link down with its counts at 0 (R335), the ROM at STAGE 1 (R384), the fabric block (R392), telemetry
and the governor at 3.0 GHz (R405); the registers a hart has before the hall places it (R20, R39); every memory in its
canonical form. That memory reads as zero, CYC is 0 and flash and OTP are blank are the model's choices (log entries
2, 4 and 5). -/
def Obligations.ResetValues : Prop :=
  State.reset.harts = [] ∧ State.reset.hall.launches = [] ∧
  State.reset.hall.ywin = 30000 ∧ State.reset.hall.age = 1500000000 ∧ State.reset.hall.cl0q = 0 ∧
  State.reset.hall.atlim = 0 ∧ State.reset.hall.ivchan = 0 ∧ State.reset.hall.hcnt = 0 ∧
  State.reset.hall.dlmiss = 0 ∧ State.reset.hall.yields = 0 ∧ State.reset.hall.hstops = 0 ∧
  (∀ q : Nat, State.reset.hall.queue q = Queue.reset) ∧
  State.reset.link.up = false ∧ State.reset.link.retrained = 0 ∧ State.reset.link.malacc = 0 ∧
  State.reset.sec.stage = 1 ∧ State.reset.sec.err = 0 ∧
  State.reset.fab.den = false ∧ State.reset.fab.dmemb = 0 ∧ State.reset.fab.cto = 1500000 ∧
  State.reset.fab.mbuf = 0x1000000 ∧ (∀ p : Fin 24, State.reset.fab.ports[p].up = false) ∧
  State.reset.rel.plim = 2800 ∧ (∀ q : Fin 32, State.reset.rel.qclk[q] = 6) ∧
  State.reset.rel.throttled = false ∧ State.reset.rel.tripped = false ∧
  (∀ r : XReg, Hart.reset.getX r = 0) ∧ (∀ r : VReg, Hart.reset.v[r] = VecReg.reset) ∧
  Hart.reset.vtype = 3 ∧ Hart.reset.vrows = 1 ∧ Hart.reset.vcols = 0 ∧ Hart.reset.vstart = 0 ∧
  Hart.reset.fpcsr = 0 ∧ Hart.reset.tvec = 0 ∧ Hart.reset.athr = 0xFF800000 ∧
  State.reset.mem.wf = true ∧ (∀ tick a : Nat, State.reset.mem.read tick a = 0)

end ObligationsOfSlice0
end

