-- ==== Sys2Proof/Laws/State.lean ====
section
/-!
SUPPORT. What each update of the machine and of a hart leaves in every field: one lemma for a field of an
update.
-/
namespace Sys2Proof.Machine

/-! ### Updates of the machine -/

@[simp] theorem State.setHart_harts (s : State) (k : Nat) (h : Hart) : (s.setHart k h).harts = s.harts.set k h := rfl
@[simp] theorem State.setHart_mem (s : State) (k : Nat) (h : Hart) : (s.setHart k h).mem = s.mem := rfl
@[simp] theorem State.setHart_poison (s : State) (k : Nat) (h : Hart) : (s.setHart k h).poison = s.poison := rfl
@[simp] theorem State.setHart_tlb (s : State) (k : Nat) (h : Hart) : (s.setHart k h).tlb = s.tlb := rfl
@[simp] theorem State.setHart_cyc (s : State) (k : Nat) (h : Hart) : (s.setHart k h).cyc = s.cyc := rfl
@[simp] theorem State.setHart_hall (s : State) (k : Nat) (h : Hart) : (s.setHart k h).hall = s.hall := rfl
@[simp] theorem State.setHart_link (s : State) (k : Nat) (h : Hart) : (s.setHart k h).link = s.link := rfl
@[simp] theorem State.setHart_sec (s : State) (k : Nat) (h : Hart) : (s.setHart k h).sec = s.sec := rfl
@[simp] theorem State.setHart_fab (s : State) (k : Nat) (h : Hart) : (s.setHart k h).fab = s.fab := rfl
@[simp] theorem State.setHart_rel (s : State) (k : Nat) (h : Hart) : (s.setHart k h).rel = s.rel := rfl
@[simp] theorem State.setHart_cur (s : State) (k : Nat) (h : Hart) : (s.setHart k h).cur = s.cur := rfl
@[simp] theorem State.setHart_vp (s : State) (k : Nat) (h : Hart) : (s.setHart k h).vp = s.vp := rfl
@[simp] theorem State.setHart_agenda (s : State) (k : Nat) (h : Hart) : (s.setHart k h).agenda = s.agenda := rfl
@[simp] theorem State.setHart_tick (s : State) (k : Nat) (h : Hart) : (s.setHart k h).tick = s.tick := rfl
@[simp] theorem State.setHart_input (s : State) (k : Nat) (h : Hart) : (s.setHart k h).input = s.input := rfl

@[simp] theorem State.setLaunch_harts (s : State) (l : Nat) (L : Launch) : (s.setLaunch l L).harts = s.harts := rfl
@[simp] theorem State.setLaunch_mem (s : State) (l : Nat) (L : Launch) : (s.setLaunch l L).mem = s.mem := rfl
@[simp] theorem State.setLaunch_poison (s : State) (l : Nat) (L : Launch) : (s.setLaunch l L).poison = s.poison := rfl
@[simp] theorem State.setLaunch_tlb (s : State) (l : Nat) (L : Launch) : (s.setLaunch l L).tlb = s.tlb := rfl
@[simp] theorem State.setLaunch_cyc (s : State) (l : Nat) (L : Launch) : (s.setLaunch l L).cyc = s.cyc := rfl
@[simp] theorem State.setLaunch_hall (s : State) (l : Nat) (L : Launch) : (s.setLaunch l L).hall = { s.hall with launches := s.hall.launches.set l L } := rfl
@[simp] theorem State.setLaunch_link (s : State) (l : Nat) (L : Launch) : (s.setLaunch l L).link = s.link := rfl
@[simp] theorem State.setLaunch_sec (s : State) (l : Nat) (L : Launch) : (s.setLaunch l L).sec = s.sec := rfl
@[simp] theorem State.setLaunch_fab (s : State) (l : Nat) (L : Launch) : (s.setLaunch l L).fab = s.fab := rfl
@[simp] theorem State.setLaunch_rel (s : State) (l : Nat) (L : Launch) : (s.setLaunch l L).rel = s.rel := rfl
@[simp] theorem State.setLaunch_cur (s : State) (l : Nat) (L : Launch) : (s.setLaunch l L).cur = s.cur := rfl
@[simp] theorem State.setLaunch_vp (s : State) (l : Nat) (L : Launch) : (s.setLaunch l L).vp = s.vp := rfl
@[simp] theorem State.setLaunch_agenda (s : State) (l : Nat) (L : Launch) : (s.setLaunch l L).agenda = s.agenda := rfl
@[simp] theorem State.setLaunch_tick (s : State) (l : Nat) (L : Launch) : (s.setLaunch l L).tick = s.tick := rfl
@[simp] theorem State.setLaunch_input (s : State) (l : Nat) (L : Launch) : (s.setLaunch l L).input = s.input := rfl

@[simp] theorem State.mapHall_harts (s : State) (f : Hall → Hall) : (s.mapHall f).harts = s.harts := rfl
@[simp] theorem State.mapHall_mem (s : State) (f : Hall → Hall) : (s.mapHall f).mem = s.mem := rfl
@[simp] theorem State.mapHall_poison (s : State) (f : Hall → Hall) : (s.mapHall f).poison = s.poison := rfl
@[simp] theorem State.mapHall_tlb (s : State) (f : Hall → Hall) : (s.mapHall f).tlb = s.tlb := rfl
@[simp] theorem State.mapHall_cyc (s : State) (f : Hall → Hall) : (s.mapHall f).cyc = s.cyc := rfl
@[simp] theorem State.mapHall_hall (s : State) (f : Hall → Hall) : (s.mapHall f).hall = f s.hall := rfl
@[simp] theorem State.mapHall_link (s : State) (f : Hall → Hall) : (s.mapHall f).link = s.link := rfl
@[simp] theorem State.mapHall_sec (s : State) (f : Hall → Hall) : (s.mapHall f).sec = s.sec := rfl
@[simp] theorem State.mapHall_fab (s : State) (f : Hall → Hall) : (s.mapHall f).fab = s.fab := rfl
@[simp] theorem State.mapHall_rel (s : State) (f : Hall → Hall) : (s.mapHall f).rel = s.rel := rfl
@[simp] theorem State.mapHall_cur (s : State) (f : Hall → Hall) : (s.mapHall f).cur = s.cur := rfl
@[simp] theorem State.mapHall_vp (s : State) (f : Hall → Hall) : (s.mapHall f).vp = s.vp := rfl
@[simp] theorem State.mapHall_agenda (s : State) (f : Hall → Hall) : (s.mapHall f).agenda = s.agenda := rfl
@[simp] theorem State.mapHall_tick (s : State) (f : Hall → Hall) : (s.mapHall f).tick = s.tick := rfl
@[simp] theorem State.mapHall_input (s : State) (f : Hall → Hall) : (s.mapHall f).input = s.input := rfl

/-! ### Updates of a hart -/

@[simp] theorem Hart.setTag_launch (h : Hart) (r : VReg) (t : Nat) : (h.setTag r t).launch = h.launch := rfl
@[simp] theorem Hart.setTag_status (h : Hart) (r : VReg) (t : Nat) : (h.setTag r t).status = h.status := rfl
@[simp] theorem Hart.setTag_core (h : Hart) (r : VReg) (t : Nat) : (h.setTag r t).core = h.core := rfl
@[simp] theorem Hart.setTag_base (h : Hart) (r : VReg) (t : Nat) : (h.setTag r t).base = h.base := rfl
@[simp] theorem Hart.setTag_size (h : Hart) (r : VReg) (t : Nat) : (h.setTag r t).size = h.size := rfl
@[simp] theorem Hart.setTag_pend (h : Hart) (r : VReg) (t : Nat) : (h.setTag r t).pend = h.pend := rfl
@[simp] theorem Hart.setTag_offer (h : Hart) (r : VReg) (t : Nat) : (h.setTag r t).offer = h.offer := rfl
@[simp] theorem Hart.setTag_startSize (h : Hart) (r : VReg) (t : Nat) : (h.setTag r t).startSize = h.startSize := rfl
@[simp] theorem Hart.setTag_pc (h : Hart) (r : VReg) (t : Nat) : (h.setTag r t).pc = h.pc := rfl
@[simp] theorem Hart.setTag_x (h : Hart) (r : VReg) (t : Nat) : (h.setTag r t).x = h.x := rfl
@[simp] theorem Hart.setTag_v (h : Hart) (r : VReg) (t : Nat) : (h.setTag r t).v = h.v.set r { h.v[r] with tag := some (BitVec.ofNat 7 t) } :=
  rfl
@[simp] theorem Hart.setTag_m (h : Hart) (r : VReg) (t : Nat) : (h.setTag r t).m = h.m := rfl
@[simp] theorem Hart.setTag_op (h : Hart) (r : VReg) (t : Nat) : (h.setTag r t).op = h.op := rfl
@[simp] theorem Hart.setTag_width (h : Hart) (r : VReg) (t : Nat) : (h.setTag r t).width = h.width := rfl
@[simp] theorem Hart.setTag_lanes (h : Hart) (r : VReg) (t : Nat) : (h.setTag r t).lanes = h.lanes := rfl
@[simp] theorem Hart.setTag_scratch (h : Hart) (r : VReg) (t : Nat) : (h.setTag r t).scratch = h.scratch := rfl
@[simp] theorem Hart.setTag_scratchSize (h : Hart) (r : VReg) (t : Nat) : (h.setTag r t).scratchSize = h.scratchSize :=
  rfl
@[simp] theorem Hart.setTag_sdata (h : Hart) (r : VReg) (t : Nat) : (h.setTag r t).sdata = h.sdata := rfl
@[simp] theorem Hart.setTag_sdataSize (h : Hart) (r : VReg) (t : Nat) : (h.setTag r t).sdataSize = h.sdataSize := rfl
@[simp] theorem Hart.setTag_wp (h : Hart) (r : VReg) (t : Nat) : (h.setTag r t).wp = h.wp := rfl
@[simp] theorem Hart.setTag_ma (h : Hart) (r : VReg) (t : Nat) : (h.setTag r t).ma = h.ma := rfl
@[simp] theorem Hart.setTag_lt (h : Hart) (r : VReg) (t : Nat) : (h.setTag r t).lt = h.lt := rfl
@[simp] theorem Hart.setTag_pfx (h : Hart) (r : VReg) (t : Nat) : (h.setTag r t).pfx = h.pfx := rfl
@[simp] theorem Hart.setTag_waits (h : Hart) (r : VReg) (t : Nat) : (h.setTag r t).waits = h.waits := rfl
@[simp] theorem Hart.setTag_vtype (h : Hart) (r : VReg) (t : Nat) : (h.setTag r t).vtype = h.vtype := rfl
@[simp] theorem Hart.setTag_vrows (h : Hart) (r : VReg) (t : Nat) : (h.setTag r t).vrows = h.vrows := rfl
@[simp] theorem Hart.setTag_vcols (h : Hart) (r : VReg) (t : Nat) : (h.setTag r t).vcols = h.vcols := rfl
@[simp] theorem Hart.setTag_vstart (h : Hart) (r : VReg) (t : Nat) : (h.setTag r t).vstart = h.vstart := rfl
@[simp] theorem Hart.setTag_sb (h : Hart) (r : VReg) (t : Nat) : (h.setTag r t).sb = h.sb := rfl
@[simp] theorem Hart.setTag_rkey (h : Hart) (r : VReg) (t : Nat) : (h.setTag r t).rkey = h.rkey := rfl
@[simp] theorem Hart.setTag_passst (h : Hart) (r : VReg) (t : Nat) : (h.setTag r t).passst = h.passst := rfl
@[simp] theorem Hart.setTag_pseq (h : Hart) (r : VReg) (t : Nat) : (h.setTag r t).pseq = h.pseq := rfl
@[simp] theorem Hart.setTag_fpcsr (h : Hart) (r : VReg) (t : Nat) : (h.setTag r t).fpcsr = h.fpcsr := rfl
@[simp] theorem Hart.setTag_athr (h : Hart) (r : VReg) (t : Nat) : (h.setTag r t).athr = h.athr := rfl
@[simp] theorem Hart.setTag_mgrant (h : Hart) (r : VReg) (t : Nat) : (h.setTag r t).mgrant = h.mgrant := rfl
@[simp] theorem Hart.setTag_mvl (h : Hart) (r : VReg) (t : Nat) : (h.setTag r t).mvl = h.mvl := rfl
@[simp] theorem Hart.setTag_xfri (h : Hart) (r : VReg) (t : Nat) : (h.setTag r t).xfri = h.xfri := rfl
@[simp] theorem Hart.setTag_livev (h : Hart) (r : VReg) (t : Nat) : (h.setTag r t).livev = h.livev := rfl
@[simp] theorem Hart.setTag_tvec (h : Hart) (r : VReg) (t : Nat) : (h.setTag r t).tvec = h.tvec := rfl
@[simp] theorem Hart.setTag_tpc (h : Hart) (r : VReg) (t : Nat) : (h.setTag r t).tpc = h.tpc := rfl
@[simp] theorem Hart.setTag_tcause (h : Hart) (r : VReg) (t : Nat) : (h.setTag r t).tcause = h.tcause := rfl
@[simp] theorem Hart.setTag_taddr (h : Hart) (r : VReg) (t : Nat) : (h.setTag r t).taddr = h.taddr := rfl
@[simp] theorem Hart.setTag_telem (h : Hart) (r : VReg) (t : Nat) : (h.setTag r t).telem = h.telem := rfl
@[simp] theorem Hart.setTag_spc (h : Hart) (r : VReg) (t : Nat) : (h.setTag r t).spc = h.spc := rfl
@[simp] theorem Hart.setTag_win (h : Hart) (r : VReg) (t : Nat) : (h.setTag r t).win = h.win := rfl
@[simp] theorem Hart.setTag_windowed (h : Hart) (r : VReg) (t : Nat) : (h.setTag r t).windowed = h.windowed := rfl
@[simp] theorem Hart.setTag_hartid (h : Hart) (r : VReg) (t : Nat) : (h.setTag r t).hartid = h.hartid := rfl
@[simp] theorem Hart.setTag_gangid (h : Hart) (r : VReg) (t : Nat) : (h.setTag r t).gangid = h.gangid := rfl
@[simp] theorem Hart.setTag_gangn (h : Hart) (r : VReg) (t : Nat) : (h.setTag r t).gangn = h.gangn := rfl
@[simp] theorem Hart.setTag_yreq (h : Hart) (r : VReg) (t : Nat) : (h.setTag r t).yreq = h.yreq := rfl
@[simp] theorem Hart.setTag_tags (h : Hart) (r : VReg) (t : Nat) : (h.setTag r t).tags = h.tags := rfl
@[simp] theorem Hart.setTag_nextSeq (h : Hart) (r : VReg) (t : Nat) : (h.setTag r t).nextSeq = h.nextSeq := rfl
@[simp] theorem Hart.setTag_held (h : Hart) (r : VReg) (t : Nat) : (h.setTag r t).held = h.held := rfl
@[simp] theorem Hart.setTag_bins (h : Hart) (r : VReg) (t : Nat) : (h.setTag r t).bins = h.bins := rfl
@[simp] theorem Hart.setTag_split (h : Hart) (r : VReg) (t : Nat) : (h.setTag r t).split = h.split := rfl
@[simp] theorem Hart.setTag_vfetchAt (h : Hart) (r : VReg) (t : Nat) : (h.setTag r t).vfetchAt = h.vfetchAt := rfl
@[simp] theorem Hart.setTag_run (h : Hart) (r : VReg) (t : Nat) : (h.setTag r t).run = h.run := rfl
@[simp] theorem Hart.setTag_replay (h : Hart) (r : VReg) (t : Nat) : (h.setTag r t).replay = h.replay := rfl
@[simp] theorem Hart.setTag_spans (h : Hart) (r : VReg) (t : Nat) : (h.setTag r t).spans = h.spans := rfl
@[simp] theorem Hart.setTag_span (h : Hart) (r : VReg) (t : Nat) : (h.setTag r t).span = h.span := rfl
@[simp] theorem Hart.setTag_loose (h : Hart) (r : VReg) (t : Nat) : (h.setTag r t).loose = h.loose := rfl
@[simp] theorem Hart.setTag_barriers (h : Hart) (r : VReg) (t : Nat) : (h.setTag r t).barriers = h.barriers := rfl
@[simp] theorem Hart.setTag_arrived (h : Hart) (r : VReg) (t : Nat) : (h.setTag r t).arrived = h.arrived := rfl
@[simp] theorem Hart.setTag_yieldAt (h : Hart) (r : VReg) (t : Nat) : (h.setTag r t).yieldAt = h.yieldAt := rfl
@[simp] theorem Hart.setTag_pendAt (h : Hart) (r : VReg) (t : Nat) : (h.setTag r t).pendAt = h.pendAt := rfl
@[simp] theorem Hart.setTag_stopAt (h : Hart) (r : VReg) (t : Nat) : (h.setTag r t).stopAt = h.stopAt := rfl
@[simp] theorem Hart.setTag_ahead (h : Hart) (r : VReg) (t : Nat) : (h.setTag r t).ahead = h.ahead := rfl
@[simp] theorem Hart.setTag_drain (h : Hart) (r : VReg) (t : Nat) : (h.setTag r t).drain = h.drain := rfl
@[simp] theorem Hart.setTag_sentAt (h : Hart) (r : VReg) (t : Nat) : (h.setTag r t).sentAt = h.sentAt := rfl
@[simp] theorem Hart.setTag_sentPage (h : Hart) (r : VReg) (t : Nat) : (h.setTag r t).sentPage = h.sentPage := rfl
@[simp] theorem Hart.setTag_timedOut (h : Hart) (r : VReg) (t : Nat) : (h.setTag r t).timedOut = h.timedOut := rfl
@[simp] theorem Hart.setTag_mattAt (h : Hart) (r : VReg) (t : Nat) : (h.setTag r t).mattAt = h.mattAt := rfl
@[simp] theorem Hart.setTag_shapeSeen (h : Hart) (r : VReg) (t : Nat) : (h.setTag r t).shapeSeen = h.shapeSeen := rfl
@[simp] theorem Hart.setTag_tagDraw (h : Hart) (r : VReg) (t : Nat) : (h.setTag r t).tagDraw = h.tagDraw := rfl
@[simp] theorem Hart.setTag_noAck (h : Hart) (r : VReg) (t : Nat) : (h.setTag r t).noAck = h.noAck := rfl
@[simp] theorem Hart.setTag_fault (h : Hart) (r : VReg) (t : Nat) : (h.setTag r t).fault = h.fault := rfl
@[simp] theorem Hart.setTag_record (h : Hart) (r : VReg) (t : Nat) : (h.setTag r t).record = h.record := rfl

@[simp] theorem Hart.writeSpot_launch (h : Hart) (tick : Nat) (r : VReg) (p : Spot) (n b : Nat) : (h.writeSpot tick r p n b).launch = h.launch :=
  rfl
@[simp] theorem Hart.writeSpot_status (h : Hart) (tick : Nat) (r : VReg) (p : Spot) (n b : Nat) : (h.writeSpot tick r p n b).status = h.status :=
  rfl
@[simp] theorem Hart.writeSpot_core (h : Hart) (tick : Nat) (r : VReg) (p : Spot) (n b : Nat) : (h.writeSpot tick r p n b).core = h.core :=
  rfl
@[simp] theorem Hart.writeSpot_base (h : Hart) (tick : Nat) (r : VReg) (p : Spot) (n b : Nat) : (h.writeSpot tick r p n b).base = h.base :=
  rfl
@[simp] theorem Hart.writeSpot_size (h : Hart) (tick : Nat) (r : VReg) (p : Spot) (n b : Nat) : (h.writeSpot tick r p n b).size = h.size :=
  rfl
@[simp] theorem Hart.writeSpot_pend (h : Hart) (tick : Nat) (r : VReg) (p : Spot) (n b : Nat) : (h.writeSpot tick r p n b).pend = h.pend :=
  rfl
@[simp] theorem Hart.writeSpot_offer (h : Hart) (tick : Nat) (r : VReg) (p : Spot) (n b : Nat) : (h.writeSpot tick r p n b).offer = h.offer :=
  rfl
@[simp] theorem Hart.writeSpot_startSize (h : Hart) (tick : Nat) (r : VReg) (p : Spot) (n b : Nat) : (h.writeSpot tick r p n b).startSize = h.startSize :=
  rfl
@[simp] theorem Hart.writeSpot_pc (h : Hart) (tick : Nat) (r : VReg) (p : Spot) (n b : Nat) : (h.writeSpot tick r p n b).pc = h.pc :=
  rfl
@[simp] theorem Hart.writeSpot_x (h : Hart) (tick : Nat) (r : VReg) (p : Spot) (n b : Nat) : (h.writeSpot tick r p n b).x = h.x :=
  rfl
@[simp] theorem Hart.writeSpot_m (h : Hart) (tick : Nat) (r : VReg) (p : Spot) (n b : Nat) : (h.writeSpot tick r p n b).m = h.m :=
  rfl
@[simp] theorem Hart.writeSpot_op (h : Hart) (tick : Nat) (r : VReg) (p : Spot) (n b : Nat) : (h.writeSpot tick r p n b).op = h.op :=
  rfl
@[simp] theorem Hart.writeSpot_width (h : Hart) (tick : Nat) (r : VReg) (p : Spot) (n b : Nat) : (h.writeSpot tick r p n b).width = h.width :=
  rfl
@[simp] theorem Hart.writeSpot_lanes (h : Hart) (tick : Nat) (r : VReg) (p : Spot) (n b : Nat) : (h.writeSpot tick r p n b).lanes = h.lanes :=
  rfl
@[simp] theorem Hart.writeSpot_scratch (h : Hart) (tick : Nat) (r : VReg) (p : Spot) (n b : Nat) : (h.writeSpot tick r p n b).scratch = h.scratch :=
  rfl
@[simp] theorem Hart.writeSpot_scratchSize (h : Hart) (tick : Nat) (r : VReg) (p : Spot) (n b : Nat) : (h.writeSpot tick r p n b).scratchSize = h.scratchSize :=
  rfl
@[simp] theorem Hart.writeSpot_sdata (h : Hart) (tick : Nat) (r : VReg) (p : Spot) (n b : Nat) : (h.writeSpot tick r p n b).sdata = h.sdata :=
  rfl
@[simp] theorem Hart.writeSpot_sdataSize (h : Hart) (tick : Nat) (r : VReg) (p : Spot) (n b : Nat) : (h.writeSpot tick r p n b).sdataSize = h.sdataSize :=
  rfl
@[simp] theorem Hart.writeSpot_wp (h : Hart) (tick : Nat) (r : VReg) (p : Spot) (n b : Nat) : (h.writeSpot tick r p n b).wp = h.wp :=
  rfl
@[simp] theorem Hart.writeSpot_ma (h : Hart) (tick : Nat) (r : VReg) (p : Spot) (n b : Nat) : (h.writeSpot tick r p n b).ma = h.ma :=
  rfl
@[simp] theorem Hart.writeSpot_lt (h : Hart) (tick : Nat) (r : VReg) (p : Spot) (n b : Nat) : (h.writeSpot tick r p n b).lt = h.lt :=
  rfl
@[simp] theorem Hart.writeSpot_pfx (h : Hart) (tick : Nat) (r : VReg) (p : Spot) (n b : Nat) : (h.writeSpot tick r p n b).pfx = h.pfx :=
  rfl
@[simp] theorem Hart.writeSpot_waits (h : Hart) (tick : Nat) (r : VReg) (p : Spot) (n b : Nat) : (h.writeSpot tick r p n b).waits = h.waits :=
  rfl
@[simp] theorem Hart.writeSpot_vtype (h : Hart) (tick : Nat) (r : VReg) (p : Spot) (n b : Nat) : (h.writeSpot tick r p n b).vtype = h.vtype :=
  rfl
@[simp] theorem Hart.writeSpot_vrows (h : Hart) (tick : Nat) (r : VReg) (p : Spot) (n b : Nat) : (h.writeSpot tick r p n b).vrows = h.vrows :=
  rfl
@[simp] theorem Hart.writeSpot_vcols (h : Hart) (tick : Nat) (r : VReg) (p : Spot) (n b : Nat) : (h.writeSpot tick r p n b).vcols = h.vcols :=
  rfl
@[simp] theorem Hart.writeSpot_vstart (h : Hart) (tick : Nat) (r : VReg) (p : Spot) (n b : Nat) : (h.writeSpot tick r p n b).vstart = h.vstart :=
  rfl
@[simp] theorem Hart.writeSpot_sb (h : Hart) (tick : Nat) (r : VReg) (p : Spot) (n b : Nat) : (h.writeSpot tick r p n b).sb = h.sb :=
  rfl
@[simp] theorem Hart.writeSpot_rkey (h : Hart) (tick : Nat) (r : VReg) (p : Spot) (n b : Nat) : (h.writeSpot tick r p n b).rkey = h.rkey :=
  rfl
@[simp] theorem Hart.writeSpot_passst (h : Hart) (tick : Nat) (r : VReg) (p : Spot) (n b : Nat) : (h.writeSpot tick r p n b).passst = h.passst :=
  rfl
@[simp] theorem Hart.writeSpot_pseq (h : Hart) (tick : Nat) (r : VReg) (p : Spot) (n b : Nat) : (h.writeSpot tick r p n b).pseq = h.pseq :=
  rfl
@[simp] theorem Hart.writeSpot_fpcsr (h : Hart) (tick : Nat) (r : VReg) (p : Spot) (n b : Nat) : (h.writeSpot tick r p n b).fpcsr = h.fpcsr :=
  rfl
@[simp] theorem Hart.writeSpot_athr (h : Hart) (tick : Nat) (r : VReg) (p : Spot) (n b : Nat) : (h.writeSpot tick r p n b).athr = h.athr :=
  rfl
@[simp] theorem Hart.writeSpot_mgrant (h : Hart) (tick : Nat) (r : VReg) (p : Spot) (n b : Nat) : (h.writeSpot tick r p n b).mgrant = h.mgrant :=
  rfl
@[simp] theorem Hart.writeSpot_mvl (h : Hart) (tick : Nat) (r : VReg) (p : Spot) (n b : Nat) : (h.writeSpot tick r p n b).mvl = h.mvl :=
  rfl
@[simp] theorem Hart.writeSpot_xfri (h : Hart) (tick : Nat) (r : VReg) (p : Spot) (n b : Nat) : (h.writeSpot tick r p n b).xfri = h.xfri :=
  rfl
@[simp] theorem Hart.writeSpot_livev (h : Hart) (tick : Nat) (r : VReg) (p : Spot) (n b : Nat) : (h.writeSpot tick r p n b).livev = h.livev :=
  rfl
@[simp] theorem Hart.writeSpot_tvec (h : Hart) (tick : Nat) (r : VReg) (p : Spot) (n b : Nat) : (h.writeSpot tick r p n b).tvec = h.tvec :=
  rfl
@[simp] theorem Hart.writeSpot_tpc (h : Hart) (tick : Nat) (r : VReg) (p : Spot) (n b : Nat) : (h.writeSpot tick r p n b).tpc = h.tpc :=
  rfl
@[simp] theorem Hart.writeSpot_tcause (h : Hart) (tick : Nat) (r : VReg) (p : Spot) (n b : Nat) : (h.writeSpot tick r p n b).tcause = h.tcause :=
  rfl
@[simp] theorem Hart.writeSpot_taddr (h : Hart) (tick : Nat) (r : VReg) (p : Spot) (n b : Nat) : (h.writeSpot tick r p n b).taddr = h.taddr :=
  rfl
@[simp] theorem Hart.writeSpot_telem (h : Hart) (tick : Nat) (r : VReg) (p : Spot) (n b : Nat) : (h.writeSpot tick r p n b).telem = h.telem :=
  rfl
@[simp] theorem Hart.writeSpot_spc (h : Hart) (tick : Nat) (r : VReg) (p : Spot) (n b : Nat) : (h.writeSpot tick r p n b).spc = h.spc :=
  rfl
@[simp] theorem Hart.writeSpot_win (h : Hart) (tick : Nat) (r : VReg) (p : Spot) (n b : Nat) : (h.writeSpot tick r p n b).win = h.win :=
  rfl
@[simp] theorem Hart.writeSpot_windowed (h : Hart) (tick : Nat) (r : VReg) (p : Spot) (n b : Nat) : (h.writeSpot tick r p n b).windowed = h.windowed :=
  rfl
@[simp] theorem Hart.writeSpot_hartid (h : Hart) (tick : Nat) (r : VReg) (p : Spot) (n b : Nat) : (h.writeSpot tick r p n b).hartid = h.hartid :=
  rfl
@[simp] theorem Hart.writeSpot_gangid (h : Hart) (tick : Nat) (r : VReg) (p : Spot) (n b : Nat) : (h.writeSpot tick r p n b).gangid = h.gangid :=
  rfl
@[simp] theorem Hart.writeSpot_gangn (h : Hart) (tick : Nat) (r : VReg) (p : Spot) (n b : Nat) : (h.writeSpot tick r p n b).gangn = h.gangn :=
  rfl
@[simp] theorem Hart.writeSpot_yreq (h : Hart) (tick : Nat) (r : VReg) (p : Spot) (n b : Nat) : (h.writeSpot tick r p n b).yreq = h.yreq :=
  rfl
@[simp] theorem Hart.writeSpot_tags (h : Hart) (tick : Nat) (r : VReg) (p : Spot) (n b : Nat) : (h.writeSpot tick r p n b).tags = h.tags :=
  rfl
@[simp] theorem Hart.writeSpot_nextSeq (h : Hart) (tick : Nat) (r : VReg) (p : Spot) (n b : Nat) : (h.writeSpot tick r p n b).nextSeq = h.nextSeq :=
  rfl
@[simp] theorem Hart.writeSpot_held (h : Hart) (tick : Nat) (r : VReg) (p : Spot) (n b : Nat) : (h.writeSpot tick r p n b).held = h.held :=
  rfl
@[simp] theorem Hart.writeSpot_bins (h : Hart) (tick : Nat) (r : VReg) (p : Spot) (n b : Nat) : (h.writeSpot tick r p n b).bins = h.bins :=
  rfl
@[simp] theorem Hart.writeSpot_split (h : Hart) (tick : Nat) (r : VReg) (p : Spot) (n b : Nat) : (h.writeSpot tick r p n b).split = h.split :=
  rfl
@[simp] theorem Hart.writeSpot_vfetchAt (h : Hart) (tick : Nat) (r : VReg) (p : Spot) (n b : Nat) : (h.writeSpot tick r p n b).vfetchAt = h.vfetchAt :=
  rfl
@[simp] theorem Hart.writeSpot_run (h : Hart) (tick : Nat) (r : VReg) (p : Spot) (n b : Nat) : (h.writeSpot tick r p n b).run = h.run :=
  rfl
@[simp] theorem Hart.writeSpot_replay (h : Hart) (tick : Nat) (r : VReg) (p : Spot) (n b : Nat) : (h.writeSpot tick r p n b).replay = h.replay :=
  rfl
@[simp] theorem Hart.writeSpot_spans (h : Hart) (tick : Nat) (r : VReg) (p : Spot) (n b : Nat) : (h.writeSpot tick r p n b).spans = h.spans :=
  rfl
@[simp] theorem Hart.writeSpot_span (h : Hart) (tick : Nat) (r : VReg) (p : Spot) (n b : Nat) : (h.writeSpot tick r p n b).span = h.span :=
  rfl
@[simp] theorem Hart.writeSpot_loose (h : Hart) (tick : Nat) (r : VReg) (p : Spot) (n b : Nat) : (h.writeSpot tick r p n b).loose = h.loose :=
  rfl
@[simp] theorem Hart.writeSpot_barriers (h : Hart) (tick : Nat) (r : VReg) (p : Spot) (n b : Nat) : (h.writeSpot tick r p n b).barriers = h.barriers :=
  rfl
@[simp] theorem Hart.writeSpot_arrived (h : Hart) (tick : Nat) (r : VReg) (p : Spot) (n b : Nat) : (h.writeSpot tick r p n b).arrived = h.arrived :=
  rfl
@[simp] theorem Hart.writeSpot_yieldAt (h : Hart) (tick : Nat) (r : VReg) (p : Spot) (n b : Nat) : (h.writeSpot tick r p n b).yieldAt = h.yieldAt :=
  rfl
@[simp] theorem Hart.writeSpot_pendAt (h : Hart) (tick : Nat) (r : VReg) (p : Spot) (n b : Nat) : (h.writeSpot tick r p n b).pendAt = h.pendAt :=
  rfl
@[simp] theorem Hart.writeSpot_stopAt (h : Hart) (tick : Nat) (r : VReg) (p : Spot) (n b : Nat) : (h.writeSpot tick r p n b).stopAt = h.stopAt :=
  rfl
@[simp] theorem Hart.writeSpot_ahead (h : Hart) (tick : Nat) (r : VReg) (p : Spot) (n b : Nat) : (h.writeSpot tick r p n b).ahead = h.ahead :=
  rfl
@[simp] theorem Hart.writeSpot_drain (h : Hart) (tick : Nat) (r : VReg) (p : Spot) (n b : Nat) : (h.writeSpot tick r p n b).drain = h.drain :=
  rfl
@[simp] theorem Hart.writeSpot_sentAt (h : Hart) (tick : Nat) (r : VReg) (p : Spot) (n b : Nat) : (h.writeSpot tick r p n b).sentAt = h.sentAt :=
  rfl
@[simp] theorem Hart.writeSpot_sentPage (h : Hart) (tick : Nat) (r : VReg) (p : Spot) (n b : Nat) : (h.writeSpot tick r p n b).sentPage = h.sentPage :=
  rfl
@[simp] theorem Hart.writeSpot_timedOut (h : Hart) (tick : Nat) (r : VReg) (p : Spot) (n b : Nat) : (h.writeSpot tick r p n b).timedOut = h.timedOut :=
  rfl
@[simp] theorem Hart.writeSpot_mattAt (h : Hart) (tick : Nat) (r : VReg) (p : Spot) (n b : Nat) : (h.writeSpot tick r p n b).mattAt = h.mattAt :=
  rfl
@[simp] theorem Hart.writeSpot_shapeSeen (h : Hart) (tick : Nat) (r : VReg) (p : Spot) (n b : Nat) : (h.writeSpot tick r p n b).shapeSeen = h.shapeSeen :=
  rfl
@[simp] theorem Hart.writeSpot_tagDraw (h : Hart) (tick : Nat) (r : VReg) (p : Spot) (n b : Nat) : (h.writeSpot tick r p n b).tagDraw = h.tagDraw :=
  rfl
@[simp] theorem Hart.writeSpot_noAck (h : Hart) (tick : Nat) (r : VReg) (p : Spot) (n b : Nat) : (h.writeSpot tick r p n b).noAck = h.noAck :=
  rfl
@[simp] theorem Hart.writeSpot_fault (h : Hart) (tick : Nat) (r : VReg) (p : Spot) (n b : Nat) : (h.writeSpot tick r p n b).fault = h.fault :=
  rfl
@[simp] theorem Hart.writeSpot_record (h : Hart) (tick : Nat) (r : VReg) (p : Spot) (n b : Nat) : (h.writeSpot tick r p n b).record = h.record :=
  rfl

@[simp] theorem Hart.setMask_launch (h : Hart) (r : MReg) (e : Nat) (b : Bool) : (h.setMask r e b).launch = h.launch :=
  rfl
@[simp] theorem Hart.setMask_status (h : Hart) (r : MReg) (e : Nat) (b : Bool) : (h.setMask r e b).status = h.status :=
  rfl
@[simp] theorem Hart.setMask_core (h : Hart) (r : MReg) (e : Nat) (b : Bool) : (h.setMask r e b).core = h.core := rfl
@[simp] theorem Hart.setMask_base (h : Hart) (r : MReg) (e : Nat) (b : Bool) : (h.setMask r e b).base = h.base := rfl
@[simp] theorem Hart.setMask_size (h : Hart) (r : MReg) (e : Nat) (b : Bool) : (h.setMask r e b).size = h.size := rfl
@[simp] theorem Hart.setMask_pend (h : Hart) (r : MReg) (e : Nat) (b : Bool) : (h.setMask r e b).pend = h.pend := rfl
@[simp] theorem Hart.setMask_offer (h : Hart) (r : MReg) (e : Nat) (b : Bool) : (h.setMask r e b).offer = h.offer :=
  rfl
@[simp] theorem Hart.setMask_startSize (h : Hart) (r : MReg) (e : Nat) (b : Bool) : (h.setMask r e b).startSize = h.startSize :=
  rfl
@[simp] theorem Hart.setMask_pc (h : Hart) (r : MReg) (e : Nat) (b : Bool) : (h.setMask r e b).pc = h.pc := rfl
@[simp] theorem Hart.setMask_x (h : Hart) (r : MReg) (e : Nat) (b : Bool) : (h.setMask r e b).x = h.x := rfl
@[simp] theorem Hart.setMask_v (h : Hart) (r : MReg) (e : Nat) (b : Bool) : (h.setMask r e b).v = h.v := rfl
@[simp] theorem Hart.setMask_m (h : Hart) (r : MReg) (e : Nat) (b : Bool) : (h.setMask r e b).m = h.m.set r (h.m[r].setBit e b) :=
  rfl
@[simp] theorem Hart.setMask_op (h : Hart) (r : MReg) (e : Nat) (b : Bool) : (h.setMask r e b).op = h.op := rfl
@[simp] theorem Hart.setMask_width (h : Hart) (r : MReg) (e : Nat) (b : Bool) : (h.setMask r e b).width = h.width :=
  rfl
@[simp] theorem Hart.setMask_lanes (h : Hart) (r : MReg) (e : Nat) (b : Bool) : (h.setMask r e b).lanes = h.lanes :=
  rfl
@[simp] theorem Hart.setMask_scratch (h : Hart) (r : MReg) (e : Nat) (b : Bool) : (h.setMask r e b).scratch = h.scratch :=
  rfl
@[simp] theorem Hart.setMask_scratchSize (h : Hart) (r : MReg) (e : Nat) (b : Bool) : (h.setMask r e b).scratchSize = h.scratchSize :=
  rfl
@[simp] theorem Hart.setMask_sdata (h : Hart) (r : MReg) (e : Nat) (b : Bool) : (h.setMask r e b).sdata = h.sdata :=
  rfl
@[simp] theorem Hart.setMask_sdataSize (h : Hart) (r : MReg) (e : Nat) (b : Bool) : (h.setMask r e b).sdataSize = h.sdataSize :=
  rfl
@[simp] theorem Hart.setMask_wp (h : Hart) (r : MReg) (e : Nat) (b : Bool) : (h.setMask r e b).wp = h.wp := rfl
@[simp] theorem Hart.setMask_ma (h : Hart) (r : MReg) (e : Nat) (b : Bool) : (h.setMask r e b).ma = h.ma := rfl
@[simp] theorem Hart.setMask_lt (h : Hart) (r : MReg) (e : Nat) (b : Bool) : (h.setMask r e b).lt = h.lt := rfl
@[simp] theorem Hart.setMask_pfx (h : Hart) (r : MReg) (e : Nat) (b : Bool) : (h.setMask r e b).pfx = h.pfx := rfl
@[simp] theorem Hart.setMask_waits (h : Hart) (r : MReg) (e : Nat) (b : Bool) : (h.setMask r e b).waits = h.waits :=
  rfl
@[simp] theorem Hart.setMask_vtype (h : Hart) (r : MReg) (e : Nat) (b : Bool) : (h.setMask r e b).vtype = h.vtype :=
  rfl
@[simp] theorem Hart.setMask_vrows (h : Hart) (r : MReg) (e : Nat) (b : Bool) : (h.setMask r e b).vrows = h.vrows :=
  rfl
@[simp] theorem Hart.setMask_vcols (h : Hart) (r : MReg) (e : Nat) (b : Bool) : (h.setMask r e b).vcols = h.vcols :=
  rfl
@[simp] theorem Hart.setMask_vstart (h : Hart) (r : MReg) (e : Nat) (b : Bool) : (h.setMask r e b).vstart = h.vstart :=
  rfl
@[simp] theorem Hart.setMask_sb (h : Hart) (r : MReg) (e : Nat) (b : Bool) : (h.setMask r e b).sb = h.sb := rfl
@[simp] theorem Hart.setMask_rkey (h : Hart) (r : MReg) (e : Nat) (b : Bool) : (h.setMask r e b).rkey = h.rkey := rfl
@[simp] theorem Hart.setMask_passst (h : Hart) (r : MReg) (e : Nat) (b : Bool) : (h.setMask r e b).passst = h.passst :=
  rfl
@[simp] theorem Hart.setMask_pseq (h : Hart) (r : MReg) (e : Nat) (b : Bool) : (h.setMask r e b).pseq = h.pseq := rfl
@[simp] theorem Hart.setMask_fpcsr (h : Hart) (r : MReg) (e : Nat) (b : Bool) : (h.setMask r e b).fpcsr = h.fpcsr :=
  rfl
@[simp] theorem Hart.setMask_athr (h : Hart) (r : MReg) (e : Nat) (b : Bool) : (h.setMask r e b).athr = h.athr := rfl
@[simp] theorem Hart.setMask_mgrant (h : Hart) (r : MReg) (e : Nat) (b : Bool) : (h.setMask r e b).mgrant = h.mgrant :=
  rfl
@[simp] theorem Hart.setMask_mvl (h : Hart) (r : MReg) (e : Nat) (b : Bool) : (h.setMask r e b).mvl = h.mvl := rfl
@[simp] theorem Hart.setMask_xfri (h : Hart) (r : MReg) (e : Nat) (b : Bool) : (h.setMask r e b).xfri = h.xfri := rfl
@[simp] theorem Hart.setMask_livev (h : Hart) (r : MReg) (e : Nat) (b : Bool) : (h.setMask r e b).livev = h.livev :=
  rfl
@[simp] theorem Hart.setMask_tvec (h : Hart) (r : MReg) (e : Nat) (b : Bool) : (h.setMask r e b).tvec = h.tvec := rfl
@[simp] theorem Hart.setMask_tpc (h : Hart) (r : MReg) (e : Nat) (b : Bool) : (h.setMask r e b).tpc = h.tpc := rfl
@[simp] theorem Hart.setMask_tcause (h : Hart) (r : MReg) (e : Nat) (b : Bool) : (h.setMask r e b).tcause = h.tcause :=
  rfl
@[simp] theorem Hart.setMask_taddr (h : Hart) (r : MReg) (e : Nat) (b : Bool) : (h.setMask r e b).taddr = h.taddr :=
  rfl
@[simp] theorem Hart.setMask_telem (h : Hart) (r : MReg) (e : Nat) (b : Bool) : (h.setMask r e b).telem = h.telem :=
  rfl
@[simp] theorem Hart.setMask_spc (h : Hart) (r : MReg) (e : Nat) (b : Bool) : (h.setMask r e b).spc = h.spc := rfl
@[simp] theorem Hart.setMask_win (h : Hart) (r : MReg) (e : Nat) (b : Bool) : (h.setMask r e b).win = h.win := rfl
@[simp] theorem Hart.setMask_windowed (h : Hart) (r : MReg) (e : Nat) (b : Bool) : (h.setMask r e b).windowed = h.windowed :=
  rfl
@[simp] theorem Hart.setMask_hartid (h : Hart) (r : MReg) (e : Nat) (b : Bool) : (h.setMask r e b).hartid = h.hartid :=
  rfl
@[simp] theorem Hart.setMask_gangid (h : Hart) (r : MReg) (e : Nat) (b : Bool) : (h.setMask r e b).gangid = h.gangid :=
  rfl
@[simp] theorem Hart.setMask_gangn (h : Hart) (r : MReg) (e : Nat) (b : Bool) : (h.setMask r e b).gangn = h.gangn :=
  rfl
@[simp] theorem Hart.setMask_yreq (h : Hart) (r : MReg) (e : Nat) (b : Bool) : (h.setMask r e b).yreq = h.yreq := rfl
@[simp] theorem Hart.setMask_tags (h : Hart) (r : MReg) (e : Nat) (b : Bool) : (h.setMask r e b).tags = h.tags := rfl
@[simp] theorem Hart.setMask_nextSeq (h : Hart) (r : MReg) (e : Nat) (b : Bool) : (h.setMask r e b).nextSeq = h.nextSeq :=
  rfl
@[simp] theorem Hart.setMask_held (h : Hart) (r : MReg) (e : Nat) (b : Bool) : (h.setMask r e b).held = h.held := rfl
@[simp] theorem Hart.setMask_bins (h : Hart) (r : MReg) (e : Nat) (b : Bool) : (h.setMask r e b).bins = h.bins := rfl
@[simp] theorem Hart.setMask_split (h : Hart) (r : MReg) (e : Nat) (b : Bool) : (h.setMask r e b).split = h.split :=
  rfl
@[simp] theorem Hart.setMask_vfetchAt (h : Hart) (r : MReg) (e : Nat) (b : Bool) : (h.setMask r e b).vfetchAt = h.vfetchAt :=
  rfl
@[simp] theorem Hart.setMask_run (h : Hart) (r : MReg) (e : Nat) (b : Bool) : (h.setMask r e b).run = h.run := rfl
@[simp] theorem Hart.setMask_replay (h : Hart) (r : MReg) (e : Nat) (b : Bool) : (h.setMask r e b).replay = h.replay :=
  rfl
@[simp] theorem Hart.setMask_spans (h : Hart) (r : MReg) (e : Nat) (b : Bool) : (h.setMask r e b).spans = h.spans :=
  rfl
@[simp] theorem Hart.setMask_span (h : Hart) (r : MReg) (e : Nat) (b : Bool) : (h.setMask r e b).span = h.span := rfl
@[simp] theorem Hart.setMask_loose (h : Hart) (r : MReg) (e : Nat) (b : Bool) : (h.setMask r e b).loose = h.loose :=
  rfl
@[simp] theorem Hart.setMask_barriers (h : Hart) (r : MReg) (e : Nat) (b : Bool) : (h.setMask r e b).barriers = h.barriers :=
  rfl
@[simp] theorem Hart.setMask_arrived (h : Hart) (r : MReg) (e : Nat) (b : Bool) : (h.setMask r e b).arrived = h.arrived :=
  rfl
@[simp] theorem Hart.setMask_yieldAt (h : Hart) (r : MReg) (e : Nat) (b : Bool) : (h.setMask r e b).yieldAt = h.yieldAt :=
  rfl
@[simp] theorem Hart.setMask_pendAt (h : Hart) (r : MReg) (e : Nat) (b : Bool) : (h.setMask r e b).pendAt = h.pendAt :=
  rfl
@[simp] theorem Hart.setMask_stopAt (h : Hart) (r : MReg) (e : Nat) (b : Bool) : (h.setMask r e b).stopAt = h.stopAt :=
  rfl
@[simp] theorem Hart.setMask_ahead (h : Hart) (r : MReg) (e : Nat) (b : Bool) : (h.setMask r e b).ahead = h.ahead :=
  rfl
@[simp] theorem Hart.setMask_drain (h : Hart) (r : MReg) (e : Nat) (b : Bool) : (h.setMask r e b).drain = h.drain :=
  rfl
@[simp] theorem Hart.setMask_sentAt (h : Hart) (r : MReg) (e : Nat) (b : Bool) : (h.setMask r e b).sentAt = h.sentAt :=
  rfl
@[simp] theorem Hart.setMask_sentPage (h : Hart) (r : MReg) (e : Nat) (b : Bool) : (h.setMask r e b).sentPage = h.sentPage :=
  rfl
@[simp] theorem Hart.setMask_timedOut (h : Hart) (r : MReg) (e : Nat) (b : Bool) : (h.setMask r e b).timedOut = h.timedOut :=
  rfl
@[simp] theorem Hart.setMask_mattAt (h : Hart) (r : MReg) (e : Nat) (b : Bool) : (h.setMask r e b).mattAt = h.mattAt :=
  rfl
@[simp] theorem Hart.setMask_shapeSeen (h : Hart) (r : MReg) (e : Nat) (b : Bool) : (h.setMask r e b).shapeSeen = h.shapeSeen :=
  rfl
@[simp] theorem Hart.setMask_tagDraw (h : Hart) (r : MReg) (e : Nat) (b : Bool) : (h.setMask r e b).tagDraw = h.tagDraw :=
  rfl
@[simp] theorem Hart.setMask_noAck (h : Hart) (r : MReg) (e : Nat) (b : Bool) : (h.setMask r e b).noAck = h.noAck :=
  rfl
@[simp] theorem Hart.setMask_fault (h : Hart) (r : MReg) (e : Nat) (b : Bool) : (h.setMask r e b).fault = h.fault :=
  rfl
@[simp] theorem Hart.setMask_record (h : Hart) (r : MReg) (e : Nat) (b : Bool) : (h.setMask r e b).record = h.record :=
  rfl

@[simp] theorem Hart.orFlags_launch (h : Hart) (f : Flags) : (h.orFlags f).launch = h.launch := rfl
@[simp] theorem Hart.orFlags_status (h : Hart) (f : Flags) : (h.orFlags f).status = h.status := rfl
@[simp] theorem Hart.orFlags_core (h : Hart) (f : Flags) : (h.orFlags f).core = h.core := rfl
@[simp] theorem Hart.orFlags_base (h : Hart) (f : Flags) : (h.orFlags f).base = h.base := rfl
@[simp] theorem Hart.orFlags_size (h : Hart) (f : Flags) : (h.orFlags f).size = h.size := rfl
@[simp] theorem Hart.orFlags_pend (h : Hart) (f : Flags) : (h.orFlags f).pend = h.pend := rfl
@[simp] theorem Hart.orFlags_offer (h : Hart) (f : Flags) : (h.orFlags f).offer = h.offer := rfl
@[simp] theorem Hart.orFlags_startSize (h : Hart) (f : Flags) : (h.orFlags f).startSize = h.startSize := rfl
@[simp] theorem Hart.orFlags_pc (h : Hart) (f : Flags) : (h.orFlags f).pc = h.pc := rfl
@[simp] theorem Hart.orFlags_x (h : Hart) (f : Flags) : (h.orFlags f).x = h.x := rfl
@[simp] theorem Hart.orFlags_v (h : Hart) (f : Flags) : (h.orFlags f).v = h.v := rfl
@[simp] theorem Hart.orFlags_m (h : Hart) (f : Flags) : (h.orFlags f).m = h.m := rfl
@[simp] theorem Hart.orFlags_op (h : Hart) (f : Flags) : (h.orFlags f).op = h.op := rfl
@[simp] theorem Hart.orFlags_width (h : Hart) (f : Flags) : (h.orFlags f).width = h.width := rfl
@[simp] theorem Hart.orFlags_lanes (h : Hart) (f : Flags) : (h.orFlags f).lanes = h.lanes := rfl
@[simp] theorem Hart.orFlags_scratch (h : Hart) (f : Flags) : (h.orFlags f).scratch = h.scratch := rfl
@[simp] theorem Hart.orFlags_scratchSize (h : Hart) (f : Flags) : (h.orFlags f).scratchSize = h.scratchSize := rfl
@[simp] theorem Hart.orFlags_sdata (h : Hart) (f : Flags) : (h.orFlags f).sdata = h.sdata := rfl
@[simp] theorem Hart.orFlags_sdataSize (h : Hart) (f : Flags) : (h.orFlags f).sdataSize = h.sdataSize := rfl
@[simp] theorem Hart.orFlags_wp (h : Hart) (f : Flags) : (h.orFlags f).wp = h.wp := rfl
@[simp] theorem Hart.orFlags_ma (h : Hart) (f : Flags) : (h.orFlags f).ma = h.ma := rfl
@[simp] theorem Hart.orFlags_lt (h : Hart) (f : Flags) : (h.orFlags f).lt = h.lt := rfl
@[simp] theorem Hart.orFlags_pfx (h : Hart) (f : Flags) : (h.orFlags f).pfx = h.pfx := rfl
@[simp] theorem Hart.orFlags_waits (h : Hart) (f : Flags) : (h.orFlags f).waits = h.waits := rfl
@[simp] theorem Hart.orFlags_vtype (h : Hart) (f : Flags) : (h.orFlags f).vtype = h.vtype := rfl
@[simp] theorem Hart.orFlags_vrows (h : Hart) (f : Flags) : (h.orFlags f).vrows = h.vrows := rfl
@[simp] theorem Hart.orFlags_vcols (h : Hart) (f : Flags) : (h.orFlags f).vcols = h.vcols := rfl
@[simp] theorem Hart.orFlags_vstart (h : Hart) (f : Flags) : (h.orFlags f).vstart = h.vstart := rfl
@[simp] theorem Hart.orFlags_sb (h : Hart) (f : Flags) : (h.orFlags f).sb = h.sb := rfl
@[simp] theorem Hart.orFlags_rkey (h : Hart) (f : Flags) : (h.orFlags f).rkey = h.rkey := rfl
@[simp] theorem Hart.orFlags_passst (h : Hart) (f : Flags) : (h.orFlags f).passst = h.passst := rfl
@[simp] theorem Hart.orFlags_pseq (h : Hart) (f : Flags) : (h.orFlags f).pseq = h.pseq := rfl
@[simp] theorem Hart.orFlags_fpcsr (h : Hart) (f : Flags) : (h.orFlags f).fpcsr = h.fpcsr ||| f.setWidth 64 := rfl
@[simp] theorem Hart.orFlags_athr (h : Hart) (f : Flags) : (h.orFlags f).athr = h.athr := rfl
@[simp] theorem Hart.orFlags_mgrant (h : Hart) (f : Flags) : (h.orFlags f).mgrant = h.mgrant := rfl
@[simp] theorem Hart.orFlags_mvl (h : Hart) (f : Flags) : (h.orFlags f).mvl = h.mvl := rfl
@[simp] theorem Hart.orFlags_xfri (h : Hart) (f : Flags) : (h.orFlags f).xfri = h.xfri := rfl
@[simp] theorem Hart.orFlags_livev (h : Hart) (f : Flags) : (h.orFlags f).livev = h.livev := rfl
@[simp] theorem Hart.orFlags_tvec (h : Hart) (f : Flags) : (h.orFlags f).tvec = h.tvec := rfl
@[simp] theorem Hart.orFlags_tpc (h : Hart) (f : Flags) : (h.orFlags f).tpc = h.tpc := rfl
@[simp] theorem Hart.orFlags_tcause (h : Hart) (f : Flags) : (h.orFlags f).tcause = h.tcause := rfl
@[simp] theorem Hart.orFlags_taddr (h : Hart) (f : Flags) : (h.orFlags f).taddr = h.taddr := rfl
@[simp] theorem Hart.orFlags_telem (h : Hart) (f : Flags) : (h.orFlags f).telem = h.telem := rfl
@[simp] theorem Hart.orFlags_spc (h : Hart) (f : Flags) : (h.orFlags f).spc = h.spc := rfl
@[simp] theorem Hart.orFlags_win (h : Hart) (f : Flags) : (h.orFlags f).win = h.win := rfl
@[simp] theorem Hart.orFlags_windowed (h : Hart) (f : Flags) : (h.orFlags f).windowed = h.windowed := rfl
@[simp] theorem Hart.orFlags_hartid (h : Hart) (f : Flags) : (h.orFlags f).hartid = h.hartid := rfl
@[simp] theorem Hart.orFlags_gangid (h : Hart) (f : Flags) : (h.orFlags f).gangid = h.gangid := rfl
@[simp] theorem Hart.orFlags_gangn (h : Hart) (f : Flags) : (h.orFlags f).gangn = h.gangn := rfl
@[simp] theorem Hart.orFlags_yreq (h : Hart) (f : Flags) : (h.orFlags f).yreq = h.yreq := rfl
@[simp] theorem Hart.orFlags_tags (h : Hart) (f : Flags) : (h.orFlags f).tags = h.tags := rfl
@[simp] theorem Hart.orFlags_nextSeq (h : Hart) (f : Flags) : (h.orFlags f).nextSeq = h.nextSeq := rfl
@[simp] theorem Hart.orFlags_held (h : Hart) (f : Flags) : (h.orFlags f).held = h.held := rfl
@[simp] theorem Hart.orFlags_bins (h : Hart) (f : Flags) : (h.orFlags f).bins = h.bins := rfl
@[simp] theorem Hart.orFlags_split (h : Hart) (f : Flags) : (h.orFlags f).split = h.split := rfl
@[simp] theorem Hart.orFlags_vfetchAt (h : Hart) (f : Flags) : (h.orFlags f).vfetchAt = h.vfetchAt := rfl
@[simp] theorem Hart.orFlags_run (h : Hart) (f : Flags) : (h.orFlags f).run = h.run := rfl
@[simp] theorem Hart.orFlags_replay (h : Hart) (f : Flags) : (h.orFlags f).replay = h.replay := rfl
@[simp] theorem Hart.orFlags_spans (h : Hart) (f : Flags) : (h.orFlags f).spans = h.spans := rfl
@[simp] theorem Hart.orFlags_span (h : Hart) (f : Flags) : (h.orFlags f).span = h.span := rfl
@[simp] theorem Hart.orFlags_loose (h : Hart) (f : Flags) : (h.orFlags f).loose = h.loose := rfl
@[simp] theorem Hart.orFlags_barriers (h : Hart) (f : Flags) : (h.orFlags f).barriers = h.barriers := rfl
@[simp] theorem Hart.orFlags_arrived (h : Hart) (f : Flags) : (h.orFlags f).arrived = h.arrived := rfl
@[simp] theorem Hart.orFlags_yieldAt (h : Hart) (f : Flags) : (h.orFlags f).yieldAt = h.yieldAt := rfl
@[simp] theorem Hart.orFlags_pendAt (h : Hart) (f : Flags) : (h.orFlags f).pendAt = h.pendAt := rfl
@[simp] theorem Hart.orFlags_stopAt (h : Hart) (f : Flags) : (h.orFlags f).stopAt = h.stopAt := rfl
@[simp] theorem Hart.orFlags_ahead (h : Hart) (f : Flags) : (h.orFlags f).ahead = h.ahead := rfl
@[simp] theorem Hart.orFlags_drain (h : Hart) (f : Flags) : (h.orFlags f).drain = h.drain := rfl
@[simp] theorem Hart.orFlags_sentAt (h : Hart) (f : Flags) : (h.orFlags f).sentAt = h.sentAt := rfl
@[simp] theorem Hart.orFlags_sentPage (h : Hart) (f : Flags) : (h.orFlags f).sentPage = h.sentPage := rfl
@[simp] theorem Hart.orFlags_timedOut (h : Hart) (f : Flags) : (h.orFlags f).timedOut = h.timedOut := rfl
@[simp] theorem Hart.orFlags_mattAt (h : Hart) (f : Flags) : (h.orFlags f).mattAt = h.mattAt := rfl
@[simp] theorem Hart.orFlags_shapeSeen (h : Hart) (f : Flags) : (h.orFlags f).shapeSeen = h.shapeSeen := rfl
@[simp] theorem Hart.orFlags_tagDraw (h : Hart) (f : Flags) : (h.orFlags f).tagDraw = h.tagDraw := rfl
@[simp] theorem Hart.orFlags_noAck (h : Hart) (f : Flags) : (h.orFlags f).noAck = h.noAck := rfl
@[simp] theorem Hart.orFlags_fault (h : Hart) (f : Flags) : (h.orFlags f).fault = h.fault := rfl
@[simp] theorem Hart.orFlags_record (h : Hart) (f : Flags) : (h.orFlags f).record = h.record := rfl

@[simp] theorem Hart.setX_launch (h : Hart) (r : XReg) (w : Word) : (h.setX r w).launch = h.launch :=
  by unfold Hart.setX; split <;> rfl
@[simp] theorem Hart.setX_status (h : Hart) (r : XReg) (w : Word) : (h.setX r w).status = h.status :=
  by unfold Hart.setX; split <;> rfl
@[simp] theorem Hart.setX_core (h : Hart) (r : XReg) (w : Word) : (h.setX r w).core = h.core :=
  by unfold Hart.setX; split <;> rfl
@[simp] theorem Hart.setX_base (h : Hart) (r : XReg) (w : Word) : (h.setX r w).base = h.base :=
  by unfold Hart.setX; split <;> rfl
@[simp] theorem Hart.setX_size (h : Hart) (r : XReg) (w : Word) : (h.setX r w).size = h.size :=
  by unfold Hart.setX; split <;> rfl
@[simp] theorem Hart.setX_pend (h : Hart) (r : XReg) (w : Word) : (h.setX r w).pend = h.pend :=
  by unfold Hart.setX; split <;> rfl
@[simp] theorem Hart.setX_offer (h : Hart) (r : XReg) (w : Word) : (h.setX r w).offer = h.offer :=
  by unfold Hart.setX; split <;> rfl
@[simp] theorem Hart.setX_startSize (h : Hart) (r : XReg) (w : Word) : (h.setX r w).startSize = h.startSize :=
  by unfold Hart.setX; split <;> rfl
@[simp] theorem Hart.setX_pc (h : Hart) (r : XReg) (w : Word) : (h.setX r w).pc = h.pc :=
  by unfold Hart.setX; split <;> rfl
@[simp] theorem Hart.setX_v (h : Hart) (r : XReg) (w : Word) : (h.setX r w).v = h.v :=
  by unfold Hart.setX; split <;> rfl
@[simp] theorem Hart.setX_m (h : Hart) (r : XReg) (w : Word) : (h.setX r w).m = h.m :=
  by unfold Hart.setX; split <;> rfl
@[simp] theorem Hart.setX_op (h : Hart) (r : XReg) (w : Word) : (h.setX r w).op = h.op :=
  by unfold Hart.setX; split <;> rfl
@[simp] theorem Hart.setX_width (h : Hart) (r : XReg) (w : Word) : (h.setX r w).width = h.width :=
  by unfold Hart.setX; split <;> rfl
@[simp] theorem Hart.setX_lanes (h : Hart) (r : XReg) (w : Word) : (h.setX r w).lanes = h.lanes :=
  by unfold Hart.setX; split <;> rfl
@[simp] theorem Hart.setX_scratch (h : Hart) (r : XReg) (w : Word) : (h.setX r w).scratch = h.scratch :=
  by unfold Hart.setX; split <;> rfl
@[simp] theorem Hart.setX_scratchSize (h : Hart) (r : XReg) (w : Word) : (h.setX r w).scratchSize = h.scratchSize :=
  by unfold Hart.setX; split <;> rfl
@[simp] theorem Hart.setX_sdata (h : Hart) (r : XReg) (w : Word) : (h.setX r w).sdata = h.sdata :=
  by unfold Hart.setX; split <;> rfl
@[simp] theorem Hart.setX_sdataSize (h : Hart) (r : XReg) (w : Word) : (h.setX r w).sdataSize = h.sdataSize :=
  by unfold Hart.setX; split <;> rfl
@[simp] theorem Hart.setX_wp (h : Hart) (r : XReg) (w : Word) : (h.setX r w).wp = h.wp :=
  by unfold Hart.setX; split <;> rfl
@[simp] theorem Hart.setX_ma (h : Hart) (r : XReg) (w : Word) : (h.setX r w).ma = h.ma :=
  by unfold Hart.setX; split <;> rfl
@[simp] theorem Hart.setX_lt (h : Hart) (r : XReg) (w : Word) : (h.setX r w).lt = h.lt :=
  by unfold Hart.setX; split <;> rfl
@[simp] theorem Hart.setX_pfx (h : Hart) (r : XReg) (w : Word) : (h.setX r w).pfx = h.pfx :=
  by unfold Hart.setX; split <;> rfl
@[simp] theorem Hart.setX_waits (h : Hart) (r : XReg) (w : Word) : (h.setX r w).waits = h.waits :=
  by unfold Hart.setX; split <;> rfl
@[simp] theorem Hart.setX_vtype (h : Hart) (r : XReg) (w : Word) : (h.setX r w).vtype = h.vtype :=
  by unfold Hart.setX; split <;> rfl
@[simp] theorem Hart.setX_vrows (h : Hart) (r : XReg) (w : Word) : (h.setX r w).vrows = h.vrows :=
  by unfold Hart.setX; split <;> rfl
@[simp] theorem Hart.setX_vcols (h : Hart) (r : XReg) (w : Word) : (h.setX r w).vcols = h.vcols :=
  by unfold Hart.setX; split <;> rfl
@[simp] theorem Hart.setX_vstart (h : Hart) (r : XReg) (w : Word) : (h.setX r w).vstart = h.vstart :=
  by unfold Hart.setX; split <;> rfl
@[simp] theorem Hart.setX_sb (h : Hart) (r : XReg) (w : Word) : (h.setX r w).sb = h.sb :=
  by unfold Hart.setX; split <;> rfl
@[simp] theorem Hart.setX_rkey (h : Hart) (r : XReg) (w : Word) : (h.setX r w).rkey = h.rkey :=
  by unfold Hart.setX; split <;> rfl
@[simp] theorem Hart.setX_passst (h : Hart) (r : XReg) (w : Word) : (h.setX r w).passst = h.passst :=
  by unfold Hart.setX; split <;> rfl
@[simp] theorem Hart.setX_pseq (h : Hart) (r : XReg) (w : Word) : (h.setX r w).pseq = h.pseq :=
  by unfold Hart.setX; split <;> rfl
@[simp] theorem Hart.setX_fpcsr (h : Hart) (r : XReg) (w : Word) : (h.setX r w).fpcsr = h.fpcsr :=
  by unfold Hart.setX; split <;> rfl
@[simp] theorem Hart.setX_athr (h : Hart) (r : XReg) (w : Word) : (h.setX r w).athr = h.athr :=
  by unfold Hart.setX; split <;> rfl
@[simp] theorem Hart.setX_mgrant (h : Hart) (r : XReg) (w : Word) : (h.setX r w).mgrant = h.mgrant :=
  by unfold Hart.setX; split <;> rfl
@[simp] theorem Hart.setX_mvl (h : Hart) (r : XReg) (w : Word) : (h.setX r w).mvl = h.mvl :=
  by unfold Hart.setX; split <;> rfl
@[simp] theorem Hart.setX_xfri (h : Hart) (r : XReg) (w : Word) : (h.setX r w).xfri = h.xfri :=
  by unfold Hart.setX; split <;> rfl
@[simp] theorem Hart.setX_livev (h : Hart) (r : XReg) (w : Word) : (h.setX r w).livev = h.livev :=
  by unfold Hart.setX; split <;> rfl
@[simp] theorem Hart.setX_tvec (h : Hart) (r : XReg) (w : Word) : (h.setX r w).tvec = h.tvec :=
  by unfold Hart.setX; split <;> rfl
@[simp] theorem Hart.setX_tpc (h : Hart) (r : XReg) (w : Word) : (h.setX r w).tpc = h.tpc :=
  by unfold Hart.setX; split <;> rfl
@[simp] theorem Hart.setX_tcause (h : Hart) (r : XReg) (w : Word) : (h.setX r w).tcause = h.tcause :=
  by unfold Hart.setX; split <;> rfl
@[simp] theorem Hart.setX_taddr (h : Hart) (r : XReg) (w : Word) : (h.setX r w).taddr = h.taddr :=
  by unfold Hart.setX; split <;> rfl
@[simp] theorem Hart.setX_telem (h : Hart) (r : XReg) (w : Word) : (h.setX r w).telem = h.telem :=
  by unfold Hart.setX; split <;> rfl
@[simp] theorem Hart.setX_spc (h : Hart) (r : XReg) (w : Word) : (h.setX r w).spc = h.spc :=
  by unfold Hart.setX; split <;> rfl
@[simp] theorem Hart.setX_win (h : Hart) (r : XReg) (w : Word) : (h.setX r w).win = h.win :=
  by unfold Hart.setX; split <;> rfl
@[simp] theorem Hart.setX_windowed (h : Hart) (r : XReg) (w : Word) : (h.setX r w).windowed = h.windowed :=
  by unfold Hart.setX; split <;> rfl
@[simp] theorem Hart.setX_hartid (h : Hart) (r : XReg) (w : Word) : (h.setX r w).hartid = h.hartid :=
  by unfold Hart.setX; split <;> rfl
@[simp] theorem Hart.setX_gangid (h : Hart) (r : XReg) (w : Word) : (h.setX r w).gangid = h.gangid :=
  by unfold Hart.setX; split <;> rfl
@[simp] theorem Hart.setX_gangn (h : Hart) (r : XReg) (w : Word) : (h.setX r w).gangn = h.gangn :=
  by unfold Hart.setX; split <;> rfl
@[simp] theorem Hart.setX_yreq (h : Hart) (r : XReg) (w : Word) : (h.setX r w).yreq = h.yreq :=
  by unfold Hart.setX; split <;> rfl
@[simp] theorem Hart.setX_tags (h : Hart) (r : XReg) (w : Word) : (h.setX r w).tags = h.tags :=
  by unfold Hart.setX; split <;> rfl
@[simp] theorem Hart.setX_nextSeq (h : Hart) (r : XReg) (w : Word) : (h.setX r w).nextSeq = h.nextSeq :=
  by unfold Hart.setX; split <;> rfl
@[simp] theorem Hart.setX_held (h : Hart) (r : XReg) (w : Word) : (h.setX r w).held = h.held :=
  by unfold Hart.setX; split <;> rfl
@[simp] theorem Hart.setX_bins (h : Hart) (r : XReg) (w : Word) : (h.setX r w).bins = h.bins :=
  by unfold Hart.setX; split <;> rfl
@[simp] theorem Hart.setX_split (h : Hart) (r : XReg) (w : Word) : (h.setX r w).split = h.split :=
  by unfold Hart.setX; split <;> rfl
@[simp] theorem Hart.setX_vfetchAt (h : Hart) (r : XReg) (w : Word) : (h.setX r w).vfetchAt = h.vfetchAt :=
  by unfold Hart.setX; split <;> rfl
@[simp] theorem Hart.setX_run (h : Hart) (r : XReg) (w : Word) : (h.setX r w).run = h.run :=
  by unfold Hart.setX; split <;> rfl
@[simp] theorem Hart.setX_replay (h : Hart) (r : XReg) (w : Word) : (h.setX r w).replay = h.replay :=
  by unfold Hart.setX; split <;> rfl
@[simp] theorem Hart.setX_spans (h : Hart) (r : XReg) (w : Word) : (h.setX r w).spans = h.spans :=
  by unfold Hart.setX; split <;> rfl
@[simp] theorem Hart.setX_span (h : Hart) (r : XReg) (w : Word) : (h.setX r w).span = h.span :=
  by unfold Hart.setX; split <;> rfl
@[simp] theorem Hart.setX_loose (h : Hart) (r : XReg) (w : Word) : (h.setX r w).loose = h.loose :=
  by unfold Hart.setX; split <;> rfl
@[simp] theorem Hart.setX_barriers (h : Hart) (r : XReg) (w : Word) : (h.setX r w).barriers = h.barriers :=
  by unfold Hart.setX; split <;> rfl
@[simp] theorem Hart.setX_arrived (h : Hart) (r : XReg) (w : Word) : (h.setX r w).arrived = h.arrived :=
  by unfold Hart.setX; split <;> rfl
@[simp] theorem Hart.setX_yieldAt (h : Hart) (r : XReg) (w : Word) : (h.setX r w).yieldAt = h.yieldAt :=
  by unfold Hart.setX; split <;> rfl
@[simp] theorem Hart.setX_pendAt (h : Hart) (r : XReg) (w : Word) : (h.setX r w).pendAt = h.pendAt :=
  by unfold Hart.setX; split <;> rfl
@[simp] theorem Hart.setX_stopAt (h : Hart) (r : XReg) (w : Word) : (h.setX r w).stopAt = h.stopAt :=
  by unfold Hart.setX; split <;> rfl
@[simp] theorem Hart.setX_ahead (h : Hart) (r : XReg) (w : Word) : (h.setX r w).ahead = h.ahead :=
  by unfold Hart.setX; split <;> rfl
@[simp] theorem Hart.setX_drain (h : Hart) (r : XReg) (w : Word) : (h.setX r w).drain = h.drain :=
  by unfold Hart.setX; split <;> rfl
@[simp] theorem Hart.setX_sentAt (h : Hart) (r : XReg) (w : Word) : (h.setX r w).sentAt = h.sentAt :=
  by unfold Hart.setX; split <;> rfl
@[simp] theorem Hart.setX_sentPage (h : Hart) (r : XReg) (w : Word) : (h.setX r w).sentPage = h.sentPage :=
  by unfold Hart.setX; split <;> rfl
@[simp] theorem Hart.setX_timedOut (h : Hart) (r : XReg) (w : Word) : (h.setX r w).timedOut = h.timedOut :=
  by unfold Hart.setX; split <;> rfl
@[simp] theorem Hart.setX_mattAt (h : Hart) (r : XReg) (w : Word) : (h.setX r w).mattAt = h.mattAt :=
  by unfold Hart.setX; split <;> rfl
@[simp] theorem Hart.setX_shapeSeen (h : Hart) (r : XReg) (w : Word) : (h.setX r w).shapeSeen = h.shapeSeen :=
  by unfold Hart.setX; split <;> rfl
@[simp] theorem Hart.setX_tagDraw (h : Hart) (r : XReg) (w : Word) : (h.setX r w).tagDraw = h.tagDraw :=
  by unfold Hart.setX; split <;> rfl
@[simp] theorem Hart.setX_noAck (h : Hart) (r : XReg) (w : Word) : (h.setX r w).noAck = h.noAck :=
  by unfold Hart.setX; split <;> rfl
@[simp] theorem Hart.setX_fault (h : Hart) (r : XReg) (w : Word) : (h.setX r w).fault = h.fault :=
  by unfold Hart.setX; split <;> rfl
@[simp] theorem Hart.setX_record (h : Hart) (r : XReg) (w : Word) : (h.setX r w).record = h.record :=
  by unfold Hart.setX; split <;> rfl

@[simp] theorem Hart.setX_zero (h : Hart) (w : Word) : h.setX 0 w = h := rfl

end Sys2Proof.Machine
end

