-- ==== Sys2Proof/Laws/Storage.lean ====
section
/-!
SUPPORT. Laws of tables and byte memory: reading after writing, and that every operation keeps the canonical
form.
-/
namespace Sys2Proof.Machine

/-! ### Rising keys -/

/-- Rising keys that all lie above `lo`, as propositions. -/
theorem keysRise_some {α : Type} (lo k : Nat) (a : α) (l : List (Nat × α)) :
    keysRise (some lo) ((k, a) :: l) = true ↔ lo < k ∧ keysRise (some k) l = true := by
  simp [keysRise]

theorem keysRise_none {α : Type} (k : Nat) (a : α) (l : List (Nat × α)) :
    keysRise none ((k, a) :: l) = true ↔ keysRise (some k) l = true := by
  simp [keysRise]

theorem keysRise_weaken {α : Type} {lo lo' : Nat} (hlo : lo ≤ lo') :
    ∀ l : List (Nat × α), keysRise (some lo') l = true → keysRise (some lo) l = true
  | [], _ => rfl
  | (k, a) :: l, h => by
    rw [keysRise_some] at h ⊢
    exact ⟨by omega, h.2⟩

theorem keysRise_forget {α : Type} {lo : Nat} :
    ∀ l : List (Nat × α), keysRise (some lo) l = true → keysRise none l = true
  | [], _ => rfl
  | (k, a) :: l, h => by
    rw [keysRise_some] at h
    rw [keysRise_none]
    exact h.2

/-- A key below every key of the list has no entry. -/
theorem cellAt_below {α : Type} {k lo : Nat} (h : k ≤ lo) :
    ∀ l : List (Nat × α), keysRise (some lo) l = true → cellAt k l = none
  | [], _ => rfl
  | (j, a) :: l, hl => by
    rw [keysRise_some] at hl
    have hj : k < j := by omega
    have hne : (j == k) = false := by simp; omega
    simp [cellAt, hne, hj]

/-! ### Putting and dropping entries -/

theorem keysRise_cellPut {α : Type} (k : Nat) (a : α) :
    ∀ (l : List (Nat × α)) (lo : Nat), lo < k → keysRise (some lo) l = true →
      keysRise (some lo) (cellPut k a l) = true
  | [], lo, hlo, _ => by simp [cellPut, keysRise, hlo]
  | (j, b) :: l, lo, hlo, h => by
    rw [keysRise_some] at h
    unfold cellPut
    split
    · rw [keysRise_some, keysRise_some]
      exact ⟨hlo, by assumption, h.2⟩
    · split
      · rename_i hkj
        have hkj' : k = j := by simpa using hkj
        subst hkj'
        rw [keysRise_some]
        exact h
      · rename_i hkj hne
        have hne' : k ≠ j := by simpa using hne
        rw [keysRise_some]
        exact ⟨h.1, keysRise_cellPut k a l j (by omega) h.2⟩

theorem keysRise_cellPut_none {α : Type} (k : Nat) (a : α) :
    ∀ l : List (Nat × α), keysRise none l = true → keysRise none (cellPut k a l) = true
  | [], _ => by simp [cellPut, keysRise]
  | (j, b) :: l, h => by
    rw [keysRise_none] at h
    unfold cellPut
    split
    · rw [keysRise_none, keysRise_some]
      exact ⟨by assumption, h⟩
    · split
      · rename_i hkj
        have hkj' : k = j := by simpa using hkj
        subst hkj'
        rw [keysRise_none]
        exact h
      · rename_i hkj hne
        have hne' : k ≠ j := by simpa using hne
        rw [keysRise_none]
        exact keysRise_cellPut k a l j (by omega) h

theorem keysRise_cellDrop {α : Type} (k : Nat) :
    ∀ (l : List (Nat × α)) (lo : Nat), keysRise (some lo) l = true → keysRise (some lo) (cellDrop k l) = true
  | [], _, _ => rfl
  | (j, b) :: l, lo, h => by
    have h' := h
    rw [keysRise_some] at h'
    unfold cellDrop
    split
    · exact h
    · split
      · exact keysRise_weaken (by omega) l h'.2
      · rw [keysRise_some]
        exact ⟨h'.1, keysRise_cellDrop k l j h'.2⟩

theorem keysRise_cellDrop_none {α : Type} (k : Nat) :
    ∀ l : List (Nat × α), keysRise none l = true → keysRise none (cellDrop k l) = true
  | [], _ => rfl
  | (j, b) :: l, h => by
    have h' := h
    rw [keysRise_none] at h'
    unfold cellDrop
    split
    · exact h
    · split
      · exact keysRise_forget l h'
      · rw [keysRise_none]
        exact keysRise_cellDrop k l j h'

theorem cellPut_mem {α : Type} {k : Nat} {a : α} {c : Nat × α} :
    ∀ l : List (Nat × α), c ∈ cellPut k a l → c = (k, a) ∨ c ∈ l
  | [], h => by simpa [cellPut] using h
  | (j, b) :: l, h => by
    unfold cellPut at h
    split at h
    · simpa using h
    · split at h
      · rcases List.mem_cons.1 h with h | h
        · exact .inl h
        · exact .inr (List.mem_cons_of_mem _ h)
      · rcases List.mem_cons.1 h with h | h
        · exact .inr (h ▸ List.mem_cons_self)
        · rcases cellPut_mem l h with h | h
          · exact .inl h
          · exact .inr (List.mem_cons_of_mem _ h)

theorem cellDrop_mem {α : Type} {k : Nat} {c : Nat × α} :
    ∀ l : List (Nat × α), c ∈ cellDrop k l → c ∈ l
  | [], h => by simp [cellDrop] at h
  | (j, b) :: l, h => by
    unfold cellDrop at h
    split at h
    · exact h
    · split at h
      · exact List.mem_cons_of_mem _ h
      · rcases List.mem_cons.1 h with h | h
        · exact h ▸ List.mem_cons_self
        · exact List.mem_cons_of_mem _ (cellDrop_mem l h)

/-- The entry put is the entry found. -/
theorem cellAt_cellPut_self {α : Type} (k : Nat) (a : α) :
    ∀ l : List (Nat × α), cellAt k (cellPut k a l) = some a
  | [] => by simp [cellPut, cellAt]
  | (j, b) :: l => by
    unfold cellPut
    split
    · simp [cellAt]
    · split
      · simp [cellAt]
      · rename_i hlt hne
        have h1 : (j == k) = false := by
          have : k ≠ j := by simpa using hne
          simp [Ne.symm this]
        simp [cellAt, h1, hlt, cellAt_cellPut_self k a l]

/-- Another key keeps its entry. -/
theorem cellAt_cellPut_ne {α : Type} {k k' : Nat} (a : α) (hk : k' ≠ k) :
    ∀ l : List (Nat × α), cellAt k' (cellPut k a l) = cellAt k' l
  | [] => by
    have : (k == k') = false := by simp [Ne.symm hk]
    simp [cellPut, cellAt, this]
  | (j, b) :: l => by
    have h0 : (k == k') = false := by simp [Ne.symm hk]
    unfold cellPut
    split
    · rename_i hlt
      by_cases h : k' < k
      · have h1 : (j == k') = false := by simp; omega
        have h2 : k' < j := by omega
        simp [cellAt, h0, h, h1, h2]
      · simp [cellAt, h0, h]
    · split
      · rename_i _ he
        have he' : k = j := by simpa using he
        subst he'
        simp [cellAt, h0]
      · simp only [cellAt]
        rw [cellAt_cellPut_ne a hk l]

/-- A dropped key has no entry, where keys rise. -/
theorem cellAt_cellDrop_self {α : Type} (k : Nat) :
    ∀ l : List (Nat × α), keysRise none l = true → cellAt k (cellDrop k l) = none
  | [], _ => rfl
  | (j, b) :: l, h => by
    rw [keysRise_none] at h
    unfold cellDrop
    split
    · rename_i hlt
      have h1 : (j == k) = false := by simp; omega
      simp [cellAt, h1, hlt]
    · split
      · rename_i _ he
        have he' : k = j := by simpa using he
        exact cellAt_below (by omega) l h
      · rename_i hlt hne
        have h1 : (j == k) = false := by
          have : k ≠ j := by simpa using hne
          simp [Ne.symm this]
        simp [cellAt, h1, hlt, cellAt_cellDrop_self k l (keysRise_forget l h)]

/-- Another key keeps its entry, where keys rise. -/
theorem cellAt_cellDrop_ne {α : Type} {k k' : Nat} (hk : k' ≠ k) :
    ∀ l : List (Nat × α), keysRise none l = true → cellAt k' (cellDrop k l) = cellAt k' l
  | [], _ => rfl
  | (j, b) :: l, h => by
    rw [keysRise_none] at h
    unfold cellDrop
    split
    · rfl
    · split
      · rename_i _ he
        have he' : k = j := by simpa using he
        subst he'
        have h1 : (k == k') = false := by simp [Ne.symm hk]
        by_cases hlt : k' < k
        · simp [cellAt, h1, hlt, cellAt_below (Nat.le_of_lt hlt) l h]
        · simp [cellAt, h1, hlt]
      · simp only [cellAt]
        rw [cellAt_cellDrop_ne hk l (keysRise_forget l h)]

/-! ### Tables -/

/-- Writing a cell keeps the canonical form. -/
theorem Table.put_wf {α : Type} [DecidableEq α] (t : Table α) (k : Nat) (a : Option α) (h : t.wf = true) :
    (t.put k a).wf = true := by
  simp only [Table.wf, Bool.and_eq_true, List.all_eq_true] at h
  unfold Table.put
  split
  · simp only [Table.wf, Bool.and_eq_true, List.all_eq_true]
    exact ⟨keysRise_cellDrop_none k _ h.1, fun c hc => h.2 c (cellDrop_mem _ hc)⟩
  · rename_i hne
    simp only [Table.wf, Bool.and_eq_true, List.all_eq_true]
    refine ⟨keysRise_cellPut_none k a _ h.1, fun c hc => ?_⟩
    rcases cellPut_mem _ hc with rfl | hc
    · simpa using hne
    · exact h.2 c hc

theorem Table.set_wf {α : Type} [DecidableEq α] (t : Table α) (k : Nat) (a : α) (h : t.wf = true) :
    (t.set k a).wf = true := t.put_wf k (some a) h

theorem Table.const_wf {α : Type} [DecidableEq α] (a : α) : (Table.const a).wf = true := rfl

theorem Table.undefined_wf {α : Type} [DecidableEq α] : (Table.undefined : Table α).wf = true := rfl

/-- A cell reads back what was written. -/
theorem Table.get_put_self {α : Type} [DecidableEq α] (t : Table α) (k : Nat) (a : Option α)
    (h : t.wf = true) : (t.put k a).get k = a := by
  simp only [Table.wf, Bool.and_eq_true] at h
  unfold Table.put
  split
  · rename_i he
    simp [Table.get, cellAt_cellDrop_self k t.cells h.1, he]
  · simp [Table.get, cellAt_cellPut_self]

/-- Every other cell reads as before. -/
theorem Table.get_put_ne {α : Type} [DecidableEq α] (t : Table α) {k k' : Nat} (a : Option α)
    (hk : k' ≠ k) (h : t.wf = true) : (t.put k a).get k' = t.get k' := by
  simp only [Table.wf, Bool.and_eq_true] at h
  unfold Table.put
  split
  · simp [Table.get, cellAt_cellDrop_ne hk t.cells h.1]
  · simp [Table.get, cellAt_cellPut_ne a hk]

/-! ### Byte memory -/

theorem addrsRise_some (lo a : Nat) (l : List Nat) :
    addrsRise (some lo) (a :: l) = true ↔ lo < a ∧ addrsRise (some a) l = true := by simp [addrsRise]

theorem addrsRise_none (a : Nat) (l : List Nat) :
    addrsRise none (a :: l) = true ↔ addrsRise (some a) l = true := by simp [addrsRise]

theorem addrsRise_weaken {lo lo' : Nat} (hlo : lo ≤ lo') :
    ∀ l : List Nat, addrsRise (some lo') l = true → addrsRise (some lo) l = true
  | [], _ => rfl
  | a :: l, h => by
    rw [addrsRise_some] at h ⊢
    exact ⟨by omega, h.2⟩

theorem addrsRise_forget {lo : Nat} :
    ∀ l : List Nat, addrsRise (some lo) l = true → addrsRise none l = true
  | [], _ => rfl
  | a :: l, h => by
    rw [addrsRise_some] at h
    rw [addrsRise_none]
    exact h.2

theorem addrsRise_above {lo : Nat} :
    ∀ l : List Nat, addrsRise (some lo) l = true → ∀ b ∈ l, lo < b
  | [], _, b, hb => by simp at hb
  | a :: l, h, b, hb => by
    rw [addrsRise_some] at h
    rcases List.mem_cons.1 hb with rfl | hb
    · exact h.1
    · exact Nat.lt_trans h.1 (addrsRise_above l h.2 b hb)

theorem addrsRise_addrPut (a : Nat) :
    ∀ (l : List Nat) (lo : Nat), lo < a → addrsRise (some lo) l = true →
      addrsRise (some lo) (addrPut a l) = true
  | [], lo, hlo, _ => by simp [addrPut, addrsRise, hlo]
  | b :: l, lo, hlo, h => by
    have h' := (addrsRise_some lo b l).1 h
    unfold addrPut
    split
    · rw [addrsRise_some, addrsRise_some]
      exact ⟨hlo, by assumption, h'.2⟩
    · split
      · exact h
      · rename_i hlt hne
        have hne' : a ≠ b := by simpa using hne
        rw [addrsRise_some]
        exact ⟨h'.1, addrsRise_addrPut a l b (by omega) h'.2⟩

theorem addrsRise_addrPut_none (a : Nat) :
    ∀ l : List Nat, addrsRise none l = true → addrsRise none (addrPut a l) = true
  | [], _ => by simp [addrPut, addrsRise]
  | b :: l, h => by
    have h' := (addrsRise_none b l).1 h
    unfold addrPut
    split
    · rw [addrsRise_none, addrsRise_some]
      exact ⟨by assumption, h'⟩
    · split
      · exact h
      · rename_i hlt hne
        have hne' : a ≠ b := by simpa using hne
        rw [addrsRise_none]
        exact addrsRise_addrPut a l b (by omega) h'

theorem addrsRise_addrDrop (a : Nat) :
    ∀ (l : List Nat) (lo : Nat), addrsRise (some lo) l = true → addrsRise (some lo) (addrDrop a l) = true
  | [], _, _ => rfl
  | b :: l, lo, h => by
    have h' := (addrsRise_some lo b l).1 h
    unfold addrDrop
    split
    · exact h
    · split
      · exact addrsRise_weaken (by omega) l h'.2
      · rw [addrsRise_some]
        exact ⟨h'.1, addrsRise_addrDrop a l b h'.2⟩

theorem addrsRise_addrDrop_none (a : Nat) :
    ∀ l : List Nat, addrsRise none l = true → addrsRise none (addrDrop a l) = true
  | [], _ => rfl
  | b :: l, h => by
    have h' := (addrsRise_none b l).1 h
    unfold addrDrop
    split
    · exact h
    · split
      · exact addrsRise_forget l h'
      · rw [addrsRise_none]
        exact addrsRise_addrDrop a l b h'

/-- The members after putting an address. -/
theorem addrPut_mem (a b : Nat) : ∀ l : List Nat, b ∈ addrPut a l ↔ b = a ∨ b ∈ l
  | [] => by simp [addrPut]
  | c :: l => by
    unfold addrPut
    split
    · simp
    · split
      · rename_i _ he
        have he' : a = c := by simpa using he
        subst he'
        simp
      · simp only [List.mem_cons, addrPut_mem a b l]
        exact or_left_comm

/-- The members after dropping an address, where addresses rise. -/
theorem addrDrop_mem (a b : Nat) :
    ∀ l : List Nat, addrsRise none l = true → (b ∈ addrDrop a l ↔ b ≠ a ∧ b ∈ l)
  | [], _ => by simp [addrDrop]
  | c :: l, h => by
    have h' := (addrsRise_none c l).1 h
    have above := addrsRise_above l h'
    unfold addrDrop
    split
    · rename_i hlt
      refine ⟨fun hb => ⟨?_, hb⟩, fun hb => hb.2⟩
      rcases List.mem_cons.1 hb with rfl | hb
      · omega
      · have := above b hb; omega
    · split
      · rename_i _ he
        have he' : a = c := by simpa using he
        subst he'
        refine ⟨fun hb => ⟨?_, List.mem_cons_of_mem _ hb⟩, fun hb => ?_⟩
        · have := above b hb; omega
        · rcases List.mem_cons.1 hb.2 with hb' | hb'
          · exact absurd hb' hb.1
          · exact hb'
      · rename_i _ hne
        have hne' : a ≠ c := by simpa using hne
        simp only [List.mem_cons, addrDrop_mem a b l (addrsRise_forget l h')]
        constructor
        · rintro (rfl | ⟨h1, h2⟩)
          · exact ⟨Ne.symm hne', .inl rfl⟩
          · exact ⟨h1, .inr h2⟩
        · rintro ⟨h1, rfl | h2⟩
          · exact .inl rfl
          · exact .inr ⟨h1, h2⟩

/-- The canonical form, clause by clause. -/
theorem Memory.wf_iff (m : Memory) : m.wf = true ↔
    keysRise none m.cells = true ∧ (∀ c ∈ m.cells, c.2 ≠ unlistedByte) ∧ addrsRise none m.undef = true ∧
    ∀ a ∈ m.undef, cellAt a m.cells = none := by
  simp [Memory.wf, and_assoc]

theorem Memory.empty_wf : Memory.empty.wf = true := rfl

/-- Writing a byte keeps the canonical form. -/
theorem Memory.write_wf (m : Memory) (a : Nat) (b : Byte) (h : m.wf = true) : (m.write a b).wf = true := by
  rw [Memory.wf_iff] at h ⊢
  obtain ⟨hk, hz, hu, hd⟩ := h
  unfold Memory.write
  split
  · refine ⟨keysRise_cellDrop_none a _ hk, fun c hc => hz c (cellDrop_mem _ hc), addrsRise_addrDrop_none a _ hu,
      fun u hm => ?_⟩
    obtain ⟨hne, hm⟩ := (addrDrop_mem a u _ hu).1 hm
    rw [cellAt_cellDrop_ne hne _ hk]
    exact hd u hm
  · rename_i hb
    have hb' : b ≠ unlistedByte := by simpa using hb
    refine ⟨keysRise_cellPut_none a b _ hk, fun c hc => ?_, addrsRise_addrDrop_none a _ hu, fun u hm => ?_⟩
    · rcases cellPut_mem _ hc with rfl | hc
      · exact hb'
      · exact hz c hc
    · obtain ⟨hne, hm⟩ := (addrDrop_mem a u _ hu).1 hm
      rw [cellAt_cellPut_ne b hne]
      exact hd u hm

/-- Making a byte undefined keeps the canonical form. -/
theorem Memory.spoil_wf (m : Memory) (a : Nat) (h : m.wf = true) : (m.spoil a).wf = true := by
  rw [Memory.wf_iff] at h ⊢
  obtain ⟨hk, hz, hu, hd⟩ := h
  refine ⟨keysRise_cellDrop_none a _ hk, fun c hc => hz c (cellDrop_mem _ hc), addrsRise_addrPut_none a _ hu,
    fun u hm => ?_⟩
  by_cases hne : u = a
  · subst hne
    exact cellAt_cellDrop_self u _ hk
  · have hm' := ((addrPut_mem a u _).1 hm).resolve_left hne
    change cellAt u (cellDrop a m.cells) = none
    rw [cellAt_cellDrop_ne hne _ hk]
    exact hd u hm'

theorem Memory.writeBytes_wf (bs : List Byte) :
    ∀ (m : Memory) (a : Nat), m.wf = true → (m.writeBytes a bs).wf = true := by
  induction bs with
  | nil => intro m a h; exact h
  | cons b bs ih => intro m a h; exact ih _ _ (m.write_wf a b h)

theorem Memory.writeLe_wf (m : Memory) (a n v : Nat) (h : m.wf = true) : (m.writeLe a n v).wf = true :=
  Memory.writeBytes_wf _ m a h

theorem keysRise_filter {α : Type} (p : Nat × α → Bool) :
    ∀ (l : List (Nat × α)) (lo : Nat), keysRise (some lo) l = true → keysRise (some lo) (l.filter p) = true
  | [], _, _ => rfl
  | (k, a) :: l, lo, h => by
    rw [keysRise_some] at h
    by_cases hp : p (k, a) = true
    · rw [List.filter_cons_of_pos hp, keysRise_some]
      exact ⟨h.1, keysRise_filter p l k h.2⟩
    · rw [List.filter_cons_of_neg hp]
      exact keysRise_weaken (Nat.le_of_lt h.1) _ (keysRise_filter p l k h.2)

theorem keysRise_filter_none {α : Type} (p : Nat × α → Bool) :
    ∀ l : List (Nat × α), keysRise none l = true → keysRise none (l.filter p) = true
  | [], _ => rfl
  | (k, a) :: l, h => by
    rw [keysRise_none] at h
    by_cases hp : p (k, a) = true
    · rw [List.filter_cons_of_pos hp, keysRise_none]
      exact keysRise_filter p l k h
    · rw [List.filter_cons_of_neg hp]
      exact keysRise_forget _ (keysRise_filter p l k h)

theorem addrsRise_filter (p : Nat → Bool) :
    ∀ (l : List Nat) (lo : Nat), addrsRise (some lo) l = true → addrsRise (some lo) (l.filter p) = true
  | [], _, _ => rfl
  | a :: l, lo, h => by
    rw [addrsRise_some] at h
    by_cases hp : p a = true
    · rw [List.filter_cons_of_pos hp, addrsRise_some]
      exact ⟨h.1, addrsRise_filter p l a h.2⟩
    · rw [List.filter_cons_of_neg hp]
      exact addrsRise_weaken (Nat.le_of_lt h.1) _ (addrsRise_filter p l a h.2)

theorem addrsRise_filter_none (p : Nat → Bool) :
    ∀ l : List Nat, addrsRise none l = true → addrsRise none (l.filter p) = true
  | [], _ => rfl
  | a :: l, h => by
    rw [addrsRise_none] at h
    by_cases hp : p a = true
    · rw [List.filter_cons_of_pos hp, addrsRise_none]
      exact addrsRise_filter p l a h
    · rw [List.filter_cons_of_neg hp]
      exact addrsRise_forget _ (addrsRise_filter p l a h)

/-- An entry found is a member. -/
theorem cellAt_mem {α : Type} {k : Nat} {a : α} : ∀ l : List (Nat × α), cellAt k l = some a → (k, a) ∈ l
  | [], h => by simp [cellAt] at h
  | (j, b) :: l, h => by
    unfold cellAt at h
    split at h
    · rename_i he
      have he' : j = k := by simpa using he
      subst he'
      simp only [Option.some.injEq] at h
      subst h
      exact List.mem_cons_self
    · split at h
      · exact absurd h (by simp)
      · exact List.mem_cons_of_mem _ (cellAt_mem l h)

/-- A member is found, where keys rise. -/
theorem cellAt_of_mem {α : Type} {k : Nat} {a : α} :
    ∀ l : List (Nat × α), keysRise none l = true → (k, a) ∈ l → cellAt k l = some a
  | [], _, h => by simp at h
  | (j, b) :: l, hr, h => by
    rw [keysRise_none] at hr
    rcases List.mem_cons.1 h with h | h
    · simp only [Prod.mk.injEq] at h
      obtain ⟨rfl, rfl⟩ := h
      simp [cellAt]
    · have hl := cellAt_of_mem l (keysRise_forget l hr) h
      have hne : ¬ k ≤ j := fun hle => by
        rw [cellAt_below hle l hr] at hl
        exact absurd hl (by simp)
      have h1 : (j == k) = false := by simp; omega
      have h2 : ¬ k < j := by omega
      simp [cellAt, h1, h2, hl]

/-- Clearing a range keeps the canonical form. -/
theorem Memory.clear_wf (m : Memory) (a n : Nat) (h : m.wf = true) : (m.clear a n).wf = true := by
  rw [Memory.wf_iff] at h ⊢
  obtain ⟨hk, hz, hu, hd⟩ := h
  refine ⟨keysRise_filter_none _ _ hk, fun c hc => hz c (List.mem_filter.1 hc).1,
    addrsRise_filter_none _ _ hu, fun u hm => ?_⟩
  have hu' := hd u (List.mem_filter.1 hm).1
  cases hc : cellAt u (m.clear a n).cells with
  | none => rfl
  | some b =>
    have hmem := (List.mem_filter.1 (cellAt_mem _ hc)).1
    rw [cellAt_of_mem _ hk hmem] at hu'
    exact absurd hu' (by simp)

/-- Reading the byte that was written. -/
theorem Memory.read_write_self (m : Memory) (tick a : Nat) (b : Byte) (h : m.wf = true) :
    (m.write a b).read tick a = b := by
  obtain ⟨hk, _, hu, _⟩ := (Memory.wf_iff m).1 h
  unfold Memory.write
  split
  · rename_i hb
    have hb' : b = unlistedByte := by simpa using hb
    have hu' : a ∉ addrDrop a m.undef := fun hm => ((addrDrop_mem a a _ hu).1 hm).1 rfl
    simp [Memory.read, cellAt_cellDrop_self a _ hk, hu', hb']
  · simp [Memory.read, cellAt_cellPut_self]

/-- Reading any other byte. -/
theorem Memory.read_write_ne (m : Memory) (tick : Nat) {a a' : Nat} (b : Byte) (hne : a' ≠ a)
    (h : m.wf = true) : (m.write a b).read tick a' = m.read tick a' := by
  obtain ⟨hk, _, hu, _⟩ := (Memory.wf_iff m).1 h
  have hm : (addrDrop a m.undef).contains a' = m.undef.contains a' := by
    rw [Bool.eq_iff_iff]
    simp only [List.contains_iff_mem]
    rw [addrDrop_mem a a' _ hu]
    exact ⟨fun hx => hx.2, fun hx => ⟨hne, hx⟩⟩
  unfold Memory.write
  split
  · simp only [Memory.read, cellAt_cellDrop_ne hne _ hk, hm]
  · simp only [Memory.read, cellAt_cellPut_ne b hne, hm]

/-- Bytes below a range that is written read as before. -/
theorem Memory.read_writeBytes_below (tick a' : Nat) (bs : List Byte) :
    ∀ (m : Memory) (a : Nat), m.wf = true → a' < a → (m.writeBytes a bs).read tick a' = m.read tick a' := by
  induction bs with
  | nil => intros; rfl
  | cons b bs ih =>
    intro m a h hlt
    rw [Memory.writeBytes, ih _ _ (m.write_wf a b h) (by omega), m.read_write_ne tick b (by omega) h]

/-- Every byte outside a range that is written reads as before. -/
theorem Memory.read_writeBytes_outside (tick a' : Nat) (bs : List Byte) :
    ∀ (m : Memory) (a : Nat), m.wf = true → a' < a ∨ a + bs.length ≤ a' →
      (m.writeBytes a bs).read tick a' = m.read tick a' := by
  induction bs with
  | nil => intros; rfl
  | cons b bs ih =>
    intro m a h ho
    have hne : a' ≠ a := by
      rcases ho with ho | ho
      · omega
      · simp only [List.length_cons] at ho; omega
    rw [Memory.writeBytes, ih _ _ (m.write_wf a b h) (by
      rcases ho with ho | ho
      · left; omega
      · right; simp only [List.length_cons] at ho; omega), m.read_write_ne tick b hne h]

/-- Bytes read back as they were written. -/
theorem Memory.readBytes_writeBytes (tick : Nat) (bs : List Byte) :
    ∀ (m : Memory) (a : Nat), m.wf = true → (m.writeBytes a bs).readBytes tick a bs.length = bs := by
  induction bs with
  | nil => intros; rfl
  | cons b bs ih =>
    intro m a h
    have h' := m.write_wf a b h
    simp only [List.length_cons, Memory.readBytes, Memory.writeBytes]
    rw [Memory.read_writeBytes_below tick a bs _ _ h' (by omega), m.read_write_self tick a b h, ih _ _ h']

theorem leBytes_length : ∀ n v : Nat, (leBytes n v).length = n
  | 0, _ => rfl
  | n + 1, v => by simp [leBytes, leBytes_length n]

theorem leValue_leBytes : ∀ n v : Nat, leValue (leBytes n v) = v % 2 ^ (8 * n)
  | 0, v => by simp [leBytes, leValue, Nat.mod_one]
  | n + 1, v => by
    simp only [leBytes, leValue, leValue_leBytes n, BitVec.toNat_ofNat]
    have h1 : 2 ^ (8 * (n + 1)) = 256 * 2 ^ (8 * n) := by rw [Nat.mul_add, Nat.pow_add]; omega
    have h2 : (2 : Nat) ^ 8 = 256 := rfl
    rw [h1, h2, Nat.mod_mul]

/-- A value reads back from its bytes, modulo their width. -/
theorem Memory.readLe_writeLe (m : Memory) (tick a n v : Nat) (h : m.wf = true) :
    (m.writeLe a n v).readLe tick a n = v % 2 ^ (8 * n) := by
  have := Memory.readBytes_writeBytes tick (leBytes n v) m a h
  rw [leBytes_length] at this
  simp only [Memory.readLe, Memory.writeLe, this, leValue_leBytes]

/-- Every byte outside the n written ones reads as before. -/
theorem Memory.read_writeLe_outside (m : Memory) (tick a n v a' : Nat) (h : m.wf = true)
    (ho : a' < a ∨ a + n ≤ a') : (m.writeLe a n v).read tick a' = m.read tick a' :=
  Memory.read_writeBytes_outside tick a' _ m a h (by rw [leBytes_length]; exact ho)

/-! ### Loops -/

/-- What every step of a loop keeps, the loop keeps. -/
theorem forEach_keeps {α β : Type} (p : β → Prop) (f : β → α → β) (h : ∀ b a, p b → p (f b a)) :
    ∀ (l : List α) (b : β), p b → p (forEach l b f)
  | [], _, hb => hb
  | a :: l, b, hb => forEach_keeps p f h l (f b a) (h b a hb)

/-- Making a range undefined keeps the canonical form. -/
theorem Memory.spoilAll_wf (l : List Nat) (m : Memory) (h : m.wf = true) :
    (forEach l m Memory.spoil).wf = true :=
  forEach_keeps (fun m => m.wf = true) Memory.spoil (fun m a hm => m.spoil_wf a hm) l m h

end Sys2Proof.Machine
end

