-- ==== Sys2Proof/Laws/Access.lean ====
section
/-!
SUPPORT. Laws of a hart's access to memory: what every access keeps, said once for the walks, the checks and the
writes, so that no later proof unfolds them.
-/
namespace Sys2Proof.Machine

/-- The three byte memories that an access can touch are in their canonical form. -/
def Ctx.MemWf (c : Ctx) : Prop := c.s.mem.wf = true ∧ c.h.scratch.wf = true ∧ c.h.sdata.wf = true

/-- Whatever an access comes to, the machine it leaves has p. -/
def Got.Leaves {α : Type} (p : Ctx → Prop) : Got (α × Ctx) → Prop
  | .ok (_, c) => p c
  | .error (.fault _ c) => p c
  | .error (.wait _ c) => p c

/-- Accesses in sequence. -/
theorem Got.leaves_bind {α β : Type} {p : Ctx → Prop} (r : Got (α × Ctx)) (f : α × Ctx → Got (β × Ctx))
    (hr : Got.Leaves p r) (hf : ∀ a c, p c → Got.Leaves p (f (a, c))) : Got.Leaves p (r >>= f) := by
  match r, hr with
  | .ok (a, c), hr => exact hf a c hr
  | .error (.fault _ _), hr => exact hr
  | .error (.wait _ _), hr => exact hr

theorem Got.leaves_ok {α : Type} {p : Ctx → Prop} {r : Got (α × Ctx)} {a : α} {c : Ctx}
    (hr : Got.Leaves p r) (h : r = .ok (a, c)) : p c := by subst h; exact hr

theorem Got.leaves_fault {α : Type} {p : Ctx → Prop} {r : Got (α × Ctx)} {m : MemFault} {c : Ctx}
    (hr : Got.Leaves p r) (h : r = .error (.fault m c)) : p c := by subst h; exact hr

theorem Got.leaves_mono {α : Type} {p q : Ctx → Prop} (h : ∀ c, p c → q c) {r : Got (α × Ctx)}
    (hr : Got.Leaves p r) : Got.Leaves q r := by
  match r, hr with
  | .ok (_, c), hr => exact h c hr
  | .error (.fault _ c), hr => exact h c hr
  | .error (.wait _ c), hr => exact h c hr

theorem Got.leaves_wait {α : Type} {p : Ctx → Prop} {r : Got (α × Ctx)} {sent : Option (Nat × AccKind)} {c : Ctx}
    (hr : Got.Leaves p r) (h : r = .error (.wait sent c)) : p c := by subst h; exact hr

/-! ### Walks -/

/-- A write by the hall or from outside a hart keeps memory canonical. -/
theorem State.outerWrite_wf (s : State) (a : Nat) (bytes : List Byte) (h : s.mem.wf = true) :
    (s.outerWrite a bytes).mem.wf = true := by
  unfold State.outerWrite
  split
  · exact Memory.writeBytes_wf _ _ _ h
  · refine forEach_keeps (fun m : Memory => m.wf = true) _ (fun m p hm => ?_) _ _ h
    dsimp only
    split
    · exact hm
    · exact Memory.write_wf _ _ _ hm

theorem State.cacheEntry_mem (s : State) (q a n va e : Nat) : (s.cacheEntry q a n va e).mem = s.mem := by
  unfold State.cacheEntry
  dsimp only
  split <;> rfl

/-- What the steps of a walk keep: the count of an access that does not complete, a cached entry, and what mapping a
device-managed page writes. -/
structure State.WalkKeeps (p : State → Prop) : Prop where
  unreach : ∀ s : State, p s → p s.countUnreach
  cache : ∀ (s : State) q a n va e, p s → p (s.cacheEntry q a n va e)
  write : ∀ (s : State) pa n v, p s → p (s.physWrite pa n v)
  clear : ∀ (s : State) f n ps, p s → p { s with mem := s.mem.clear f n, poison := ps }

/-- An access of a walk that ends it leaves the machine, or counts an access that does not complete. -/
theorem State.walkStop_cases {s : State} {w : WalkMode} {e n pa : Nat} {reads : Bool} {r : WalkEnd × State}
    (h : s.walkStop w e n pa reads = some r) : r.2 = s ∨ r.2 = s.countUnreach := by
  unfold State.walkStop at h
  split at h
  · cases h; exact .inl rfl
  · split at h
    · cases h; exact .inr rfl
    · split at h
      · cases h; exact .inr rfl
      · split at h
        · cases h; exact .inl rfl
        · cases h

/-- So it keeps what a walk keeps. -/
theorem State.WalkKeeps.stop {p : State → Prop} (hp : State.WalkKeeps p) {s : State} {w : WalkMode} {e n pa : Nat}
    {reads : Bool} {r : WalkEnd × State} (h : s.walkStop w e n pa reads = some r) (hs : p s) : p r.2 := by
  rcases State.walkStop_cases h with h | h <;> rw [h]
  · exact hs
  · exact hp.unreach s hs

/-- Taking the head of a list writes. -/
theorem State.WalkKeeps.take {p : State → Prop} (hp : State.WalkKeeps p) (s : State) (d n : Nat) (hs : p s) :
    p (s.takeHead d n) := by
  unfold State.takeHead
  dsimp only
  split
  · exact hp.write _ _ _ _ (hp.write _ _ _ _ hs)
  · exact hp.write _ _ _ _ hs

/-- Mapping a device-managed page clears its frame and writes. -/
theorem State.WalkKeeps.map {p : State → Prop} (hp : State.WalkKeeps p) (s : State) (w : WalkMode)
    (desc at_ n e : Nat) (hs : p s) : p (s.mapPlaceholder w desc at_ n e).2 := by
  unfold State.mapPlaceholder
  dsimp only
  generalize s.physRead (desc + if bitAt e 6 = true then 0x20 else 0x08) 8 = list
  split
  · exact hs
  · split
    · rename_i r hr
      exact hp.stop hr hs
    · split
      · exact hs
      · split
        · rename_i r hr
          exact hp.stop hr hs
        · have hm : ∀ q f, p ((s.takeHead q f).enterFrame at_ e f).2 := fun q f =>
            hp.write _ _ _ _ (hp.clear _ _ _ _ (hp.take s _ _ hs))
          split <;> exact hm _ _

/-- A walk from a level keeps it. -/
theorem State.WalkKeeps.walkFrom {p : State → Prop} (hp : State.WalkKeeps p) (quad asid va desc : Nat) (w : WalkMode) :
    ∀ (fuel n table : Nat) (s : State), p s → p (State.walkFrom quad asid va desc w fuel n table s).2
  | 0, _, _, _, h => h
  | fuel + 1, n, table, s, h => by
    unfold State.walkFrom
    dsimp only
    split
    · rename_i r hr
      exact hp.stop hr h
    · split
      · exact h
      · exact h
      · exact hp.walkFrom quad asid va desc w fuel _ _ _ (hp.cache _ _ _ _ _ _ h)
      · exact hp.cache _ _ _ _ _ _ h
      · split
        · exact h
        · have hm := hp.map s w desc (table + 8 * fld va (levelShift n) (levelBits n)) n
            (s.chooseEntry (s.cachedEntries quad asid n va) (8 * va + n)
              (s.physRead (table + 8 * fld va (levelShift n) (levelBits n)) 8)) h
          split
          · rename_i n' e' s' hr
            rw [hr] at hm
            exact hp.cache _ _ _ _ _ _ hm
          · exact hm

/-- A walk keeps it. -/
theorem State.WalkKeeps.walk {p : State → Prop} (hp : State.WalkKeeps p) (s : State) (quad asid va : Nat)
    (w : WalkMode) (h : p s) : p (s.walk quad asid va w).2 := by
  have stale : ∀ (held : Option (Nat × Nat)) (r : WalkEnd × State), p r.2 →
      p (match held with
        | some (n, e) => if Config.tlbHit s.tick (8 * va + 5) then (WalkEnd.leaf n e, s) else r
        | none => r).2 := by
    intro held r hr
    split
    · split
      · exact h
      · exact hr
    · exact hr
  unfold State.walk
  dsimp only
  split
  · exact stale _ _ h
  · split
    · rename_i r hr
      refine stale _ _ ?_
      rw [Option.or_eq_some_iff] at hr
      rcases hr with hr | ⟨-, hr⟩ <;> exact hp.stop hr h
    · split
      · exact stale _ _ h
      · split
        · exact stale _ _ h
        · exact hp.walkFrom _ _ _ _ _ _ _ _ _ h

/-- A walk keeps memory canonical. -/
theorem State.walkKeeps_wf : State.WalkKeeps (fun s => s.mem.wf = true) where
  unreach := fun _ h => h
  cache := fun s q a n va e h => by rw [State.cacheEntry_mem]; exact h
  write := fun s _ _ _ h => s.outerWrite_wf _ _ h
  clear := fun _ _ _ _ h => Memory.clear_wf _ _ _ h

/-! ### Checks -/

theorem locate_wf (c : Ctx) (va : Nat) (k : AccKind) (s : State) (n e : Nat)
    (hc : c.MemWf) (hs : s.mem.wf = true) : Got.Leaves Ctx.MemWf (locate c va k s n e) := by
  unfold locate
  split <;> exact ⟨hs, hc.2⟩

/-- An access that needs the link while it does not carry it changes nothing but the mark of a failed access. -/
theorem Ctx.offLink_keeps {α : Type} {p : Ctx → Prop} (c : Ctx) (va : Nat) (k : AccKind) (l : Leaf) (h : p c)
    (ht : p { c with h := { c.h with timedOut := false } }) : Got.Leaves p (c.offLink (α := α × Ctx) va k l) := by
  unfold Ctx.offLink
  split
  · exact ht
  · exact h

theorem Ctx.translate_wf (c : Ctx) (va : Nat) (k : AccKind) (h : c.MemWf) :
    Got.Leaves Ctx.MemWf (c.translate va k) := by
  unfold Ctx.translate
  split
  · exact h
  · split
    · split
      · exact h
      · split
        · exact h
        · split <;> exact h
    · have hw := State.walkKeeps_wf.walk c.s (c.h.core / 4) (c.s.asidOf c.h) va c.walkMode h.1
      split <;> rename_i hs <;> rw [hs] at hw
      · exact ⟨hw, h.2⟩
      · exact ⟨hw, h.2⟩
      · exact Ctx.offLink_keeps _ _ _ _ ⟨hw, h.2⟩ ⟨hw, h.2⟩
      · exact locate_wf c va k _ _ _ h hw

theorem Ctx.resolve_wf (c : Ctx) (va : Nat) (k : AccKind) (h : c.MemWf) :
    Got.Leaves Ctx.MemWf (c.resolve va k) := by
  unfold Ctx.resolve
  split
  · exact locate_wf c va k _ _ _ h h.1
  · exact c.translate_wf va k h

/-- With no access under way, an access is translated afresh. -/
theorem Ctx.resolve_fresh (c : Ctx) (va : Nat) (k : AccKind) (h : c.h.sentPage = none) :
    c.resolve va k = c.translate va k := by
  simp [Ctx.resolve, heldPage, h]

theorem Ctx.spoilLoc_wf (c : Ctx) (loc : Loc) (n : Nat) (h : c.MemWf) : (c.spoilLoc loc n).MemWf := by
  obtain ⟨h1, h2, h3⟩ := h
  cases loc with
  | scratch a => exact ⟨h1, Memory.spoilAll_wf _ _ h2, h3⟩
  | sdata a => exact ⟨h1, h2, Memory.spoilAll_wf _ _ h3⟩
  | phys pa => exact ⟨Memory.spoilAll_wf _ _ h1, h2, h3⟩
  | packed f o => exact ⟨Memory.spoilAll_wf _ _ (Memory.writeBytes_wf _ _ _ h1), h2, h3⟩

/-- Whether link and fabric carry an access changes nothing but the two marks of a failed access and the count. -/
theorem Ctx.carried_keeps {p : Ctx → Prop} (c : Ctx) (va : Nat) (k : AccKind) (l : Leaf) (pa : Nat) (h : p c)
    (ht : p { c with h := { c.h with timedOut := false } }) (hu : p { c with s := c.s.countUnreach })
    (hn : p { h := { c.h with noAck := false }, s := c.s.countUnreach }) : Got.Leaves p (c.carried va k l pa) := by
  unfold Ctx.carried
  split
  · split
    · exact h
    · exact Ctx.offLink_keeps _ _ _ _ h ht
  · split
    · exact h
    · split
      · exact hu
      · split
        · exact hn
        · exact h

theorem Ctx.carried_wf (c : Ctx) (va : Nat) (k : AccKind) (l : Leaf) (pa : Nat) (h : c.MemWf) :
    Got.Leaves Ctx.MemWf (c.carried va k l pa) := c.carried_keeps _ _ _ _ h h h h

theorem Ctx.intact_wf (c : Ctx) (va : Nat) (k : AccKind) (loc : Loc) (l : Leaf) (pa : Nat)
    (whole : Option (Nat × Nat)) (h : c.MemWf) : Got.Leaves Ctx.MemWf (c.intact va k loc l pa whole) := by
  unfold Ctx.intact
  split <;> exact h

theorem Ctx.reach_wf (c : Ctx) (va : Nat) (k : AccKind) (loc : Loc) (l : Leaf) (whole : Option (Nat × Nat))
    (h : c.MemWf) : Got.Leaves Ctx.MemWf (c.reach va k loc l whole) := by
  unfold Ctx.reach
  split
  · exact h
  · exact Got.leaves_bind _ _ (c.carried_wf _ _ _ _ h) (fun _ c2 h2 => c2.intact_wf _ _ _ _ _ _ h2)

/-- The checks of an access keep the three memories canonical, whatever they come to. -/
theorem Ctx.checked_wf (c : Ctx) (va n : Nat) (k : AccKind) (whole : Option (Nat × Nat)) (h : c.MemWf) :
    Got.Leaves Ctx.MemWf (c.checked va n k whole) := by
  unfold Ctx.checked
  split
  · exact h
  · exact Got.leaves_bind _ _ (c.resolve_wf va k h) (fun a c1 h1 =>
      Got.leaves_bind _ _ (c1.reach_wf va k a.1 a.2 whole h1) (fun _ _ h2 => h2))

/-- The check of what a store is to write keeps them too. -/
theorem Ctx.grows_keeps {p : Ctx → Prop} (c : Ctx) (va : Nat) (k : AccKind) (loc : Loc) (whole : Option (Nat × Nat))
    (c' : Ctx) (h : p c) : Got.Leaves p (c.grows va k loc whole c') := by
  unfold Ctx.grows
  split <;> exact h

/-- So do the checks of a store. -/
theorem Ctx.checkedStore_wf (c : Ctx) (va n : Nat) (k : AccKind) (whole : Option (Nat × Nat)) (val : Ctx → Loc → Nat)
    (h : c.MemWf) : Got.Leaves Ctx.MemWf (c.checkedStore va n k whole val) :=
  Got.leaves_bind _ _ (c.checked_wf _ _ _ _ h) (fun _ c1 h1 =>
    Got.leaves_bind _ _ (c1.grows_keeps _ _ _ _ _ h1) (fun _ _ h2 => h2))

/-- A write at a place keeps them canonical. -/
theorem Ctx.writeLoc_wf (c : Ctx) (loc : Loc) (n v : Nat) (h : c.MemWf) : (c.writeLoc loc n v).MemWf := by
  obtain ⟨h1, h2, h3⟩ := h
  cases loc with
  | scratch a => exact ⟨h1, Memory.writeLe_wf _ _ _ _ h2, h3⟩
  | sdata a => exact ⟨h1, h2, Memory.writeLe_wf _ _ _ _ h3⟩
  | phys pa => exact ⟨Memory.writeLe_wf _ _ _ _ h1, h2, h3⟩
  | packed f o => exact ⟨Memory.writeBytes_wf _ _ _ h1, h2, h3⟩

/-- So does a store's whole effect at its place. -/
theorem Ctx.putLoc_wf (c : Ctx) (loc : Loc) (va n v : Nat) (whole : Option (Nat × Nat)) (h : c.MemWf) :
    (c.putLoc loc va n v whole).MemWf := by
  have hw := c.writeLoc_wf loc n v h
  unfold Ctx.putLoc Ctx.mend
  split
  · exact hw
  · dsimp only
    split <;> exact hw

/-- The fetch of a word keeps them canonical. -/
theorem Ctx.fetch_wf (c : Ctx) (pc : Word) (h : c.MemWf) : Got.Leaves Ctx.MemWf (c.fetch pc) :=
  Got.leaves_bind _ _ (c.checked_wf _ _ _ _ h) (fun _ _ h' => h')

/-! ### What the checks of an access can change -/

/-- t differs from s in memory, poison, translations and the count of unreachable accesses at most. -/
def State.OnlyMemory (s t : State) : Prop :=
  t = { s with mem := t.mem, poison := t.poison, tlb := t.tlb, fab := { s.fab with unreach := t.fab.unreach } }

theorem State.onlyMemory_refl (s : State) : s.OnlyMemory s := rfl

theorem State.onlyMemory_trans {s t u : State} (h : s.OnlyMemory t) (h' : t.OnlyMemory u) : s.OnlyMemory u := by
  unfold State.OnlyMemory at h h'
  rw [h] at h'
  exact h'

theorem State.cacheEntry_only (s : State) (q a n va e : Nat) : s.OnlyMemory (s.cacheEntry q a n va e) := by
  unfold State.cacheEntry
  dsimp only
  split
  · exact s.onlyMemory_refl
  · rfl

theorem State.physWrite_only (s : State) (pa n v : Nat) : s.OnlyMemory (s.physWrite pa n v) := by
  unfold State.physWrite State.outerWrite
  dsimp only
  split <;> rfl

/-- A walk changes no more of the machine. -/
theorem State.walkKeeps_only (s : State) : State.WalkKeeps s.OnlyMemory where
  unreach := fun _ h => State.onlyMemory_trans h rfl
  cache := fun _ _ _ _ _ _ h => State.onlyMemory_trans h (State.cacheEntry_only _ _ _ _ _ _)
  write := fun _ _ _ _ h => State.onlyMemory_trans h (State.physWrite_only _ _ _ _)
  clear := fun _ _ _ _ h => State.onlyMemory_trans h rfl

/-- What an access and its checks can change of the hart: its two memories, and the two marks of a failed access. -/
def Ctx.OnlyMemory (c d : Ctx) : Prop :=
  c.s.OnlyMemory d.s ∧
  d.h = { c.h with scratch := d.h.scratch, sdata := d.h.sdata, timedOut := d.h.timedOut, noAck := d.h.noAck }

theorem Ctx.onlyMemory_refl (c : Ctx) : c.OnlyMemory c := ⟨rfl, rfl⟩

theorem Ctx.onlyMemory_trans {c d e : Ctx} (h : c.OnlyMemory d) (h' : d.OnlyMemory e) : c.OnlyMemory e := by
  refine ⟨State.onlyMemory_trans h.1 h'.1, ?_⟩
  have h2 := h.2
  have h3 := h'.2
  rw [h2] at h3
  exact h3

theorem locate_only {c : Ctx} {s : State} (va : Nat) (k : AccKind) (n e : Nat) (hs : c.s.OnlyMemory s) :
    Got.Leaves c.OnlyMemory (locate c va k s n e) := by
  unfold locate
  split <;> exact ⟨hs, rfl⟩

theorem Ctx.translate_only (c : Ctx) (va : Nat) (k : AccKind) :
    Got.Leaves c.OnlyMemory (c.translate va k) := by
  unfold Ctx.translate
  split
  · exact c.onlyMemory_refl
  · split
    · split
      · exact c.onlyMemory_refl
      · split
        · exact c.onlyMemory_refl
        · split <;> exact c.onlyMemory_refl
    · have hw := (State.walkKeeps_only c.s).walk c.s (c.h.core / 4) (c.s.asidOf c.h) va c.walkMode c.s.onlyMemory_refl
      split <;> rename_i hs <;> rw [hs] at hw
      · exact ⟨hw, rfl⟩
      · exact ⟨hw, rfl⟩
      · exact Ctx.offLink_keeps _ _ _ _ ⟨hw, rfl⟩ ⟨hw, rfl⟩
      · exact locate_only va k _ _ hw

theorem Ctx.resolve_only (c : Ctx) (va : Nat) (k : AccKind) :
    Got.Leaves c.OnlyMemory (c.resolve va k) := by
  unfold Ctx.resolve
  split
  · exact locate_only va k _ _ c.s.onlyMemory_refl
  · exact c.translate_only va k

theorem Ctx.spoilLoc_only (c : Ctx) (loc : Loc) (n : Nat) : c.OnlyMemory (c.spoilLoc loc n) := by
  cases loc <;> exact ⟨rfl, rfl⟩

theorem Ctx.writeLoc_only (c : Ctx) (loc : Loc) (n v : Nat) : c.OnlyMemory (c.writeLoc loc n v) := by
  cases loc <;> exact ⟨rfl, rfl⟩

theorem Ctx.putLoc_only (c : Ctx) (loc : Loc) (va n v : Nat) (whole : Option (Nat × Nat)) :
    c.OnlyMemory (c.putLoc loc va n v whole) := by
  refine Ctx.onlyMemory_trans (c.writeLoc_only loc n v) ?_
  unfold Ctx.putLoc Ctx.mend
  split
  · exact ⟨rfl, rfl⟩
  · dsimp only
    split <;> exact ⟨rfl, rfl⟩

theorem Ctx.carried_only (c : Ctx) (va : Nat) (k : AccKind) (l : Leaf) (pa : Nat) :
    Got.Leaves c.OnlyMemory (c.carried va k l pa) :=
  c.carried_keeps _ _ _ _ c.onlyMemory_refl ⟨rfl, rfl⟩ ⟨rfl, rfl⟩ ⟨rfl, rfl⟩

theorem Ctx.intact_only (c : Ctx) (va : Nat) (k : AccKind) (loc : Loc) (l : Leaf) (pa : Nat)
    (whole : Option (Nat × Nat)) : Got.Leaves c.OnlyMemory (c.intact va k loc l pa whole) := by
  unfold Ctx.intact
  split <;> exact c.onlyMemory_refl

theorem Ctx.reach_only (c : Ctx) (va : Nat) (k : AccKind) (loc : Loc) (l : Leaf) (whole : Option (Nat × Nat)) :
    Got.Leaves c.OnlyMemory (c.reach va k loc l whole) := by
  unfold Ctx.reach
  split
  · exact c.onlyMemory_refl
  · exact Got.leaves_bind _ _ (c.carried_only _ _ _ _) (fun _ c2 h2 =>
      Got.leaves_mono (fun _ h => Ctx.onlyMemory_trans h2 h) (c2.intact_only _ _ _ _ _ _))

/-- Everything that the checks of an access can change, whatever they come to. -/
theorem Ctx.checked_only (c : Ctx) (va n : Nat) (k : AccKind) (whole : Option (Nat × Nat)) :
    Got.Leaves c.OnlyMemory (c.checked va n k whole) := by
  unfold Ctx.checked
  split
  · exact c.onlyMemory_refl
  · exact Got.leaves_bind _ _ (c.resolve_only va k) (fun a c1 h1 =>
      Got.leaves_bind _ _ (Got.leaves_mono (fun _ h => Ctx.onlyMemory_trans h1 h) (c1.reach_only va k a.1 a.2 whole))
        (fun _ _ h2 => h2))

/-- The same of the checks of a store. -/
theorem Ctx.checkedStore_only (c : Ctx) (va n : Nat) (k : AccKind) (whole : Option (Nat × Nat))
    (val : Ctx → Loc → Nat) : Got.Leaves c.OnlyMemory (c.checkedStore va n k whole val) :=
  Got.leaves_bind _ _ (c.checked_only _ _ _ _) (fun _ c1 h1 =>
    Got.leaves_bind _ _ (c1.grows_keeps _ _ _ _ _ h1) (fun _ _ h2 => h2))

/-- The same of the fetch of a word. -/
theorem Ctx.fetch_only (c : Ctx) (pc : Word) : Got.Leaves c.OnlyMemory (c.fetch pc) :=
  Got.leaves_bind _ _ (c.checked_only _ _ _ _) (fun _ _ h => h)

/-- Memory right after reset is in its canonical form. -/
theorem State.reset_mem_wf : State.reset.mem.wf = true := rfl

/-- The bytes of a range, one read each. -/
theorem Memory.readBytes_eq_map (m : Memory) (tick : Nat) :
    ∀ (n a : Nat), m.readBytes tick a n = (fromTo a (a + n)).map (m.read tick)
  | 0, a => by simp [Memory.readBytes, fromTo]
  | n + 1, a => by
    have h : fromTo a (a + (n + 1)) = a :: fromTo (a + 1) (a + 1 + n) := by
      simp only [fromTo, Nat.add_sub_cancel_left, List.range_succ_eq_map, List.map_cons, List.map_map, Nat.add_zero]
      congr 2
      funext x
      simp only [Function.comp]
      omega
    rw [Memory.readBytes, h, List.map_cons, readBytes_eq_map m tick n (a + 1)]

/-- What the hall reads of a range without a poisoned sector is what memory holds there. -/
theorem State.outerRead_sound {s : State} {a n : Nat} (h : ∀ b, a ≤ b → b < a + n → s.poisoned b = false) :
    s.outerRead a n = s.mem.readBytes s.tick a n := by
  rw [Memory.readBytes_eq_map, State.outerRead]
  refine List.map_congr_left fun b hb => ?_
  simp only [fromTo, List.mem_map, List.mem_range] at hb
  obtain ⟨i, hi, rfl⟩ := hb
  simp [h (a + i) (by omega) (by omega)]

end Sys2Proof.Machine
end

