-- ==== Sys2Proof/Laws/Operands.lean ====
section
/-!
SUPPORT. Laws of register access: X0, and that a write of a place in a vector register, of a mask bit, keeps the
canonical form of the register's words.
-/
namespace Sys2Proof.Machine

/-- X0 reads as zero (R19). -/
@[simp] theorem Hart.getX_zero (h : Hart) : h.getX 0 = 0 := rfl

/-- Writing a place in a vector register keeps its canonical form. -/
theorem Hart.writeSpot_wf (h : Hart) (tick : Nat) (r r' : VReg) (p : Spot) (n b : Nat)
    (hw : h.v[r'].words.wf = true) : ((h.writeSpot tick r p n b).v[r']).words.wf = true := by
  by_cases hr : r = r'
  · subst hr
    simp only [Hart.writeSpot, Fin.getElem_fin, Vector.getElem_set_self]
    exact Table.set_wf _ _ _ hw
  · have hne : r.val ≠ r'.val := fun he => hr (Fin.ext he)
    simp only [Hart.writeSpot, Fin.getElem_fin, Vector.getElem_set_ne _ _ hne]
    exact hw

/-- The registers that a write of a place does not name keep everything. -/
theorem Hart.writeSpot_other (h : Hart) (tick : Nat) (r r' : VReg) (p : Spot) (n b : Nat) (hr : r' ≠ r) :
    (h.writeSpot tick r p n b).v[r'] = h.v[r'] := by
  have hne : r.val ≠ r'.val := fun he => hr (Fin.ext he.symm)
  simp only [Hart.writeSpot, Fin.getElem_fin, Vector.getElem_set_ne _ _ hne]

/-- Writing a mask bit keeps the canonical form of its words. -/
theorem Mask.setBit_wf (m : Mask) (e : Nat) (b : Bool) (hb : m.bits.wf = true) (hh : m.hidden.wf = true) :
    (m.setBit e b).bits.wf = true ∧ (m.setBit e b).hidden.wf = true :=
  ⟨Table.set_wf _ _ _ hb, Table.set_wf _ _ _ hh⟩

end Sys2Proof.Machine
end

