-- ==== Sys2Proof/Laws/Ops.lean ====
section
/-!
SUPPORT. Laws of the shared operations of instructions: everything that the common frame of an instruction, an
access, an element loop and an event can come to, said once.
-/
namespace Sys2Proof.Machine

/-! ### The frame of an instruction -/

/-- A word other than VFETCH after LSPLIT traps: NOMAT and NOOP of its own, or ILLEGAL 4 with LT clear (R228). -/
theorem afterSplit_cases (c : Ctx) (r : HRes) :
    (∃ c' t, r = .trap c' t ∧ (t.cause = causeNomat ∨ t.cause = causeNoop) ∧ afterSplit c r = .trap c' t) ∨
    afterSplit c r = .trap { c with h := { c.h with lt := false, split := false } } (.illegal 4) := by
  unfold afterSplit
  split
  · rename_i c' t
    cases h : (t.cause == causeNomat || t.cause == causeNoop)
    · exact .inr (by simp)
    · simp only [Bool.or_eq_true, beq_iff_eq] at h
      exact .inl ⟨c', t, rfl, h, by simp⟩
  · exact .inr rfl

/-- An instruction whose own effect is no refusal of a tag has that effect, whatever tags are undefined (R7). -/
theorem withTags_effect {i : Instr} {c : Ctx} {f : Ctx → HRes} (h : (f c).tagTrap = false) :
    withTags i c f = f c := by
  simp [withTags, h]

/-- So has one that names no register with an undefined tag, while V47's is defined too. -/
theorem withTags_defined {i : Instr} {c : Ctx} {f : Ctx → HRes} (h : c.h.looseTags i = []) :
    withTags i c f = f c := by
  simp [withTags, h]

/-- Every register that an instruction names, and V47, has a tag. -/
theorem Hart.looseTags_nil {h : Hart} {i : Instr}
    (hd : ∀ r : VReg, r = scaleReg ∨ r.val ∈ i.vregs → h.v[r].tag.isSome = true) : h.looseTags i = [] := by
  unfold Hart.looseTags
  rw [List.filter_eq_nil_iff]
  intro r _
  simp only [Bool.and_eq_true, Option.isNone_iff_eq_none, Bool.or_eq_true, beq_iff_eq, List.contains_iff_mem,
    not_and]
  intro hn hr
  have := hd r hr
  rw [hn] at this
  exact absurd this (by simp)

/-- What the checks common to every instruction come to: one of the three refusals of R98's order, or the
instruction's own effect. -/
theorem issue_cases (i : Instr) (c : Ctx) (f : Ctx → HRes) :
    (c.h.prefixAdmits i = false ∧
      issue i c f = .trap c { Trap.illegal 3 with atSelf := true }) ∨
    (c.h.prefixAdmits i = true ∧ i.usesVtype = true ∧ c.h.vill = true ∧
      issue i c f = .trap c (.illcfg 0)) ∨
    (c.h.prefixAdmits i = true ∧ (i.usesVtype && c.h.vill) = false ∧ c.h.split = true ∧ i.isVfetch = false ∧
      issue i c f = afterSplit c (f c)) ∨
    (c.h.prefixAdmits i = true ∧ (i.usesVtype && c.h.vill) = false ∧ (c.h.split && !i.isVfetch) = false ∧
      issue i c f = withTags i c f) := by
  unfold issue
  cases h1 : c.h.prefixAdmits i
  · exact .inl ⟨rfl, by simp⟩
  · cases h2 : (i.usesVtype && c.h.vill)
    · cases h3 : (c.h.split && !i.isVfetch)
      · exact .inr (.inr (.inr ⟨rfl, rfl, rfl, by simp⟩))
      · have h3' := h3
        simp only [Bool.and_eq_true, Bool.not_eq_true'] at h3'
        exact .inr (.inr (.inl ⟨rfl, rfl, h3'.1, h3'.2, by simp⟩))
    · have h2' := h2
      simp only [Bool.and_eq_true] at h2'
      exact .inr (.inl ⟨rfl, h2'.1, h2'.2, by simp⟩)

/-- The instruction's own effect, where the checks pass. -/
theorem issue_admitted {i : Instr} {c : Ctx} (f : Ctx → HRes) (hp : c.h.prefixAdmits i = true)
    (hv : i.usesVtype = true → c.h.vill = false) (hs : c.h.split = true → i.isVfetch = true) :
    issue i c f = withTags i c f := by
  unfold issue
  have h2 : (i.usesVtype && c.h.vill) = false := by
    cases h : i.usesVtype
    · rfl
    · simp [hv h]
  have h3 : (c.h.split && !i.isVfetch) = false := by
    cases h : c.h.split
    · rfl
    · simp [hs h]
  simp [hp, h2, h3]

/-- What an instruction of the hart whose turn it is comes to: a fault without such a hart, or the machine that
`settle` makes of it. An instruction of a hart is never refused. -/
theorem runHart_cases (i : Instr) (s : State) (f : Ctx → HRes) :
    (∃ h : Hart, s.harts[s.cur]? = some h ∧ h.canIssue = true ∧
      runHart i s f = .next (settle s.cur (issue i ⟨h, s⟩ f))) ∨
    ((∀ h : Hart, s.harts[s.cur]? = some h → h.canIssue = false) ∧ runHart i s f = .fault .noHart) := by
  unfold runHart
  cases hh : s.harts[s.cur]? with
  | none => exact .inr ⟨by simp, rfl⟩
  | some h =>
    cases hc : h.canIssue
    · exact .inr ⟨by rintro h' ⟨⟩; exact hc, by simp [hc]⟩
    · exact .inl ⟨h, rfl, hc, by simp [hc]⟩

/-- An instruction of a hart that may issue it has its own effect. -/
theorem runHart_issued {i : Instr} {s : State} {h : Hart} (f : Ctx → HRes) (ht : s.harts[s.cur]? = some h)
    (hr : h.status = .running) (hn : h.run = none) (hp : h.prefixAdmits i = true)
    (hv : i.usesVtype = true → h.vill = false) (hs : h.split = true → i.isVfetch = true) :
    runHart i s f = .next (settle s.cur (withTags i ⟨h, s⟩ f)) := by
  have hc : h.canIssue = true := by simp [Hart.canIssue, hr, hn]
  simp only [runHart, ht, hc, if_true]
  rw [issue_admitted f hp hv hs]

/-! ### After an instruction -/

/-- A trap, taken. -/
theorem settle_trap (k : Nat) (c : Ctx) (t : Trap) : settle k (.trap c t) = deliverTrap k c t := rfl

/-- With no stop waiting, an instruction that waits leaves the hart where it is: only PP reads 0 from now on. -/
theorem settle_hold (k : Nat) (c : Ctx) (hs : c.h.stopAt = none) :
    settle k (.hold c) = c.s.setHart k c.h.waiting := by
  have h : c.h.waiting.stopAt = none := by
    unfold Hart.waiting
    split <;> exact hs
  simp [settle, Ctx.boundary, h]

/-- With no window to look at, a trap is entered at once. -/
theorem deliverTrap_now {k : Nat} {c : Ctx} {t : Trap} (h : t.idx = none ∨ c.h.opens = false) :
    deliverTrap k c t = enterTrap k c t := by
  unfold deliverTrap
  split
  · rename_i idx hi
    rcases h with h | h
    · rw [h] at hi
      cases hi
    · simp [h]
  · rfl

/-- What is noted for a replay touches nothing else of the hart. -/
theorem Ctx.noteSpan_frame (c : Ctx) (h : Hart) (pc : Word) :
    c.noteSpan h pc = { h with spans := (c.noteSpan h pc).spans } := by
  unfold Ctx.noteSpan
  dsimp only
  split <;> rfl

/-- The hart that a trap leaves is the one with the registers of the trap, but for what is noted for a replay. -/
theorem Ctx.trapHart_frame (c : Ctx) (t : Trap) :
    c.trapHart t = { c.h.takeTrap t with spans := (c.trapHart t).spans } := c.noteSpan_frame _ _

/-- Everything that taking a trap comes to (R290, R291, R383): the hart at TVEC; the hart ended with status 1; the
SYSC that waits; the hart parked on its fault; the hart ended with status 2. -/
theorem enterTrap_cases (k : Nat) (c : Ctx) (t : Trap) :
    enterTrap k c t = c.s.setHart k { c.trapHart t with pc := (c.trapHart t).tvec } ∨
    enterTrap k c t = c.s.failHart k (c.trapHart t) ((c.trapHart t).failure 1) ∨
    enterTrap k c t = c.s.hardStop k (c.trapHart t) .inSysc (c.trapHart t).stopState (c.trapHart t).tpc ∨
    enterTrap k c t =
      (c.s.hardStop k { c.trapHart t with fault := some t.info } .parked 4 (c.trapHart t).tpc).addFault
        k .hart t.cause t.addr t.info ∨
    enterTrap k c t =
      (c.s.mapHall (fun a => { a with hstops := a.hstops + 1 })).failHart k (c.trapHart t)
        ((c.trapHart t).failure 2) := by
  unfold enterTrap
  dsimp only
  split
  · split
    · exact .inl rfl
    · exact .inr (.inl rfl)
  · split
    · exact .inr (.inr (.inl rfl))
    · split
      · exact .inr (.inr (.inr (.inl rfl)))
      · exact .inr (.inr (.inr (.inr rfl)))

/-! ### Accesses -/

/-- What an instruction over an access comes to. -/
theorem onMem_cases {α : Type} (c : Ctx) (r : Got (α × Ctx)) (f : α → Ctx → HRes) :
    (∃ a c', r = .ok (a, c') ∧ onMem c r f = f a c') ∨
    (∃ sent c', r = .error (.wait sent c') ∧ onMem c r f = .hold (c.sending sent)) ∨
    (∃ m c', r = .error (.fault m c') ∧ onMem c r f = .trap c' (m.trap 0 none)) := by
  match r with
  | .ok (a, c') => exact .inl ⟨a, c', rfl, rfl⟩
  | .error (.wait sent c') => exact .inr (.inl ⟨sent, c', rfl, rfl⟩)
  | .error (.fault m c') => exact .inr (.inr ⟨m, c', rfl, rfl⟩)

/-! ### Elements -/

/-- What a loop over elements comes to has p, where every element keeps p and traps with p. -/
def Elem.Leaves (p : Ctx → Prop) : Elem → Prop
  | .ok c => p c
  | .trap c _ => p c
  | .hold _ => True

/-- A loop over elements keeps what each of its elements keeps. -/
theorem runElems_keeps (p : Ctx → Prop) (act : Nat → Bool) (f : Nat → Ctx → Elem)
    (h : ∀ e c, p c → (f e c).Leaves p) : ∀ (es : List Nat) (c : Ctx), p c → (runElems act f es c).Leaves p
  | [], _, hc => hc
  | e :: es, c, hc => by
    unfold runElems
    split
    · have he := h e c hc
      split
      · rename_i c' hr
        rw [hr] at he
        exact runElems_keeps p act f h es c' he
      · exact he
    · exact runElems_keeps p act f h es c hc

/-- A loop over elements none of which is active changes nothing. -/
theorem runElems_inactive (act : Nat → Bool) (f : Nat → Ctx → Elem) :
    ∀ (es : List Nat) (c : Ctx), (∀ e ∈ es, act e = false) → runElems act f es c = .ok c
  | [], _, _ => rfl
  | e :: es, c, h => by
    have he : act e = false := h e List.mem_cons_self
    simp only [runElems, he]
    exact runElems_inactive act f es c (fun e' h' => h e' (List.mem_cons_of_mem _ h'))

/-- Loops over elements in sequence: the second goes on where the first left off. -/
theorem runElems_append (act : Nat → Bool) (f : Nat → Ctx → Elem) :
    ∀ (es es' : List Nat) (c c' : Ctx), runElems act f es c = .ok c' →
      runElems act f (es ++ es') c = runElems act f es' c'
  | [], _, _, _, h => by
    simp only [runElems, Elem.ok.injEq] at h
    rw [h, List.nil_append]
  | e :: es, es', c, c', h => by
    simp only [runElems, List.cons_append] at h ⊢
    split
    · rename_i ha
      rw [if_pos ha] at h
      split
      · rename_i c1 hc1
        rw [hc1] at h
        exact runElems_append act f es es' c1 c' h
      · rename_i hne
        split at h
        · rename_i c1 hc1
          exact absurd hc1 (by intro hc; exact hne c1 hc)
        · exact absurd h (hne c')
    · rename_i ha
      rw [if_neg ha] at h
      exact runElems_append act f es es' c c' h

/-- VL = 0: an element-wise instruction only sets VSTART := 0 (R294). -/
theorem Ctx.elementwise_empty (c : Ctx) (act : Nat → Bool) (fin : Hart → Hart) (f : Nat → Ctx → Elem)
    (h : c.h.vl = 0) : c.elementwise act fin f = .done { c with h := { c.h with vstart := 0 } } := by
  simp [Ctx.elementwise, Ctx.put, h]

/-- With no stop waiting, an element-wise instruction runs its elements from VSTART to VL − 1 (R138). -/
theorem Ctx.elementwise_running (c : Ctx) (act : Nat → Bool) (fin : Hart → Hart) (f : Nat → Ctx → Elem)
    (hv : c.h.vl ≠ 0) (hs : c.h.stopAt = none) :
    c.elementwise act fin f =
      match runElems act f (fromTo c.h.vstart c.h.vl) c with
      | .ok c' => .done { c' with h := { fin c'.h with vstart := 0 } }
      | .trap c' t => .trap c' t
      | .hold sent => .hold (c.sending sent) := by
  cases hr : runElems act f (fromTo c.h.vstart c.h.vl) c <;>
    simp only [Ctx.elementwise, hs, hv, hr, beq_iff_eq, if_false, Nat.lt_irrefl, decide_false, Bool.false_and,
      Bool.false_eq_true, Ctx.put, Ctx.holds]

/-- With no stop waiting, an instruction that runs whole runs. -/
theorem Ctx.whole_running (c : Ctx) (k : Ctx → HRes) (hs : c.h.stopAt = none) : c.whole k = k c := by
  simp [Ctx.whole, hs]

/-- What the checks of R98 on rounding and on tags come to. -/
theorem Ctx.guarded_cases (c : Ctx) (rounds : Bool) (faults : List (Option Nat)) (k : HRes) :
    (rounds = true ∧ c.h.rm = 5 ∧ c.guarded rounds faults k = .trap c (.illegal 7)) ∨
    (∃ d, firstFault faults = some d ∧ c.guarded rounds faults k = .trap c (.illcfg d)) ∨
    ((rounds = true → c.h.rm ≠ 5) ∧ firstFault faults = none ∧ c.guarded rounds faults k = k) := by
  unfold Ctx.guarded
  cases h : (rounds && c.h.rm == 5)
  · have hr : rounds = true → c.h.rm ≠ 5 := by
      rintro rfl
      simpa using h
    cases hf : firstFault faults with
    | none => exact .inr (.inr ⟨hr, rfl, by simp⟩)
    | some d => exact .inr (.inl ⟨d, rfl, by simp⟩)
  · simp only [Bool.and_eq_true, beq_iff_eq] at h
    exact .inl ⟨h.1, h.2, by simp⟩

/-! ### Events -/

/-- An event whose conditions are tested takes the machine where they hold, and passes where they do not. -/
theorem whenEnabled_cases (s : State) (ok : Bool) (t : State) :
    (ok = true ∧ whenEnabled s ok t = .next t) ∨ (ok = false ∧ whenEnabled s ok t = .next s) := by
  cases ok
  · exact .inr ⟨rfl, rfl⟩
  · exact .inl ⟨rfl, rfl⟩

end Sys2Proof.Machine
end

