-- ==== Sys2Proof/Laws/Replay.lean ====
section
/-!
SUPPORT. Laws of the run of a fetched instruction: the instruction's own effect, but for a span that has been changed
since the stop.
-/
namespace Sys2Proof.Machine

/-- An instruction outside a changed span has its own effect. -/
theorem runFetched_definite {k : Nat} {i : Instr} {s : State}
    (h : ∀ x : Hart, s.harts[k]? = some x → x.isLoose = false) : runFetched k i s = exec i s := by
  unfold runFetched
  split
  · rename_i x hx
    simp [h x hx]
  · rfl

/-- A hart that replays nothing, and stands in no span that a handler has left, has definite results. -/
theorem Hart.isLoose_false {h : Hart} (hr : h.replay = none) (hl : h.loose = none) : h.isLoose = false := by
  simp [Hart.isLoose, hr, hl]

/-- What is changed of a hart after a step touches nothing but that hart. -/
theorem afterHart_cases (k : Nat) (f : Hart → Hart) (r : Result) :
    (∃ (s : State) (h : Hart), r = .next s ∧ s.harts[k]? = some h ∧ afterHart k f r = .next (s.setHart k (f h))) ∨
    afterHart k f r = r := by
  unfold afterHart
  split
  · rename_i s
    cases hk : s.harts[k]? with
    | none => exact .inr rfl
    | some h => exact .inl ⟨s, h, rfl, hk, rfl⟩
  · exact .inr rfl

end Sys2Proof.Machine
end

