-- ==== Sys2Proof/Tests/Slice0.lean ====
section
/-!
SUPPORT. Tests: the refusals of well-formedness, one word for every constructor, single steps whose results are
worked out from the spec's rules, and for every statement a machine and operands that meet its hypotheses.
-/
namespace Sys2Proof.Tests

open Sys2Proof Sys2Proof.Machine Sys2Proof.Claims

set_option Elab.async false

/-! ## Well-formedness: an ill-formed term for each check (R40, R89 to R92, R409) -/

/-- The detail of each ill-formed instruction, and its well-formed neighbour. -/
theorem test_wf_system :
    (Instr.srd 1 0x21).breach = some 0 ∧ (Instr.srd 1 0x800).breach = some 4 ∧ (Instr.srd 1 0x20).wellFormed ∧
    (Instr.swr 0x7FF 1).breach = some 0 ∧ (Instr.swr 0xFFF 1).breach = some 4 ∧
    (Instr.fence .core 0).breach = some 0 ∧ (Instr.fence .core 1).wellFormed ∧
    (Instr.pfx 0 false none 1).breach = some 3 ∧ (Instr.pfx 0 false (some 2) 0).breach = some 3 ∧
    (Instr.pfx 0 false none 0).wellFormed := by decide

theorem test_wf_vector :
    (Instr.vcvt 1 2 0x13 false false).breach = some 0 ∧ (Instr.vcvt 1 2 0x1F false false).breach = some 0 ∧
    (Instr.vcvt 1 2 0x20 false false).wellFormed ∧
    (Instr.vwadd 3 1 2 false false false).breach = some 6 ∧ (Instr.vwsub 2 3 5 false false false).breach = some 6 ∧
    (Instr.vwmul 2 5 2 false false false).breach = some 6 ∧ (Instr.vwfma 2 4 1 false false false).wellFormed ∧
    (Instr.vscale 2 3 6 false false false).breach = some 6 ∧ (Instr.vilv 4 5 6 false false false).breach = some 6 ∧
    (Instr.vnarrow 4 4 false false).breach = some 6 ∧ (Instr.vnarrow 2 5 false false).breach = some 6 ∧
    (Instr.vdilv 2 2 false false).breach = some 6 ∧ (Instr.vdilv 3 4 false false).breach = some 6 ∧
    (Instr.vquant 2 4 2 false false).breach = some 6 ∧ (Instr.vquant 2 5 1 false false).breach = some 6 := by decide

theorem test_wf_overlap :
    (Instr.vreds 3 3 false false).breach = some 6 ∧ (Instr.vdots 3 1 3 false false false).breach = some 6 ∧
    (Instr.vcompress 3 3 false false).breach = some 6 ∧ (Instr.vexpand 3 3 false false).breach = some 6 ∧
    (Instr.vconf 3 3 false false).breach = some 6 ∧ (Instr.vrank 3 3 1 false false false).breach = some 6 ∧
    (Instr.vselb 3 1 3 false false false).breach = some 6 ∧ (Instr.vpush 3 3 1 false false false).breach = some 6 ∧
    (Instr.vpull 3 1 3 false false false).breach = some 6 ∧ (Instr.vsldn 3 3 1 false false).breach = some 6 ∧
    (Instr.vslup 3 3 1 false false).breach = some 6 ∧ (Instr.vacc 1 3 1 false).breach = some 6 := by decide

theorem test_wf_units :
    (Instr.pass 1 2 0 15 1 false .none).breach = some 0 ∧ (Instr.pass 1 2 0 0 1 true .none).breach = some 0 ∧
    (Instr.pass 1 2 0 15 0 false .none).wellFormed ∧ (Instr.pass 1 1 0 0 0 false .none).breach = some 6 ∧
    (Instr.passk 1 2 1 0).breach = some 6 ∧ (Instr.vmergek 1 1 2 false false).breach = some 6 ∧
    (Instr.mzro 1 .f64).breach = some 6 ∧ (Instr.mzro 2 .f64).wellFormed ∧
    (Instr.maget 1 1 0 0).breach = some 6 ∧ (Instr.mdrn 1 1 0).breach = some 6 := by decide

theorem test_wf_loops_transforms :
    (Instr.vwhileEq 1 (.vec 2) 0).breach = some 0 ∧ (Instr.vwhileNe 1 (.vec 2) 0).breach = some 0 ∧
    (Instr.vwhileLt 1 (.vec 2) 0).breach = some 0 ∧ (Instr.vwhileLe 1 (.vec 2) 0).breach = some 0 ∧
    (Instr.vwhileGt 1 (.vec 2) 0).breach = some 0 ∧ (Instr.vwhileGe 1 (.vec 2) 0).breach = some 0 ∧
    (Instr.vwhileUn 1 (.vec 2) 0).breach = some 0 ∧ (Instr.vwhileOr 1 (.vec 2) 0).breach = some 0 ∧
    (Instr.vwhileOr 1 (.vec 2) 1).wellFormed ∧
    (Instr.vxfdRle 3 3 1 false).breach = some 6 ∧ (Instr.vxfdPlane 3 3 0 false).breach = some 6 ∧ (Instr.vxfdPlane 3 4 1 false).breach = some 2 ∧
    (Instr.vxfdSect 3 3 1 false).breach = some 6 ∧ (Instr.vxfeRle 3 3 1 false).breach = some 6 ∧
    (Instr.vxfeDelta 3 3 1 false).breach = some 6 ∧ (Instr.vxfePlane 3 3 0 false).breach = some 6 ∧ (Instr.vxfePlane 3 4 1 false).breach = some 2 ∧
    (Instr.vxfeSect 3 3 1 false).breach = some 6 ∧ (Instr.vxfdDelta 3 3 1 false).wellFormed := by decide

/-! ## One word for every constructor -/

/-- Every word of a list decodes to the instruction beside it. -/
def reads (l : List (Nat × Instr)) : Bool := l.all (fun p => decide (decodeWord p.1 = .instr p.2))

/-- Words of system, laid out from the bit columns of spec/opcode_table.json (R79 to R92). -/
theorem test_words_system : reads [
    (0b000000_00000000000000000000000000, .nop),
    (0b000000_00000000000000000000000001, .halt),
    (0b000000_00000000000000000000000010, .yield),
    (0b000000_00000000000000000000000011, .sysc),
    (0b000000_00000000000000000000000100, .bkpt),
    (0b000000_00000000000000000000000101, .tret),
    (0b000000_01001_00000_000000010001_0110, .srd 9 0x11),
    (0b000000_00000_10010_000000011101_0111, .swr 0x1D 18),
    (0b000000_000000000000000_100_1001_1000, .fence .domain 9),
    (0b000000_000000000000000_100_00001001, .gbar .domain),
    (0b000001_0101_0_100110_101_000000000000, .pfx 5 false (some 38) 5)] = true := by decide

/-- Words of alu, laid out from the bit columns of spec/opcode_table.json (R79 to R92). -/
theorem test_words_alu : reads [
    (0b000010_01001_10010_11011_00000000000, .add 9 18 27),
    (0b000010_01001_10010_11011_00000000001, .sub 9 18 27),
    (0b000010_01001_10010_11011_00000000010, .and 9 18 27),
    (0b000010_01001_10010_11011_00000000011, .or 9 18 27),
    (0b000010_01001_10010_11011_00000000100, .xor 9 18 27),
    (0b000010_01001_10010_11011_00000000101, .sll 9 18 27),
    (0b000010_01001_10010_11011_00000000110, .srl 9 18 27),
    (0b000010_01001_10010_11011_00000000111, .sra 9 18 27),
    (0b000010_01001_10010_11011_00000001000, .slt 9 18 27),
    (0b000010_01001_10010_11011_00000001001, .sltu 9 18 27),
    (0b000010_01001_10010_11011_00000001010, .min 9 18 27),
    (0b000010_01001_10010_11011_00000001011, .max 9 18 27),
    (0b000010_01001_10010_11011_00000001100, .minu 9 18 27),
    (0b000010_01001_10010_11011_00000001101, .maxu 9 18 27),
    (0b000010_01001_10010_11011_00000010000, .mul 9 18 27),
    (0b000010_01001_10010_11011_00000010001, .mulh 9 18 27),
    (0b000010_01001_10010_11011_00000010010, .mulhu 9 18 27),
    (0b000010_01001_10010_11011_00000010100, .div 9 18 27),
    (0b000010_01001_10010_11011_00000010101, .divu 9 18 27),
    (0b000010_01001_10010_11011_00000010110, .rem 9 18 27),
    (0b000010_01001_10010_11011_00000010111, .remu 9 18 27),
    (0b000010_01001_10010_0000000000011000, .clz 9 18),
    (0b000010_01001_10010_0000000000011001, .ctz 9 18),
    (0b000010_01001_10010_0000000000011010, .cnt 9 18),
    (0b000010_01001_10010_11011_00101_011011, .sel 9 18 27 5),
    (0b000011_01001_10010_1100001110100110, .addi 9 18 0xC3A6),
    (0b000100_01001_10010_1100001110100110, .andi 9 18 0xC3A6),
    (0b000101_01001_10010_1100001110100110, .ori 9 18 0xC3A6),
    (0b000110_01001_10010_1100001110100110, .xori 9 18 0xC3A6),
    (0b000111_01001_10010_0000000000_101001, .slli 9 18 0x29),
    (0b000111_01001_10010_0100000000_101001, .srli 9 18 0x29),
    (0b000111_01001_10010_1000000000_101001, .srai 9 18 0x29),
    (0b001000_01001_10010_1100001110100110, .slti 9 18 0xC3A6),
    (0b001001_01001_10010_1100001110100110, .sltiu 9 18 0xC3A6),
    (0b001010_01001_00000_1100001110100110, .lui 9 0xC3A6),
    (0b001011_01001_00000_1100001110100110, .addpc 9 0xC3A6)] = true := by decide

/-- Words of float, laid out from the bit columns of spec/opcode_table.json (R79 to R92). -/
theorem test_words_float : reads [
    (0b001100_01001_10010_11011_00000_0_00000, .fadd 9 18 27 false),
    (0b001100_01001_10010_11011_00000_0_00001, .fsub 9 18 27 false),
    (0b001100_01001_10010_11011_00000_0_00010, .fmul 9 18 27 false),
    (0b001100_01001_10010_11011_00000_0_00011, .fdiv 9 18 27 false),
    (0b001100_01001_10010_0000000000_1_00100, .fsqrt 9 18 true),
    (0b001100_01001_10010_11011_00000_0_00101, .fmin 9 18 27 false),
    (0b001100_01001_10010_11011_00000_0_00110, .fmax 9 18 27 false),
    (0b001100_01001_10010_11011_00101_1_00111, .fma 9 18 27 5 true),
    (0b001100_01001_10010_11011_00101_1_01000, .fnma 9 18 27 5 true),
    (0b001100_01001_10010_11011_00000_0_01001, .feq 9 18 27 false),
    (0b001100_01001_10010_11011_00000_0_01010, .flt 9 18 27 false),
    (0b001100_01001_10010_11011_00000_0_01011, .fle 9 18 27 false),
    (0b001100_01001_10010_0000000000_1_01100, .fcvtDL 9 18 true),
    (0b001100_01001_10010_0000000000_1_01101, .fcvtLD 9 18 true),
    (0b001100_01001_10010_0000000000001110, .fcvtDS 9 18),
    (0b001100_01001_10010_0000000000001111, .fcvtSD 9 18),
    (0b001100_01001_10010_0000000000_1_10000, .fabs 9 18 true),
    (0b001100_01001_10010_0000000000_1_10001, .fneg 9 18 true),
    (0b001100_01001_10010_0000000000_1_10010, .fkind 9 18 true)] = true := by decide

/-- Words of memory, laid out from the bit columns of spec/opcode_table.json (R79 to R92). -/
theorem test_words_memory : reads [
    (0b001101_01001_10010_000_1101001011100, .lb 9 18 0x1A5C),
    (0b001101_01001_10010_001_1101001011100, .lbu 9 18 0x1A5C),
    (0b001101_01001_10010_010_1101001011100, .lh 9 18 0x1A5C),
    (0b001101_01001_10010_011_1101001011100, .lhu 9 18 0x1A5C),
    (0b001101_01001_10010_100_1101001011100, .lw 9 18 0x1A5C),
    (0b001101_01001_10010_101_1101001011100, .lwu 9 18 0x1A5C),
    (0b001101_01001_10010_110_1101001011100, .ld 9 18 0x1A5C),
    (0b001110_01001_10010_000_1101001011100, .stb 9 18 0x1A5C),
    (0b001110_01001_10010_001_1101001011100, .sth 9 18 0x1A5C),
    (0b001110_01001_10010_010_1101001011100, .stw 9 18 0x1A5C),
    (0b001110_01001_10010_011_1101001011100, .std 9 18 0x1A5C),
    (0b001111_01001_10010_0_100_0_00000000000, .lda 9 18 .domain false),
    (0b001111_01001_10010_1_100_0_00000000000, .stl 9 18 .domain false),
    (0b010000_01001_10010_000_1101001011100, .beq 9 18 0x1A5C),
    (0b010000_01001_10010_001_1101001011100, .bne 9 18 0x1A5C),
    (0b010000_01001_10010_010_1101001011100, .blt 9 18 0x1A5C),
    (0b010000_01001_10010_011_1101001011100, .bge 9 18 0x1A5C),
    (0b010000_01001_10010_100_1101001011100, .bltu 9 18 0x1A5C),
    (0b010000_01001_10010_101_1101001011100, .bgeu 9 18 0x1A5C),
    (0b010001_10110100001111000100111011, .jal 0x2D0F13B),
    (0b010010_01001_10010_1100001110100110, .jalr 9 18 0xC3A6),
    (0b010011_01001_10010_11011_100_10_000_0_00, .aadd 9 18 27 .domain .release false),
    (0b010011_01001_10010_11011_100_10_001_0_00, .aincb 9 18 27 .domain .release false),
    (0b010011_01001_10010_11011_100_10_010_0_00, .acas 9 18 27 .domain .release false),
    (0b010011_01001_10010_11011_100_10_011_0_00, .aswp 9 18 27 .domain .release false),
    (0b010011_01001_10010_11011_100_10_100_0_00, .amin 9 18 27 .domain .release false),
    (0b010011_01001_10010_11011_100_10_101_0_00, .amax 9 18 27 .domain .release false),
    (0b010011_01001_10010_11011_100_10_110_0_00, .aand 9 18 27 .domain .release false),
    (0b010011_01001_10010_11011_100_10_111_0_00, .aor 9 18 27 .domain .release false),
    (0b010100_01001_10010_11011_100_10_000000, .lmove 9 18 27 .domain .release)] = true := by decide

/-- Words of config, laid out from the bit columns of spec/opcode_table.json (R79 to R92). -/
theorem test_words_config : reads [
    (0b010101_01001_10010_0000000000000000, .setvl 9 18),
    (0b010101_01001_10010_11011_00000000001, .setvlx 9 18 27),
    (0b010101_01001_10010_11011_00000000010, .setshape 9 18 27),
    (0b010101_01001_10010_0000000000000011, .setvt 9 18),
    (0b010101_001010_101011_00000000000100, .vtag 10 0x2B),
    (0b010101_00000_01001_0000000000000101, .setsb 9),
    (0b010101_00000_01001_0000000000000110, .setpseq 9)] = true := by decide

/-- Words of vector arith, laid out from the bit columns of spec/opcode_table.json (R79 to R92). -/
theorem test_words_vector_arith : reads [
    (0b010110_001010_010110_100101_0_1_0_00000, .vadd 10 22 37 false true false),
    (0b010110_001010_010110_100101_0_1_0_00001, .vsub 10 22 37 false true false),
    (0b010110_001010_010110_100101_0_1_0_00010, .vmul 10 22 37 false true false),
    (0b010110_001010_010110_100101_0_1_0_00011, .vdiv 10 22 37 false true false),
    (0b010110_001010_010110_000000_1_0_000100, .vsqrt 10 22 true false),
    (0b010110_001010_010110_100101_0_1_0_00101, .vmin 10 22 37 false true false),
    (0b010110_001010_010110_100101_0_1_0_00110, .vmax 10 22 37 false true false),
    (0b010110_001010_010110_000000_1_0_000111, .vabs 10 22 true false),
    (0b010110_001010_010110_000000_1_0_001000, .vneg 10 22 true false),
    (0b010110_001010_010110_100101_0_1_0_01001, .vand 10 22 37 false true false),
    (0b010110_001010_010110_100101_0_1_0_01010, .vor 10 22 37 false true false),
    (0b010110_001010_010110_100101_0_1_0_01011, .vxor 10 22 37 false true false),
    (0b010110_001010_010110_000000_1_0_001100, .vnot 10 22 true false),
    (0b010110_001010_010110_100101_0_1_0_01101, .vsll 10 22 37 false true false),
    (0b010110_001010_010110_100101_0_1_0_01110, .vsrl 10 22 37 false true false),
    (0b010110_001010_010110_100101_0_1_0_01111, .vsra 10 22 37 false true false),
    (0b010110_001010_010110_100101_0_1_0_10000, .vmulh 10 22 37 false true false),
    (0b010110_001010_010110_100101_0_1_0_10001, .vrem 10 22 37 false true false),
    (0b010110_001010_010110_000000_1_0_010010, .vclz 10 22 true false),
    (0b010110_001010_010110_000000_1_0_010011, .vcnt 10 22 true false),
    (0b010110_001010_010110_000000_1_0_010100, .vrcpe 10 22 true false),
    (0b010110_001010_010110_000000_1_0_010101, .vrsqe 10 22 true false),
    (0b010110_001010_010110_000000_1_0_010110, .vmv 10 22 true false),
    (0b010110_001010_010110_100101_1_0_1_10111, .vmerge 10 22 37 false true),
    (0b010110_001010_010110_101011_0_1_011000, .vcvt 10 22 0x2B false true)] = true := by decide

/-- Words of vector fused, laid out from the bit columns of spec/opcode_table.json (R79 to R92). -/
theorem test_words_vector_fused : reads [
    (0b010111_001010_010110_100101_0_1_0_00000, .vfma 10 22 37 false true false),
    (0b010111_001010_010110_100101_0_1_0_00001, .vfms 10 22 37 false true false),
    (0b010111_001010_010110_100101_0_1_0_00010, .vfnma 10 22 37 false true false),
    (0b010111_001010_010110_100101_0_1_0_00011, .vwadd 10 22 37 false true false),
    (0b010111_001010_010110_100101_0_1_0_00100, .vwsub 10 22 37 false true false),
    (0b010111_001010_010110_100101_0_1_0_00101, .vwmul 10 22 37 false true false),
    (0b010111_001010_010110_100101_0_1_0_00110, .vwfma 10 22 37 false true false),
    (0b010111_001010_010110_000000_1_0_000111, .vnarrow 10 22 true false),
    (0b010111_001010_010110_100101_0_1_0_01000, .vilv 10 22 37 false true false),
    (0b010111_001010_010110_000000_1_0_001001, .vdilv 10 22 true false),
    (0b010111_001010_010110_100101_0_1_0_01010, .vscale 10 22 37 false true false),
    (0b010111_001010_010110_100101_0_1_001011, .vquant 10 22 37 false true),
    (0b011000_001010_010110_11011_0_0_1_000000, .vaddX 10 22 27 false true),
    (0b011000_001010_010110_11011_0_0_1_000001, .vsubX 10 22 27 false true),
    (0b011000_001010_010110_11011_0_0_1_000010, .vmulX 10 22 27 false true),
    (0b011000_001010_010110_11011_0_0_1_000011, .vminX 10 22 27 false true),
    (0b011000_001010_010110_11011_0_0_1_000100, .vmaxX 10 22 27 false true),
    (0b011000_001010_010110_11011_0_0_1_000101, .vandX 10 22 27 false true),
    (0b011000_001010_010110_11011_0_0_1_000110, .vorX 10 22 27 false true),
    (0b011000_001010_010110_11011_0_0_1_000111, .vxorX 10 22 27 false true),
    (0b011000_001010_010110_11011_0_0_1_001000, .vsllX 10 22 27 false true),
    (0b011000_001010_010110_11011_0_0_1_001001, .vsrlX 10 22 27 false true),
    (0b011000_001010_010110_11011_0_0_1_001010, .vsraX 10 22 27 false true),
    (0b011000_001010_010110_11011_0_0_1_001011, .vfmaX 10 22 27 false true),
    (0b011000_001010_000000_10010_0_1_0001100, .vbcst 10 18 true),
    (0b011000_001010_000000000000_0_0001101, .vidx 10 false)] = true := by decide

/-- Words of compare masks, laid out from the bit columns of spec/opcode_table.json (R79 to R92). -/
theorem test_words_compare_masks : reads [
    (0b011001_000101_010110_100101_0_1_0_00000, .vcmpEq 5 22 (.vec 37) false true),
    (0b011001_000101_010110_011011_0_1_1_00100, .vcmpNe 5 22 (.scalar 27) false true),
    (0b011001_000101_010110_100101_0_1_0_01000, .vcmpLt 5 22 (.vec 37) false true),
    (0b011001_000101_010110_011011_0_1_1_01100, .vcmpLe 5 22 (.scalar 27) false true),
    (0b011001_000101_010110_100101_0_1_0_10000, .vcmpGt 5 22 (.vec 37) false true),
    (0b011001_000101_010110_011011_0_1_1_10100, .vcmpGe 5 22 (.scalar 27) false true),
    (0b011001_000101_010110_100101_0_1_0_11000, .vcmpUn 5 22 (.vec 37) false true),
    (0b011001_000101_010110_011011_0_1_1_11100, .vcmpOr 5 22 (.scalar 27) false true),
    (0b011010_000101_001011_000110_0_0000000, .mand 5 11 6 false),
    (0b011010_000101_001011_000110_0_0000001, .mor 5 11 6 false),
    (0b011010_000101_001011_000110_0_0000010, .mxor 5 11 6 false),
    (0b011010_000101_001011_000110_0_0000011, .mandn 5 11 6 false),
    (0b011010_000101_001011_000000_1_0000100, .mnot 5 11 true),
    (0b011010_001001_001011_000000_1_0000101, .mcnt 9 11 true),
    (0b011010_001001_001011_000000_1_0000110, .mffs 9 11 true),
    (0b011010_001001_001011_011011_0_0000111, .mtox 9 11 27 false),
    (0b011010_000101_010010_011011_0_0001000, .mxtom 5 18 27 false),
    (0b011010_001010_001011_000000_1_0001001, .mpref 10 11 true),
    (0b011010_000101_001011_000000_1_0001010, .msbf 5 11 true)] = true := by decide

/-- Words of reduce, laid out from the bit columns of spec/opcode_table.json (R79 to R92). -/
theorem test_words_reduce : reads [
    (0b011011_001010_010110_000000_1_0_000000, .vreds 10 22 true false),
    (0b011011_001010_010110_100101_0_1_0_00001, .vdots 10 22 37 false true false),
    (0b011011_001001_010110_011011_0_0_000010, .vfold 9 22 27 false),
    (0b011011_001001_010110_011011_0_1_000011, .vredmax 9 22 27 false true),
    (0b011011_001001_010110_011011_0_1_000100, .vredmin 9 22 27 false true),
    (0b011011_001001_010110_011011_0_1_000101, .vredand 9 22 27 false true),
    (0b011011_001001_010110_011011_0_1_000110, .vredor 9 22 27 false true)] = true := by decide

/-- Words of vector memory, laid out from the bit columns of spec/opcode_table.json (R79 to R92). -/
theorem test_words_vector_memory : reads [
    (0b011100_001010_10010_000000000_1_00000, .vld 10 18 true),
    (0b011100_001010_10010_0010_11011_0_00000, .vlds 10 18 27 false),
    (0b011100_001010_10010_010_100001_0_1_0000, .vldx 10 18 33 false true),
    (0b011100_001010_10010_011000000_1_00000, .vldO 10 18 true),
    (0b011100_001010_10010_1000_11011_0_00000, .vldsO 10 18 27 false),
    (0b011100_001010_10010_101_100001_0_1_0000, .vldxO 10 18 33 false true),
    (0b011101_001101_10010_000000000_1_0_0000, .vst 13 18 true false),
    (0b011101_001101_10010_0010_11011_0_1_0000, .vsts 13 18 27 false true),
    (0b011101_001101_10010_010_100001_0_1_0000, .vstx 13 18 33 false true),
    (0b011101_001101_10010_011000000_1_0_0000, .vstO 13 18 true false),
    (0b011101_001101_10010_1000_11011_0_1_0000, .vstsO 13 18 27 false true),
    (0b011101_001101_10010_101_100001_0_1_0000, .vstxO 13 18 33 false true),
    (0b011110_001010_010110_11011_0_0_1_000000, .vldt 10 22 27 false true),
    (0b011110_001101_010110_11011_0_0_1_000001, .vstt 13 22 27 false true),
    (0b011111_001010_10010_000000000_1_00000, .vldsp 10 18 true),
    (0b011111_001010_10010_000000000_1_00001, .vldsh 10 18 true),
    (0b011111_000000_01001_000000000000010, .vpref 9)] = true := by decide

/-- Words of permute, laid out from the bit columns of spec/opcode_table.json (R79 to R92). -/
theorem test_words_permute : reads [
    (0b100000_001010_010110_000000_1_0_000000, .vcompress 10 22 true false),
    (0b100000_001010_010110_000000_1_0_000001, .vexpand 10 22 true false),
    (0b100000_001010_010110_000000_1_0_000010, .vconf 10 22 true false),
    (0b100000_001010_010110_100101_0_1_0_00011, .vrank 10 22 37 false true false),
    (0b100000_001010_010110_100101_0_1_0_00100, .vselb 10 22 37 false true false),
    (0b100000_001010_010110_100101_0_1_0_00101, .vpush 10 22 37 false true false),
    (0b100000_001010_010110_100101_0_1_0_00110, .vpull 10 22 37 false true false),
    (0b100000_001010_010110_0_11011_0_1_000111, .vsldn 10 22 27 false true),
    (0b100000_001010_010110_0_11011_0_1_001000, .vslup 10 22 27 false true),
    (0b100001_001010_000000_10010_0_1_0000000, .vrnd 10 18 true),
    (0b100001_001010_000000_10010_0_1_0000001, .vrndf 10 18 true),
    (0b100001_000101_010110_11011_00_0_000010, .vacc 5 22 27 false)] = true := by decide

/-- Words of shaft, laid out from the bit columns of spec/opcode_table.json (R79 to R92). -/
theorem test_words_shaft : reads [
    (0b100010_01001_10010_1101_000000000000, .opload 9 18 13),
    (0b100010_01001_00000_1101_000000000001, .opqry 9 13),
    (0b100010_0000000000_1101_000000000010, .opclr 13),
    (0b100011_001010_011101_1101_0100_101_0_10, .pass 10 29 13 4 5 false .all),
    (0b100100_001010_011101_101001_1101_0000, .passk 10 29 41 13),
    (0b100101_001010_011101_11011_0_0_1_000000, .vmergek 10 29 27 false true)] = true := by decide

/-- Words of matrix, laid out from the bit columns of spec/opcode_table.json (R79 to R92). -/
theorem test_words_matrix : reads [
    (0b100110_001001_011011_00_10010_0000000, .matt 9 18 27),
    (0b100110_00000000000000000000000001, .mdet),
    (0b100110_000000_000010_10_000000000010, .mzro 2 .f64),
    (0b100110_000000000000_10_10010_0000011, .masy 2 18),
    (0b100110_001010_000000_10_11011_0000100, .mrd 10 2 27),
    (0b100110_001101_000000_10_11011_0000101, .mwr 2 13 27),
    (0b100110_001010_011101_10_00101_0000110, .maget 10 29 2 5),
    (0b100110_001001_000000_10_11011_0000111, .mthr 9 2 27),
    (0b100111_10_0_1_0_0_010110_100101_00000000, .mopa 2 22 37 false true false),
    (0b101000_10_1_0_1_0_010110_100101_010011_00, .mops 2 22 37 19 true false true false),
    (0b101001_10_1_0_1_0_010110_011101_00101_000, .masv 2 22 29 5 true false true),
    (0b101001_10_0001000000000000_11011_01_0, .mdrn 2 1 27)] = true := by decide

/-- Words of lanes loops, laid out from the bit columns of spec/opcode_table.json (R79 to R92). -/
theorem test_words_lanes_loops : reads [
    (0b101010_00000000000000000000000000, .lsplit),
    (0b101010_00000_01001_10010_00000000001, .vfetch 9 18),
    (0b101010_00000_01001_10010_00000000010, .lfetch 9 18),
    (0b101010_00000000000000000000000011, .ljoin),
    (0b101010_01001_000000000000000000100, .lvpid 9),
    (0b101011_010110_100101_0_000_1011000111, .vwhileEq 22 (.vec 37) 0x2C7),
    (0b101011_010110_011011_1_001_1011000111, .vwhileNe 22 (.scalar 27) 0x2C7),
    (0b101011_010110_100101_0_010_1011000111, .vwhileLt 22 (.vec 37) 0x2C7),
    (0b101011_010110_011011_1_011_1011000111, .vwhileLe 22 (.scalar 27) 0x2C7),
    (0b101011_010110_100101_0_100_1011000111, .vwhileGt 22 (.vec 37) 0x2C7),
    (0b101011_010110_011011_1_101_1011000111, .vwhileGe 22 (.scalar 27) 0x2C7),
    (0b101011_010110_100101_0_110_1011000111, .vwhileUn 22 (.vec 37) 0x2C7),
    (0b101011_010110_011011_1_111_1011000111, .vwhileOr 22 (.scalar 27) 0x2C7)] = true := by decide

/-- Words of engines, laid out from the bit columns of spec/opcode_table.json (R79 to R92). -/
theorem test_words_engines : reads [
    (0b101100_01001_10010_11011_00101_000000, .cpy 9 18 27 5),
    (0b101100_0101_010110_0000000000000001, .cpyb 5 22),
    (0b101100_01001_10010_0000000000000010, .coll 9 18),
    (0b101100_00000_01001_0000000000000011, .ewait 9),
    (0b101100_01001_10010_0000000000000100, .etst 9 18),
    (0b101101_001010_010110_11011_00_0_000000, .vxfdRle 10 22 27 false),
    (0b101101_001010_010110_11011_00_0_000001, .vxfdDelta 10 22 27 false),
    (0b101101_001010_010110_00000_00_0_000010, .vxfdPlane 10 22 0 false),
    (0b101101_001010_010110_11011_00_0_000011, .vxfdSect 10 22 27 false),
    (0b101101_001010_010110_11011_00_0_000100, .vxfeRle 10 22 27 false),
    (0b101101_001010_010110_11011_00_0_000101, .vxfeDelta 10 22 27 false),
    (0b101101_001010_010110_00000_00_0_000110, .vxfePlane 10 22 0 false),
    (0b101101_001010_010110_11011_00_0_000111, .vxfeSect 10 22 27 false)] = true := by decide

/-- The words of R97: a PFX, a compare against ATHR, and three words that are no instruction. -/
theorem test_words_spec_examples :
    decodeWord 0x0564A000 = .instr (.pfx 5 true (some 9) 2) ∧
    decodeWord 0x64213E48 = .instr (.vcmpLt 2 4 .athr false true) ∧
    decodeWord 0x583042FF = .illegal 0 none ∧ decodeWord 0x5B3042E0 = .illegal 1 none := by decide

/-- A word comes from its bytes, the lowest address first (R3). -/
theorem test_bytes_little_endian :
    decodeBytes [0x00, 0x10, 0x61, 0x08, 0x55] = some (.instr (.add 3 1 2), [0x55]) := by decide

/-! ## Single steps, each result worked out from its rule -/

/-- A running hart, scratchpad of 32 KiB, scalar data memory of 4 KiB, at the placed program's first word. -/
def hart : Hart := { Hart.reset with
  status := .running
  gangn := 1
  scratchSize := 0x8000
  sdataSize := 0x1000
  pc := 0x1000000 }

/-- The machine of log entry 6 with this one hart. -/
def one (h : Hart) : State := { installHart State.reset with harts := [h] }

/-- The hart with X registers set. -/
def withX (h : Hart) (l : List (XReg × Word)) : Hart := l.foldl (fun (h : Hart) p => h.setX p.1 p.2) h

/-- The hart with the elements of a vector register set, under a tag. -/
def withV (h : Hart) (r : VReg) (tag : Nat) (l : List Nat) : Hart :=
  (withIndex 0 l).foldl (fun (h : Hart) p => h.setElem 0 (kindOf tag) r p.1 p.2) (h.setTag r tag)

/-- The hart after one instruction. -/
def after (i : Instr) (h : Hart) : Option Hart :=
  match exec i (one h) with
  | .next t => t.harts[0]?
  | _ => none

/-- An X register after one instruction. -/
def xAfter (i : Instr) (d : XReg) (l : List (XReg × Word)) : Option Word := (after i (withX hart l)).map (·.getX d)

/-- R125: sums wrap, shifts by 64 or more empty the word, MULH and MULHU are the high halves. -/
theorem test_int_register :
    xAfter (.add 3 1 2) 3 [(1, 0xFFFFFFFFFFFFFFFF), (2, 2)] = some 1 ∧
    xAfter (.sub 3 1 2) 3 [(1, 1), (2, 2)] = some 0xFFFFFFFFFFFFFFFF ∧
    xAfter (.sll 3 1 2) 3 [(1, 1), (2, 64)] = some 0 ∧
    xAfter (.sra 3 1 2) 3 [(1, 0x8000000000000000), (2, 64)] = some 0xFFFFFFFFFFFFFFFF ∧
    xAfter (.srl 3 1 2) 3 [(1, 0x8000000000000000), (2, 63)] = some 1 ∧
    xAfter (.slt 3 1 2) 3 [(1, 0xFFFFFFFFFFFFFFFF), (2, 0)] = some 1 ∧
    xAfter (.sltu 3 1 2) 3 [(1, 0xFFFFFFFFFFFFFFFF), (2, 0)] = some 0 ∧
    xAfter (.mulh 3 1 2) 3 [(1, 0xFFFFFFFFFFFFFFFF), (2, 0xFFFFFFFFFFFFFFFF)] = some 0 ∧
    xAfter (.mulhu 3 1 2) 3 [(1, 0xFFFFFFFFFFFFFFFF), (2, 0xFFFFFFFFFFFFFFFF)] =
      some 0xFFFFFFFFFFFFFFFE ∧
    xAfter (.min 3 1 2) 3 [(1, 0xFFFFFFFFFFFFFFFF), (2, 0)] = some 0xFFFFFFFFFFFFFFFF ∧
    xAfter (.minu 3 1 2) 3 [(1, 0xFFFFFFFFFFFFFFFF), (2, 0)] = some 0 := by decide

/-- R125: division rounds towards zero; by zero it gives all ones and the dividend; the one overflow wraps. -/
theorem test_int_division :
    xAfter (.div 3 1 2) 3 [(1, 0xFFFFFFFFFFFFFFF9), (2, 2)] = some 0xFFFFFFFFFFFFFFFD ∧
    xAfter (.rem 3 1 2) 3 [(1, 0xFFFFFFFFFFFFFFF9), (2, 2)] = some 0xFFFFFFFFFFFFFFFF ∧
    xAfter (.div 3 1 2) 3 [(1, 0x8000000000000000), (2, 0xFFFFFFFFFFFFFFFF)] = some 0x8000000000000000 ∧
    xAfter (.rem 3 1 2) 3 [(1, 0x8000000000000000), (2, 0xFFFFFFFFFFFFFFFF)] = some 0 ∧
    xAfter (.div 3 1 2) 3 [(1, 5)] = some 0xFFFFFFFFFFFFFFFF ∧ xAfter (.rem 3 1 2) 3 [(1, 5)] = some 5 ∧
    xAfter (.divu 3 1 2) 3 [(1, 7), (2, 2)] = some 3 ∧ xAfter (.remu 3 1 2) 3 [(1, 7)] = some 7 := by decide

/-- R126, R127: counts, select, and the immediates: ADDI and SLTIU extend the sign, ANDI and ORI zeros. -/
theorem test_int_immediate :
    xAfter (.clz 3 1) 3 [] = some 64 ∧ xAfter (.ctz 3 1) 3 [] = some 64 ∧ xAfter (.clz 3 1) 3 [(1, 1)] = some 63 ∧
    xAfter (.ctz 3 1) 3 [(1, 8)] = some 3 ∧ xAfter (.cnt 3 1) 3 [(1, 0xFF00000000000001)] = some 9 ∧
    xAfter (.sel 3 1 2 4) 3 [(1, 10), (2, 20), (4, 1)] = some 10 ∧
    xAfter (.sel 3 1 2 4) 3 [(1, 10), (2, 20)] = some 20 ∧
    xAfter (.addi 3 1 0xFFFF) 3 [(1, 5)] = some 4 ∧
    xAfter (.andi 3 1 0xFFFF) 3 [(1, 0xFFFFFFFFFFFFFFFF)] = some 0xFFFF ∧
    xAfter (.ori 3 1 0x8000) 3 [] = some 0x8000 ∧
    xAfter (.sltiu 3 1 0xFFFF) 3 [(1, 5)] = some 1 ∧ xAfter (.slti 3 1 0xFFFF) 3 [(1, 5)] = some 0 ∧
    xAfter (.lui 3 0x8001) 3 [] = some 0xFFFFFFFF80010000 ∧
    xAfter (.addpc 3 0xFFFC) 3 [] = some 0xFFFFFC ∧ xAfter (.addi 0 1 1) 0 [(1, 5)] = some 0 := by decide

/-- R128: 1 + 1, 1 ÷ 0, √4, a fused 1 × 2 + 3, −1 to an integer and back, and F32. -/
theorem test_float :
    xAfter (.fadd 3 1 1 false) 3 [(1, 0x3FF0000000000000)] = some 0x4000000000000000 ∧
    xAfter (.fdiv 3 1 2 false) 3 [(1, 0x3FF0000000000000)] = some 0x7FF0000000000000 ∧
    xAfter (.fsqrt 3 1 false) 3 [(1, 0x4010000000000000)] = some 0x4000000000000000 ∧
    xAfter (.fma 3 1 2 4 false) 3
      [(1, 0x3FF0000000000000), (2, 0x4000000000000000), (4, 0x4008000000000000)] = some 0x4014000000000000 ∧
    xAfter (.fcvtLD 3 1 false) 3 [(1, 0xBFF0000000000000)] = some 0xFFFFFFFFFFFFFFFF ∧
    xAfter (.fcvtDL 3 1 false) 3 [(1, 0xFFFFFFFFFFFFFFFF)] = some 0xBFF0000000000000 ∧
    xAfter (.fcvtSD 3 1) 3 [(1, 0x3FF0000000000000)] = some 0x3F800000 ∧
    xAfter (.fmul 3 1 1 true) 3 [(1, 0x40000000)] = some 0x40800000 ∧
    xAfter (.flt 3 1 2 false) 3 [(2, 0x3FF0000000000000)] = some 1 := by decide +kernel

/-- R130, R36: a store to the scratchpad and the loads that read it back, with sign and with zeros. -/
def stored : Hart := (after (.std 2 1 8) (withX hart [(1, 0x100), (2, 0x8877665544332211)])).getD hart

theorem test_scratchpad :
    ((after (.ld 3 1 8) stored).map (·.getX 3) = some 0x8877665544332211) ∧
    ((after (.lb 3 1 15) stored).map (·.getX 3) = some 0xFFFFFFFFFFFFFF88) ∧
    ((after (.lbu 3 1 15) stored).map (·.getX 3) = some 0x88) ∧
    ((after (.lh 3 1 8) stored).map (·.getX 3) = some 0x2211) ∧
    ((after (.lw 3 1 12) stored).map (·.getX 3) = some 0xFFFFFFFF88776655) ∧
    ((after (.lwu 3 1 12) stored).map (·.getX 3) = some 0x88776655) := by decide

/-- R115, R288, R290: a misaligned load goes to TVEC with cause 3 and its address in TADDR. -/
def trapping : Hart := { withX hart [(1, 0x101)] with tvec := 0x2000 }

theorem test_misaligned :
    ((after (.ld 3 1 0) trapping).map (fun h => (h.pc, h.tpc, h.tcause, h.taddr, h.getX 3)) =
      some (0x2000, 0x1000000, 3, 0x101, 0)) ∧
    ((after .bkpt trapping).map (fun h => (h.pc, h.tcause)) = some (0x2000, 0x0D)) ∧
    ((after .tret { trapping with tpc := 0x1000040 }).map (·.pc) = some 0x1000040) := by decide

/-- R132, R133: a branch counts words from itself; JAL links X1; JALR adds 4 × imm. -/
theorem test_control :
    ((after (.beq 1 2 0x1FFF) hart).map (·.pc) = some 0xFFFFFC) ∧
    ((after (.bne 1 2 0x1FFF) hart).map (·.pc) = some 0x1000004) ∧
    ((after (.jal 2) hart).map (fun h => (h.pc, h.getX 1)) = some (0x1000008, 0x1000004)) ∧
    ((after (.jalr 1 1 0xFFFF) (withX hart [(1, 0x1000100)])).map (fun h => (h.pc, h.getX 1)) =
      some (0x10000FC, 0x1000004)) := by decide

/-- R134: atomics on scratchpad words give the old value. -/
theorem test_atomics :
    ((after (.aadd 3 1 2 .hart .relaxed true) (withX stored [(1, 0x108), (2, 1)])).map (fun h =>
      (h.getX 3, h.scratch.readLe 0 0x108 8)) = some (0x8877665544332211, 0x8877665544332212)) ∧
    ((after (.amin 3 1 2 .hart .relaxed false) (withX stored [(1, 0x10C), (2, 1)])).map (fun h =>
      (h.getX 3, h.scratch.readLe 0 0x10C 4)) = some (0x88776655, 0x88776655)) ∧
    ((after (.acas 2 1 3 .hart .relaxed false) (withX stored [(1, 0x108), (2, 0x44332211), (3, 7)])).map (fun h =>
      (h.getX 2, h.scratch.readLe 0 0x108 8)) = some (0x44332211, 0x8877665500000007)) := by decide

/-- R21, R31: at EW = 64 bits one cluster holds W = 32; 40 are granted as one row of 32, 64 as two rows, 20 as 20. -/
theorem test_setvl :
    ((after (.setvl 3 1) (withX hart [(1, 40)])).map (fun h => (h.getX 3, h.vrows, h.vcols)) = some (32, 1, 32)) ∧
    ((after (.setvl 3 1) (withX hart [(1, 64)])).map (fun h => (h.getX 3, h.vrows, h.vcols)) = some (64, 2, 32)) ∧
    ((after (.setvl 3 1) (withX hart [(1, 20)])).map (fun h => (h.getX 3, h.vrows, h.vcols)) = some (20, 1, 20)) := by
  decide

/-- Four columns at 64 bits, V1 = 1, −2, 3, 4 and V2 = 10, 20, 30, 40 as I64 (tag 4). -/
def vectors : Hart :=
  withV (withV ({ hart with vcols := 4 }.setTag 3 4) 1 4 [1, 0xFFFFFFFFFFFFFFFE, 3, 4]) 2 4 [10, 20, 30, 40]

/-- The elements of a register after one instruction. -/
def vAfter (i : Instr) (h : Hart) (r : VReg) (n : Nat) : Option (List Nat) :=
  (after i h).map (fun h' => (List.range n).map (h'.elem 0 (h'.kind 0 r) r))

/-- R147 to R149, R163: element arithmetic on I64. -/
theorem test_vector_arith :
    vAfter (.vadd 3 1 2 false false false) vectors 3 4 = some [11, 18, 33, 44] ∧
    vAfter (.vmul 3 1 2 false false false) vectors 3 4 = some [10, 2 ^ 64 - 40, 90, 160] ∧
    vAfter (.vabs 3 1 false false) vectors 3 4 = some [1, 2, 3, 4] ∧
    vAfter (.vminX 3 1 5 false false) (withX vectors [(5, 2)]) 3 4 = some [1, 2 ^ 64 - 2, 2, 2] := by decide

/-- R34, R138: with m set an inactive element is unchanged, and VSTART ends at 0. -/
theorem test_vector_predicate :
    vAfter (.vadd 3 1 2 true false false) (vectors.setMask 0 2 true) 3 4 = some [0, 0, 33, 0] ∧
    (after (.vadd 3 1 2 false false false) { vectors with vstart := 2 }).map (fun h =>
      (h.vstart, h.elem 0 (h.kind 0 3) 3 1, h.elem 0 (h.kind 0 3) 3 2)) = some (0, 0, 33) := by decide

/-- R165, R167: −2 is below 0; one mask bit is counted and found at 1. -/
def compared : Hart := (after (.vcmpLt 1 1 (.scalar 0) false false) vectors).getD hart

theorem test_compare :
    ((List.range 4).map (compared.mask 0 1) = [false, true, false, false]) ∧
    ((after (.mcnt 3 1 false) compared).map (·.getX 3) = some 1) ∧
    ((after (.mffs 3 1 false) compared).map (·.getX 3) = some 1) := by decide

/-- R185, R172: a slide down by one, and the largest element with the seed. -/
theorem test_permute_reduce :
    vAfter (.vsldn 3 1 5 false false) (withX vectors [(5, 1)]) 3 3 = some [2 ^ 64 - 2, 3, 4] ∧
    ((after (.vredmax 5 2 6 false false) (withX vectors [(6, 7)])).map (·.getX 5) = some 40) := by decide

/-- R191 to R195: a descriptor of an unassigned kind is refused with status 1; a slot is read back and emptied. -/
theorem test_operator :
    ((after (.opload 3 1 0) (withX hart [(1, 5)])).map (·.getX 3) = some 1) ∧
    ((after (.opqry 3 0) { hart with op := hart.op.set 0 (some 0x1234) }).map (·.getX 3) = some 0x1234) ∧
    ((after (.opclr 0) { hart with op := hart.op.set 0 (some 0x1234) }).map (·.op[(0 : Slot)]) = some none) := by
  decide

/-- R210 to R213: an attached hart zeroes rows and reads a cell back as 0. -/
theorem test_matrix :
    ((after .mdet { hart with ma := true, mgrant := 16 }).map (fun h => (h.ma, h.mgrant)) = some (false, 0)) ∧
    ((after (.mzro 2 .i32) { hart with ma := true, mgrant := 16 }).map (fun h => h.cell 0 2 3 4) = some 0) := by
  decide

/-- A tag of a transfer that is not performed yet. -/
def busyWith (tr : Transfer) : TagState := .busy ⟨tr, 0, false, none, []⟩

/-- R238, R241: a free tag tests as 0, a busy one as 1, a failed one with its cause. -/
theorem test_tags :
    ((after (.etst 3 1) (withX hart [(1, 15)])).map (·.getX 3) = some 0) ∧
    ((after (.etst 3 1) { hart with tags := hart.tags.set 0 (busyWith (.copy 0 0 1 true)) }).map (·.getX 3) = some 1) ∧
    ((after (.etst 3 1) { hart with tags := hart.tags.set 0 (.failed 4 1 0) }).map (·.getX 3) = some 0x104) := by
  decide

/-- The probe: the word placed where the machine fetches is the one that step runs (ADDI X5, X0, 7). -/
theorem test_step :
    (match step (State.reset.withFetchWord 32 0b000011_00101_00000_0000000000000111) with
      | .next t => (t.harts[0]?).map (fun h => (h.getX 5, h.pc))
      | _ => none) = some (7, 0x1000004) := by decide

/-- Two rows of 32 columns; V1 holds 1, 2, 3, 4 as I64. -/
def tagged1 : Hart := withV { hart with vrows := 2, vcols := 32 } 1 4 [1, 2, 3, 4]

/-! ## Machines and operands that meet the hypotheses of the statements -/

/-- The checks of `Issues` as one truth value. -/
def issuable (i : Instr) (h : Hart) : Bool :=
  h.status == .running && h.run.isNone && h.prefixAdmits i && (!i.usesVtype || !h.vill) && (!h.split || i.isVfetch)

theorem issues_in {i : Instr} {s : State} {h : Hart} (ht : s.harts[s.cur]? = some h) (hi : issuable i h = true) :
    Issues i s h := by
  simp only [issuable, Bool.and_eq_true, beq_iff_eq, Bool.or_eq_true, Bool.not_eq_true', Option.isNone_iff_eq_none] at hi
  obtain ⟨⟨⟨⟨h1, h2⟩, h3⟩, h4⟩, h5⟩ := hi
  refine ⟨ht, h1, h2, h3, fun hv => ?_, fun hs => ?_⟩
  · rcases h4 with h4 | h4
    · rw [hv] at h4; cases h4
    · exact h4
  · rcases h5 with h5 | h5
    · rw [hs] at h5; cases h5
    · exact h5

theorem issues_one {i : Instr} {h : Hart} (hi : issuable i h = true) : Issues i (one h) h := issues_in rfl hi

/-- R78: outside a replay; at the last distance of one and before it; with a stop that waits. -/
theorem witness_CompletedInstruction :
    (hart.stopAt = none ∧ hart.replay = none) ∧
    (({ hart with replay := some ⟨0x1000000, 2, 1⟩ } : Hart).replay = some ⟨0x1000000, 2, 1⟩) ∧
    (({ hart with replay := some ⟨0x1000000, 2, 0⟩ } : Hart).replay = some ⟨0x1000000, 2, 0⟩) ∧
    (({ hart with stopAt := some 0 } : Hart).stopAt.isSome = true ∧ hart.lt = false) := by decide

theorem witness_IntegerResults :
    (Issues (.add 3 1 2) (one hart) hart ∧ intResult hart (.add 3 1 2) = some (3, 0)) ∧
    (Issues (.addi 0 1 1) (one hart) hart ∧ intResult hart (.addi 0 1 1) = some (0, 1)) ∧
    ((3 : XReg) ≠ 0 ∧ (1 : XReg) ≠ 3) :=
  ⟨⟨issues_one (by decide), by decide⟩, ⟨issues_one (by decide), by decide⟩, by decide⟩

/-- 1 ÷ 0 raises DZ, first with no flag enabled, then with all of them. -/
theorem witness_FloatResults :
    let h := withX hart [(1, 0x3FF0000000000000)]
    let h' : Hart := { h with fpcsr := 0x3E0 }
    (Issues (.fdiv 3 1 2 false) (one h) h ∧
      fpResult h (.fdiv 3 1 2 false) = some (3, (0x7FF0000000000000, flagDZ)) ∧ h.enabledFlag flagDZ = none) ∧
    (Issues (.fdiv 3 1 2 false) (one h') h' ∧
      fpResult h' (.fdiv 3 1 2 false) = some (3, (0x7FF0000000000000, flagDZ)) ∧
      (h'.enabledFlag flagDZ).isSome = true) :=
  ⟨⟨issues_one (by decide), by decide +kernel, by decide⟩, issues_one (by decide), by decide +kernel, by decide⟩

theorem noTransfers_of {h : Hart} (hh : (List.finRange 16).all (fun t => !(h.tags[t]).isBusy) = true) :
    NoTransfers h := by
  intro t
  have := List.all_eq_true.1 hh t (List.mem_finRange t)
  simpa using this

/-- An access comes to a place in generic memory; to a fault; to a wait. -/
def isPhys (r : Got (Loc × Ctx)) : Bool := match r with | .ok (.phys _, _) => true | _ => false
/-- An access, or a series of them, comes to a fault. -/
def isFault {α : Type} (r : Got α) : Bool := match r with | .error (.fault _ _) => true | _ => false
/-- An access, or a series of them, has to wait. -/
def isWait {α : Type} (r : Got α) : Bool := match r with | .error (.wait _ _) => true | _ => false
/-- An access, or a series of them, is carried out. -/
def isDone {α : Type} (r : Got α) : Bool := match r with | .ok _ => true | _ => false

theorem exists_phys {r : Got (Loc × Ctx)} (h : isPhys r = true) : ∃ pa c, r = .ok (.phys pa, c) := by
  unfold isPhys at h
  split at h
  · exact ⟨_, _, rfl⟩
  · cases h

theorem exists_fault {α : Type} {r : Got α} (h : isFault r = true) : ∃ m c, r = .error (.fault m c) := by
  unfold isFault at h
  split at h
  · exact ⟨_, _, rfl⟩
  · cases h

theorem is_wait {α : Type} {r : Got α} (h : isWait r = true) : ∃ sent c, r = .error (.wait sent c) := by
  unfold isWait at h
  split at h
  · exact ⟨_, _, rfl⟩
  · cases h

theorem exists_done {α : Type} {r : Got (α × Ctx)} (h : isDone r = true) : ∃ a c, r = .ok (a, c) := by
  unfold isDone at h
  split at h
  · exact ⟨_, _, rfl⟩
  · cases h

/-- A word of the scratchpad, the last one; and one of generic memory, at the program's own page. -/
theorem witness_ScalarLoads :
    let h := withX hart [(1, 0x7FF8), (2, 0x1000010)]
    (∃ f, Issues (.ld 3 1 0) (one h) h ∧ loadForm h (.ld 3 1 0) = some (3, 0x7FF8, 8, f) ∧ NoTransfers h ∧
      Ctx.checked ⟨h, one h⟩ 0x7FF8 8 .load none = .ok (.scratch 0x7FF8, ⟨h, one h⟩)) ∧
    (∃ f, Issues (.lw 3 2 0) (one h) h ∧ loadForm h (.lw 3 2 0) = some (3, 0x1000010, 4, f) ∧ NoTransfers h ∧
      ∃ pa c, Ctx.checked ⟨h, one h⟩ 0x1000010 4 .load none = .ok (.phys pa, c)) :=
  ⟨⟨_, issues_one (by decide), rfl, noTransfers_of (by decide), rfl⟩,
   ⟨_, issues_one (by decide), rfl, noTransfers_of (by decide), exists_phys (by decide +kernel)⟩⟩

/-- A machine whose second GiB begins with a compressed page at frame 0x2000000, its first sector zeros. -/
def withPacked (h : Hart) : State :=
  { one h with
    mem := [(0x22008, 8, 0x23001), (0x23000, 8, 0x24001), (0x24000, 8, 0x200005F), (0x2000000, 1, 0)].foldl
      (fun m (p : Nat × Nat × Nat) => m.writeLe p.1 p.2.1 p.2.2) (one h).mem }

/-- An access comes to a place in a compressed page. -/
def isPacked (r : Got (Loc × Ctx)) (frame off : Nat) : Bool :=
  match r with | .ok (.packed f o, _) => f == frame && o == off | _ => false

theorem exists_packed {r : Got (Loc × Ctx)} {f o : Nat} (h : isPacked r f o = true) :
    ∃ c, r = .ok (.packed f o, c) := by
  unfold isPacked at h
  split at h
  · simp only [Bool.and_eq_true, beq_iff_eq] at h
    obtain ⟨rfl, rfl⟩ := h
    exact ⟨_, rfl⟩
  · cases h

/-- The scratchpad's last word, the scalar data memory's, a byte of generic memory, a sector's last word. -/
theorem witness_ScalarStores :
    let h := withX hart [(1, 0x7FF8), (2, 0x1000010), (4, 0x800FF8), (5, 0xAB), (6, 0x40000018)]
    (one h).mem.wf = true ∧ h.scratch.wf = true ∧ h.sdata.wf = true ∧ NoTransfers h ∧ (withPacked h).mem.wf = true ∧
    (Issues (.std 5 1 0) (one h) h ∧ storeForm h (.std 5 1 0) = some (0xAB, 0x7FF8, 8) ∧
      Ctx.checkedStore ⟨h, one h⟩ 0x7FF8 8 .store none (fun _ _ => 0xAB) = .ok (.scratch 0x7FF8, ⟨h, one h⟩)) ∧
    (Issues (.std 5 4 0) (one h) h ∧ storeForm h (.std 5 4 0) = some (0xAB, 0x800FF8, 8) ∧
      Ctx.checkedStore ⟨h, one h⟩ 0x800FF8 8 .store none (fun _ _ => 0xAB) = .ok (.sdata 0xFF8, ⟨h, one h⟩)) ∧
    (Issues (.stb 5 2 0) (one h) h ∧ storeForm h (.stb 5 2 0) = some (0xAB, 0x1000010, 1) ∧
      ∃ pa c, Ctx.checkedStore ⟨h, one h⟩ 0x1000010 1 .store none (fun _ _ => 0xAB) = .ok (.phys pa, c)) ∧
    (Issues (.std 5 6 0) (withPacked h) h ∧ storeForm h (.std 5 6 0) = some (0xAB, 0x40000018, 8) ∧
      (∃ c, Ctx.checkedStore ⟨h, withPacked h⟩ 0x40000018 8 .store none (fun _ _ => 0xAB) = .ok (.packed 0x2000000 0x18, c)) ∧
      0x18 % 32 + 8 ≤ 32 ∧ (0x17 / 32 = 0x18 / 32 ∧ 0x17 < 0x18)) :=
  ⟨by decide, by decide, by decide, noTransfers_of (by decide), by decide +kernel,
   ⟨issues_one (by decide), by decide, rfl⟩, ⟨issues_one (by decide), by decide, rfl⟩,
   ⟨issues_one (by decide), by decide, exists_phys (by decide +kernel)⟩,
   issues_in rfl (by decide), by decide, exists_packed (by decide +kernel), by decide, by decide⟩

/-- A machine whose second GiB is host memory, with the link down. -/
def withHost (h : Hart) : State :=
  { one h with mem := (one h).mem.writeLe 0x22008 8 (2 ^ 51 + 0x1F) }

/-- A misaligned address; one past the scratchpad, of a store and of a hart whose `noAck` has been set; one in host
memory while the link is down, for a load and an atomic. -/
theorem witness_ScalarAccessFaults :
    let h := withX hart [(1, 0x7FF9), (2, 0x8000), (4, 0x40000000)]
    let n : Hart := { h with noAck := true }
    NoTransfers h ∧ (one h).dmPaging h = false ∧ h.noAck = false ∧
    (∃ f, Issues (.ld 3 1 0) (one h) h ∧ loadForm h (.ld 3 1 0) = some (3, 0x7FF9, 8, f) ∧ 0x7FF9 % 8 ≠ 0) ∧
    (Issues (.stb 3 2 0) (one h) h ∧ storeForm h (.stb 3 2 0) = some (0, 0x8000, 1) ∧
      ∃ m c, accessCheck (one h) h (.stb 3 2 0) 0x8000 1 = .error (.fault m c)) ∧
    (NoTransfers n ∧ Issues (.stb 3 2 0) (one n) n ∧ storeForm n (.stb 3 2 0) = some (0, 0x8000, 1) ∧
      ∃ m c, accessCheck (one n) n (.stb 3 2 0) 0x8000 1 = .error (.fault m c)) ∧
    (∃ f, Issues (.ld 3 4 0) (withHost h) h ∧ loadForm h (.ld 3 4 0) = some (3, 0x40000000, 8, f) ∧
      ∃ sent c, accessCheck (withHost h) h (.ld 3 4 0) 0x40000000 8 = .error (.wait sent c)) ∧
    (∃ x, Issues (.aadd 3 4 2 .device .acqRel true) (withHost h) h ∧
      atomicForm h (.aadd 3 4 2 .device .acqRel true) = some x ∧ x.addr = 0x40000000 ∧ x.bytes = 8 ∧
      ∃ sent c, accessCheck (withHost h) h (.aadd 3 4 2 .device .acqRel true) 0x40000000 8 = .error (.wait sent c)) :=
  ⟨noTransfers_of (by decide), by decide, by decide, ⟨_, issues_one (by decide), rfl, by decide⟩,
   ⟨issues_one (by decide), by decide, exists_fault (by decide +kernel)⟩,
   ⟨noTransfers_of (by decide), issues_one (by decide), by decide, exists_fault (by decide +kernel)⟩,
   ⟨_, issues_in rfl (by decide), rfl, is_wait (by decide +kernel)⟩,
   _, issues_in rfl (by decide), rfl, rfl, rfl, is_wait (by decide +kernel)⟩

/-- A fetch and a store that pass, one whose entry is invalid, and one in host memory while the link is down. -/
theorem witness_TranslationKeepsMemory :
    (one hart).dmPaging hart = false ∧
    (∃ pa c, Ctx.checked ⟨hart, one hart⟩ 0x1000000 4 .fetch none = .ok (.phys pa, c)) ∧
    (∃ pa c, Ctx.checkedStore ⟨hart, one hart⟩ 0x1000000 4 .store none (fun _ _ => 7) = .ok (.phys pa, c)) ∧
    (∃ sent c, Ctx.checked ⟨hart, withHost hart⟩ 0x40000000 4 .load none = .error (.wait sent c)) ∧
    ∃ m c, Ctx.checked ⟨hart, { one hart with mem := (one hart).mem.writeLe 0x22000 8 0 }⟩ 0x1000000 4 .load none =
      .error (.fault m c) :=
  ⟨by decide, exists_phys (by decide +kernel), exists_phys (by decide +kernel), is_wait (by decide +kernel),
   exists_fault (by decide +kernel)⟩

theorem witness_ControlTransfers :
    let h := withX hart [(1, 0x1000101)]
    (Issues (.beq 1 2 0x1000) (one hart) hart ∧ branchForm hart (.beq 1 2 0x1000) = some (0x1000, true)) ∧
    (Issues (.blt 1 2 4) (one hart) hart ∧ branchForm hart (.blt 1 2 4) = some (4, false)) ∧
    Issues (.jal 0x2000000) (one hart) hart ∧
    (Issues (.jalr 1 1 0x7FFF) (one hart) hart ∧
      (hart.getX 1 + 4 * (0x7FFF : BitVec 16).signExtend 64).toNat % 4 = 0) ∧
    (Issues (.jalr 1 1 0) (one h) h ∧ (h.getX 1 + 4 * (0 : BitVec 16).signExtend 64).toNat % 4 ≠ 0) :=
  ⟨⟨issues_one (by decide), by decide⟩, ⟨issues_one (by decide), by decide⟩, issues_one (by decide),
   ⟨issues_one (by decide), by decide⟩, issues_one (by decide), by decide⟩

theorem witness_Atomics :
    let h := withX hart [(1, 0x1000020), (2, 5)]
    ∃ x, Issues (.aadd 3 1 2 .device .acqRel true) (one h) h ∧
      atomicForm h (.aadd 3 1 2 .device .acqRel true) = some x ∧ NoTransfers h ∧
      ∃ pa c, Ctx.checkedStore ⟨h, one h⟩ x.addr x.bytes .both none (fun c loc => x.new (c.readLoc loc x.bytes)) =
        .ok (.phys pa, c) :=
  ⟨_, issues_one (by decide), rfl, noTransfers_of (by decide), exists_phys (by decide +kernel)⟩

/-- The hart's machine with the translations of the first GiB in the TLB, and words of memory. -/
def warm (h : Hart) (l : List (Nat × Nat)) : State :=
  let s := one h
  { s with
    tlb := [⟨0, 0, 2, 0, 0x1F⟩, ⟨0, 0, 1, 0, 0x22001⟩, ⟨0, 0, 0, 0, 0x21001⟩]
    mem := l.foldl (fun m p => m.writeLe p.1 8 p.2) s.mem }

/-- An access comes to a physical place and changes nothing of what an access can change. -/
def isPlain (r : Got (Loc × Ctx)) (pa : Nat) (c : Ctx) : Bool :=
  match r with
  | .ok (.phys a, d) => a == pa && decide (d.s.mem = c.s.mem) && decide (d.s.poison = c.s.poison) &&
      decide (d.s.tlb = c.s.tlb) && decide (d.s.fab = c.s.fab) && decide (d.h.scratch = c.h.scratch) &&
      decide (d.h.sdata = c.h.sdata) && d.h.timedOut == c.h.timedOut && d.h.noAck == c.h.noAck
  | _ => false

theorem is_plain {c : Ctx} {va n pa : Nat} {k : AccKind} {whole : Option (Nat × Nat)}
    (hh : isPlain (c.checked va n k whole) pa c = true) : c.checked va n k whole = .ok (.phys pa, c) := by
  have only := c.checked_only va n k whole
  unfold isPlain at hh
  split at hh
  · rename_i a d hr
    simp only [Bool.and_eq_true, beq_iff_eq, decide_eq_true_eq] at hh
    obtain ⟨⟨⟨⟨⟨⟨⟨⟨rfl, h1⟩, h2⟩, h3⟩, h4⟩, h5⟩, h6⟩, h7⟩, h8⟩ := hh
    obtain ⟨hs, hd⟩ := Got.leaves_ok only hr
    unfold State.OnlyMemory at hs
    rw [h1, h2, h3, h4] at hs
    rw [h5, h6, h7, h8] at hd
    rw [hr]
    obtain ⟨dh, ds⟩ := d
    simp only at hs hd
    subst hs hd
    rfl
  · cases hh

/-- Lists at 0x1001000 (head 0x1002000) and 0x1001010 (tail 0x1002010, or empty): both misalignments, the empty
source, the move to an empty list and to one with a tail. -/
theorem witness_ListMoves :
    let h := withX hart [(1, 0x1001000), (2, 0x1001010)]
    let full := warm h [(0x1001000, 0x1002000), (0x1001008, 0x1002000), (0x1001010, 0x1002010), (0x1001018, 0x1002010)]
    let toEmpty := warm h [(0x1001000, 0x1002000), (0x1001008, 0x1002000)]
    let empty := warm h []
    let odd := withX hart [(1, 0x1001008), (2, 0x1001010)]
    let odd' := withX hart [(1, 0x1001010), (2, 0x1001008)]
    NoTransfers h ∧ Issues (.lmove 3 1 2 .device .acqRel) full h ∧ Issues (.lmove 3 1 2 .device .acqRel) empty h ∧
    Issues (.lmove 3 1 2 .device .acqRel) toEmpty h ∧
    (Issues (.lmove 3 1 2 .device .acqRel) (one odd) odd ∧ odd.getU 1 % 16 ≠ 0) ∧
    (Issues (.lmove 3 1 2 .device .acqRel) (one odd') odd' ∧ odd'.getU 1 % 16 = 0 ∧ odd'.getU 2 % 16 ≠ 0) ∧
    (∀ s, s = full ∨ s = empty ∨ s = toEmpty → ∀ va, va = 0x1001000 ∨ va = 0x1001010 →
      Ctx.checked ⟨h, s⟩ va 8 .both none = .ok (.phys va, ⟨h, s⟩)) ∧
    (∀ s, s = full ∨ s = toEmpty → ∀ va, va = 0x1002000 ∨ va = 0x1002010 →
      Ctx.checked ⟨h, s⟩ va 8 .both none = .ok (.phys va, ⟨h, s⟩)) ∧
    empty.mem.readLe empty.tick 0x1001000 8 = 0 ∧ full.mem.readLe full.tick 0x1001000 8 = 0x1002000 ∧
    ((Ctx.mk h full).unlink (.phys 0x1001000) (.phys 0x1002000)).readLoc (.phys 0x1001018) 8 = 0x1002010 ∧
    ((Ctx.mk h toEmpty).unlink (.phys 0x1001000) (.phys 0x1002000)).readLoc (.phys 0x1001018) 8 = 0 := by
  refine ⟨noTransfers_of (by decide), issues_in rfl (by decide), issues_in rfl (by decide), issues_in rfl (by decide),
    ⟨issues_one (by decide), by decide⟩, ⟨issues_one (by decide), by decide, by decide⟩, ?_, ?_, by decide +kernel,
    by decide +kernel, by decide +kernel, by decide +kernel⟩
  · rintro s (rfl | rfl | rfl) va (rfl | rfl) <;> exact is_plain (by decide +kernel)
  · rintro s (rfl | rfl) va (rfl | rfl) <;> exact is_plain (by decide +kernel)

theorem listFault_odd {s : State} {h : Hart} {va align : Nat} (ho : va % align ≠ 0) :
    ∃ t c, ListFault s h va align t c := ⟨_, _, .inl ⟨ho, rfl, rfl⟩⟩

theorem listFault_checks {s : State} {h : Hart} {va align : Nat} (ha : va % align = 0)
    (hf : isFault (Ctx.checked ⟨h, s⟩ va 8 .both none) = true) : ∃ t c, ListFault s h va align t c := by
  obtain ⟨m, c, hc⟩ := exists_fault hf
  exact ⟨_, _, .inr (.inl ⟨ha, m, hc, rfl⟩)⟩

theorem listFault_local {s : State} {h : Hart} {va align : Nat} {c : Ctx} (ha : va % align = 0)
    (hc : Ctx.checked ⟨h, s⟩ va 8 .both none = .ok (.scratch va, c)) : ∃ t c, ListFault s h va align t c :=
  ⟨_, _, .inr (.inr ⟨ha, _, hc, rfl, rfl⟩)⟩

/-- A source list that is not mapped, and one in the scratchpad; a destination list in the scratchpad; a head node and
a tail node that are misaligned. -/
theorem witness_ListMoves_faults :
    let l := Instr.lmove 3 1 2 .device .acqRel
    let far := withX hart [(1, 0x40000000), (2, 0x1001010)]
    let near := withX hart [(1, 0x100), (2, 0x1001010)]
    let other := withX hart [(1, 0x1001000), (2, 0x100)]
    let h := withX hart [(1, 0x1001000), (2, 0x1001010)]
    let head := warm h [(0x1001000, 0x1002001), (0x1001008, 0x1002001)]
    let tail := warm h [(0x1001000, 0x1002000), (0x1001008, 0x1002000), (0x1001010, 0x1002011), (0x1001018, 0x1002011)]
    (one far).dmPaging far = false ∧
    (Issues l (one far) far ∧ NoTransfers far ∧ far.getU 1 % 16 = 0 ∧ far.getU 2 % 16 = 0 ∧
      ∃ t c, ListFault (one far) far 0x40000000 16 t c) ∧
    (Issues l (one near) near ∧ NoTransfers near ∧ ∃ t c, ListFault (one near) near 0x100 16 t c) ∧
    (Issues l (warm other []) other ∧ NoTransfers other ∧
      Ctx.checked ⟨other, warm other []⟩ 0x1001000 8 .both none = .ok (.phys 0x1001000, ⟨other, warm other []⟩) ∧
      ∃ t c, ListFault (warm other []) other 0x100 16 t c) ∧
    (Issues l head h ∧ head.mem.readLe head.tick 0x1001000 8 = 0x1002001 ∧ ∃ t c, ListFault head h 0x1002001 8 t c) ∧
    (Issues l tail h ∧ tail.mem.readLe tail.tick 0x1001000 8 = 0x1002000 ∧
      ((Ctx.mk h tail).unlink (.phys 0x1001000) (.phys 0x1002000)).readLoc (.phys 0x1001018) 8 = 0x1002011 ∧
      ∃ t c, ListFault tail h 0x1002011 8 t c) :=
  ⟨by decide,
   ⟨issues_one (by decide), noTransfers_of (by decide), by decide, by decide,
    listFault_checks (by decide) (by decide +kernel)⟩,
   ⟨issues_one (by decide), noTransfers_of (by decide), listFault_local (by decide) rfl⟩,
   ⟨issues_in rfl (by decide), noTransfers_of (by decide), is_plain (by decide +kernel),
    listFault_local (by decide) rfl⟩,
   ⟨issues_in rfl (by decide), by decide +kernel, listFault_odd (by decide)⟩,
   issues_in rfl (by decide), by decide +kernel, by decide +kernel, listFault_odd (by decide)⟩

/-- A pending stall of two clusters: a live register's position below 16 rows of 32, a register that LIVEV does not
name. -/
theorem witness_StallAdoption :
    let p : PendingStall := ⟨2, 1⟩
    let h : Hart := { tagged1 with pend := some p, livev := 2 }
    h.pend = some p ∧ h.width = 1 ∧ h.isLive 1 = true ∧ h.blocked (h.kind 0 1) = false ∧
    ¬ (1 < h.vrows ∧ 0 < h.vcols ∧ h.vcols < h.w) ∧ 511 < 16 * min h.w (h.adopt 0).w ∧
    (h.v[(1 : VReg)].words.get (spotAt h.ew (3 / h.w) (3 % h.w)).key).isSome = true ∧ h.isLive 2 = false := by
  decide

/-- SETVL without and with YREQ; SETSHAPE at its limits and beyond; VTYPE well formed and not; a reserved code; a
sequence of one position, and one whose nibble is too large. -/
theorem witness_VectorSetup :
    let h := withX hart [(1, 16), (2, 32), (4, 17), (5, 0x100000000), (6, 0x100000010)]
    let y : Hart := { h with yreq := true }
    (Issues (.setvl 3 1) (one h) h ∧ h.yreq = false ∧ h.pend = none ∧ 2 ^ h.size = h.width) ∧
    (Issues (.setvlx 3 1 2) (one y) y ∧ y.yreq = true) ∧
    (Issues (.setshape 3 1 2) (one h) h ∧
      (1 ≤ h.getU 1 ∧ h.getU 1 ≤ 16 ∧ h.getU 2 ≤ h.w ∧ h.getU 2 % h.blockSize = 0)) ∧
    (Issues (.setshape 3 4 2) (one h) h ∧
      ¬ (1 ≤ h.getU 4 ∧ h.getU 4 ≤ 16 ∧ h.getU 2 ≤ h.w ∧ h.getU 2 % h.blockSize = 0)) ∧
    Issues (.setvt 3 1) (one h) h ∧ Issues (.vtag 1 0x13) (one h) h ∧ Issues (.setsb 1) (one h) h ∧
    (Issues (.setpseq 5) (one h) h ∧ pseqGood (h.getU 5)) ∧
    (Issues (.setpseq 6) (one h) h ∧ ¬ pseqGood (h.getU 6)) := by
  refine ⟨⟨issues_one (by decide), by decide⟩, ⟨issues_one (by decide), by decide⟩,
    ⟨issues_one (by decide), by decide⟩, ⟨issues_one (by decide), by decide⟩, issues_one (by decide),
    issues_one (by decide), issues_one (by decide), ⟨issues_one (by decide), ?_⟩, issues_one (by decide), ?_⟩ <;>
  · unfold pseqGood
    decide

/-- Every register number is read; a value at the edge of a register's range is admitted and the next one refused;
an RO register; VTYPE. -/
theorem witness_SystemRegisters :
    let h := withX hart [(1, 16), (2, 17)]
    Issues (.srd 3 0x20) (one h) h ∧ Issues (.swr 1 1) (one h) h ∧
    (Issues (.swr 2 1) (one h) h ∧ (swrResult h (h.getX 1) 2).isSome = true) ∧
    (Issues (.swr 2 2) (one h) h ∧ swrResult h (h.getX 2) 2 = none) ∧
    (Issues (.swr 0 1) (one h) h ∧ swrResult h (h.getX 1) 0 = none) :=
  ⟨issues_one (by decide), issues_one (by decide), ⟨issues_one (by decide), by decide⟩,
   ⟨issues_one (by decide), by decide⟩, issues_one (by decide), by decide⟩

/-- A hart with a busy tag. -/
def busyHart : Hart := { hart with tags := hart.tags.set 15 (busyWith (.copy 0 0 1 true)) }

theorem busy_transfers : ¬ NoTransfers busyHart := fun h => by
  have := h 15
  revert this
  decide

/-- Two harts of one gang: alone at a barrier, and with the other hart already there. -/
theorem witness_SystemGroup :
    let y : Hart := { hart with yreq := true }
    let t : Hart := { hart with tpc := 0x1000003 }
    let other : Hart := { hart with arrived := true }
    let pair : State := { one hart with harts := [hart, hart] }
    let met : State := { one hart with harts := [hart, other] }
    Issues .nop (one hart) hart ∧ (Issues .halt (one hart) hart ∧ NoTransfers hart) ∧
    (Issues .halt (one busyHart) busyHart ∧ ¬ NoTransfers busyHart) ∧
    (Issues .yield (one hart) hart ∧ hart.yreq = false) ∧
    (Issues .yield (one y) y ∧ y.yreq = true ∧ y.replay = none) ∧ Issues (.fence .domain 15) (one hart) hart ∧
    (Issues (.gbar .device) pair hart ∧ ∃ j o, pair.harts[j]? = some o ∧ j ≠ pair.cur ∧ o.launch = hart.launch ∧
      ¬ (o.status = .ended ∨ hart.barriers < o.barriers ∨ (o.barriers = hart.barriers ∧ o.arrived = true))) ∧
    (Issues (.gbar .device) met hart ∧ ∀ (j : Nat) (o : Hart), met.harts[j]? = some o → j ≠ met.cur →
      o.launch = hart.launch →
      o.status = .ended ∨ hart.barriers < o.barriers ∨ (o.barriers = hart.barriers ∧ o.arrived = true)) ∧
    Issues .sysc (one hart) hart ∧ Issues .bkpt (one hart) hart ∧
    (Issues .tret (one t) t ∧ t.tpc.toNat % 4 ≠ 0) ∧
    (Issues .tret (one hart) hart ∧ hart.tpc.toNat % 4 = 0 ∧ hart.stopAt = none ∧ winValid hart.win[0] = false ∧
      hart.vfetchAt = none) := by
  refine ⟨issues_one (by decide), ⟨issues_one (by decide), noTransfers_of (by decide)⟩,
    ⟨issues_one (by decide), busy_transfers⟩, ⟨issues_one (by decide), by decide⟩,
    ⟨issues_one (by decide), by decide⟩, issues_one (by decide),
    ⟨issues_in rfl (by decide), 1, hart, rfl, by decide, rfl, by decide⟩, ⟨issues_in rfl (by decide), ?_⟩,
    issues_one (by decide), issues_one (by decide), ⟨issues_one (by decide), by decide⟩, issues_one (by decide),
    by decide⟩
  intro j o hj hne _
  match j, hj, hne with
  | 0, _, hne => exact absurd rfl hne
  | 1, hj, _ =>
    obtain rfl : ({ hart with arrived := true } : Hart) = o := by simpa using hj
    exact .inr (.inr ⟨rfl, rfl⟩)
  | j + 2, hj, _ => simp at hj

/-- A prefix; an instruction that its prefix does not admit, one under VTYPE.ILL, and one after LSPLIT. -/
theorem witness_Prefixes :
    let p : Hart := { hart with pfx := some 0x04000000 }
    let v : Hart := { hart with vtype := 0x8000000000000000 }
    let sp : Hart := { hart with split := true, lt := true }
    (Issues (.pfx 11 true (some 47) 7) (one hart) hart ∧ hart.stopAt = none ∧ hart.replay = none) ∧
    ((encode (.add 3 1 2)).isSome = true ∧ (one p).vp = none ∧ (one p).harts[(one p).cur]? = some p ∧
      p.status = .running ∧ p.run = none ∧ p.prefixAdmits (.add 3 1 2) = false) ∧
    ((encode (.vadd 3 1 2 false false false)).isSome = true ∧ (one v).harts[(one v).cur]? = some v ∧
      v.prefixAdmits (.vadd 3 1 2 false false false) = true ∧ (Instr.vadd 3 1 2 false false false).usesVtype = true ∧
      v.vill = true) ∧
    ((one sp).harts[(one sp).cur]? = some sp ∧ sp.prefixAdmits (.add 3 1 2) = true ∧
      (Instr.add 3 1 2).usesVtype = false ∧ sp.split = true ∧ (Instr.add 3 1 2).isVfetch = false) := by
  refine ⟨⟨issues_one (by decide), by decide⟩, ?_⟩
  decide

/-- TVEC set: a trap at issue; one at an element with a prefix before it and no window, and one with a window looked
at; in a replay with an entry to come, and with none. -/
theorem witness_TrapToTvec :
    let h : Hart := { hart with tvec := 0x2000 }
    let p : Hart := { h with pfx := some 0x04000000 }
    let d : Drain := ⟨some (Trap.fpx 4 7 (some 7)), 7, [(2, 0)], 3⟩
    let w : Hart := { h with drain := some d }
    let rp : Replay := ⟨0x1000000, 3, 1⟩
    let r : Hart := { h with replay := some rp, win := hart.win.set 0 (winEntry 2 3 0x1FFFF) }
    let r' : Hart := { h with replay := some rp }
    (h.tvec ≠ 0 ∧ hallBound causeIllegal = false ∧ h.replay = none ∧ h.split = false ∧
      (Trap.illegal 5).idx = none) ∧
    (p.tvec ≠ 0 ∧ p.replay = none ∧ p.split = false ∧ p.pfx.isSome = true ∧ (Trap.fpx 4 7 (some 7)).atSelf = false ∧
      (Trap.fpx 4 7 (some 7)).idx = some 7 ∧ p.ahead = [] ∧ p.drain = none ∧ hallBound causeFpx = false) ∧
    (w.tvec ≠ 0 ∧ w.replay = none ∧ w.split = false ∧ w.drain = some d) ∧
    (r.replay = some rp ∧ r.split = false ∧ r.pfx = none ∧ r.named rp.d = false ∧
      r.nextEntry rp.d = some (2, 0x1FFFF)) ∧
    (r'.replay = some rp ∧ r'.pfx = none ∧ r'.named rp.d = false ∧ r'.nextEntry rp.d = none) ∧
    (one w).harts[(0 : Nat)]? = some w := by decide

/-- TVEC = 0; SYSC; a fault that the hall can resolve, at an element with no window; one that it cannot. -/
theorem witness_TrapToHall :
    ((Trap.illegal 0).idx = none ∧ hallBound (Trap.illegal 0).cause = false ∧ hart.tvec = 0) ∧
    ((Trap.plain causeSysc 0).cause = causeSysc ∧ (Trap.plain causeSysc 0).toTvec = false) ∧
    (let t : Trap := { Trap.plain causePage 0 with idx := some 3, info := ⟨0, 0, 0, 4, true⟩ }
     hart.ahead = [] ∧ hallBound t.cause = true ∧ t.toTvec = false ∧ t.cause ≠ causeSysc ∧
       t.info.resolvable = true) ∧
    (let t : Trap := Trap.plain causePerm 0
     hallBound t.cause = true ∧ t.toTvec = false ∧ t.cause ≠ causeSysc ∧ t.info.resolvable = false) := by decide

/-- A VADD at element 32 of 64 that stays unfinished, then ADDI X5, X0, 7, then a VADD that reads the first one's result
with its chain bit as given, then NOP: X5 and the window after a stop. -/
def behind (ca : Bool) : Option (Word × List Word × HartStatus) :=
  let words : List Instr := [.vadd 3 1 2 false false false, .addi 5 0 7, .vadd 6 3 1 false ca false, .nop]
  let h : Hart := { (tagged1.setTag 2 4 |>.setTag 3 4 |>.setTag 6 4) with
    ahead := [64]
    drain := some ⟨none, 32, [], 1⟩ }
  let s : State := (withIndex 0 words).foldl (fun (s : State) p =>
    s.placeWord (0x1000000 + 4 * p.1) ((encode p.2).getD 0)) (one h)
  ((settleWindow 0 s).harts[0]?).map (fun h => (h.getX 5, h.win.toList, h.status))

/-- R277, R284, R285: the ADDI completes, the consumer has come as far as its producer, and issue stops at the NOP. -/
theorem test_window_behind : behind true = some (7, [winEntry 0 3 32, winEntry 2 0 32, 0, 0], .stopped) := by
  decide +kernel

/-- R82: with its chain bit clear the consumer has not started. -/
theorem test_window_late : behind false = some (7, [winEntry 0 3 32, winEntry 2 0 0, 0, 0], .stopped) := by
  decide +kernel

/-- A stop in a span of VADD.X V3, V1, X5 and ADDI, and what R287 finds changed after a handler has done something. -/
def changedBy (f : Hart → Hart) : Option Bool :=
  let h : Hart := { tagged1 with win := #v[winEntry 0 2 0, 0, 0, 0] }
  let s := ((one h).placeWord 0x1000000 ((encode (.vaddX 3 1 5 false false)).getD 0)).placeWord 0x1000004
    ((encode (.addi 6 0 7)).getD 0)
  (Ctx.noteSpan ⟨h, s⟩ h 0x1000000).spans.head?.map (fun sp => Ctx.spanChanged ⟨f h, s⟩ sp)

/-- R287: WIN0.IDX and a register that no entry reads may change; what an entry reads, the tags and VTYPE may not. -/
theorem test_span_changed :
    changedBy id = some false ∧ changedBy (fun h => { h with win := h.win.set 0 (winEntry 0 2 5) }) = some false ∧
    changedBy (fun h => h.setX 6 1) = some false ∧ changedBy (fun h => h.setX 5 1) = some true ∧
    changedBy (fun h => h.setTag 1 9) = some true ∧ changedBy (fun h => { h with vtype := 3 + 32 }) = some true := by
  decide +kernel

/-- With no flag enabled none traps. -/
theorem quiet {h : Hart} (hf : h.fpcsr = 0) (fl : Flags) : h.enabledFlag fl = none := by
  have : ∀ fl : Flags, Hart.reset.enabledFlag fl = none := by decide
  have e : h.enabledFlag fl = Hart.reset.enabledFlag fl := by
    unfold Hart.enabledFlag
    rw [hf]
    rfl
  rw [e, this]

/-- What `Completes` asks of a form. -/
def Met (form : Hart → Nat → Instr → Option Element) (h : Hart) (i : Instr) : Prop :=
  ∃ F : Element, Issues i (one h) h ∧ form h (one h).tick i = some F ∧ h.stopAt = none ∧ F.ok ∧
    (F.rounds = true → h.rm ≠ 5) ∧ ∀ e : Nat, e ∈ F.among h.vstart h.vl → h.enabledFlag (F.value e).2 = none

theorem met_of {form : Hart → Nat → Instr → Option Element} {h : Hart} {i : Instr} {F : Element}
    (hf : form h 0 i = some F)
    (hh : (issuable i h && decide (h.stopAt = none) && F.checks.all (·.2) && h.fpcsr == 0 && h.rm != 5 &&
      h.vl != 0) = true) : Met form h i := by
  simp only [Bool.and_eq_true, decide_eq_true_eq, beq_iff_eq, bne_iff_ne] at hh
  obtain ⟨⟨⟨⟨⟨h1, h2⟩, h3⟩, h4⟩, h5⟩, _⟩ := hh
  exact ⟨F, issues_one h1, hf, h2, h3, fun _ => h5, fun _ _ => quiet h4 _⟩

/-- Two rows of 32 columns; V1, V2, V3 under one tag. -/
def tagged (vtype tag : Nat) : Hart :=
  ((({ hart with vtype := BitVec.ofNat 64 vtype, vrows := 2, vcols := 32 }.setTag 1 tag).setTag 2 tag).setTag 3 tag)

/-- Pairs at V4 and V6 of a wider tag, under EW = 32. -/
def paired (tag wide : Nat) : Hart :=
  ((((tagged 2 tag).setTag 4 wide).setTag 5 wide).setTag 6 wide).setTag 7 wide

theorem witness_VectorArithmetic :
    Met arithForm (tagged 3 4) (.vadd 3 1 2 false false false) ∧
    Met arithForm (tagged 3 0x0C) (.vfma 3 1 2 true true true) ∧
    Met arithForm (tagged 3 4) (.vmulh 3 1 2 true false false) ∧
    Met arithForm (tagged 3 0x0C) (.vsqrt 3 1 false false) ∧
    Met signForm (tagged 3 0x0C) (.vabs 3 1 false false) ∧ Met signForm (tagged 3 4) (.vneg 3 1 false false) ∧
    Met bitsForm (tagged 3 4) (.vand 3 1 2 false false false) ∧ Met bitsForm (tagged 3 4) (.vsll 3 1 2 true false false) ∧
    Met bitsForm (tagged 3 4) (.vclz 3 1 false false) ∧ Met bitsForm (tagged 3 4) (.vmv 3 1 false false) ∧
    Met bitsForm (tagged 3 4) (.vmerge 3 1 2 false false) ∧ Met bitsForm (tagged 3 4) (.vcvt 3 1 0 false false) ∧
    Met bitsForm (tagged 3 0x0C) (.vcvt 3 1 0x0B false false) := by
  refine ⟨met_of rfl ?_, met_of rfl ?_, met_of rfl ?_, met_of rfl ?_, met_of rfl ?_, met_of rfl ?_, met_of rfl ?_,
    met_of rfl ?_, met_of rfl ?_, met_of rfl ?_, met_of rfl ?_, met_of rfl ?_, met_of rfl ?_⟩ <;> decide

theorem witness_VectorCompareAndMasks :
    Met maskForm (tagged 3 4) (.vcmpEq 11 1 (.vec 2) true false) ∧
    Met maskForm (tagged 3 0x0C) (.vcmpLt 4 1 (.scalar 5) false false) ∧
    Met maskForm (tagged 3 0x0C) (.vcmpUn 4 1 .athr false false) ∧ Met maskForm (tagged 3 4) (.mand 1 2 3 true) ∧
    Met maskForm (tagged 3 4) (.msbf 1 1 false) ∧ Met maskForm (tagged 3 4) (.mpref 3 1 false) := by
  refine ⟨met_of rfl ?_, met_of rfl ?_, met_of rfl ?_, met_of rfl ?_, met_of rfl ?_, met_of rfl ?_⟩ <;> decide

/-- E4M3 codes in V1 and V2, E8M0 codes in V3, F64 pairs, under MX blocks of 32. -/
def quantized : Hart := ((paired 0x0D 0x0C).setTag 3 0x12)

theorem witness_VectorOtherForms :
    Met scalarForm (tagged 3 4) (.vaddX 3 1 5 false false) ∧ Met scalarForm (tagged 3 0x0C) (.vfmaX 3 1 5 true true) ∧
    Met scalarForm (tagged 3 4) (.vandX 3 1 5 false false) ∧ Met scalarForm (tagged 3 4) (.vsraX 3 1 5 false false) ∧
    Met scalarForm (tagged 3 4) (.vbcst 3 5 false) ∧ Met scalarForm (tagged 3 4) (.vidx 3 true) ∧
    Met wideForm (paired 3 4) (.vwadd 4 1 2 false false false) ∧
    Met wideForm (paired 0x0B 0x0C) (.vwfma 4 1 2 false false false) ∧
    Met wideForm (paired 3 4) (.vnarrow 1 4 false false) ∧ Met wideForm (paired 3 4) (.vilv 6 4 5 true false false) ∧
    Met wideForm (paired 3 4) (.vdilv 6 4 true false) ∧ Met wideForm quantized (.vscale 4 1 3 false false false) ∧
    Met wideForm { quantized with vtype := 10 } (.vquant 1 4 3 true false) ∧
    Met randomForm (tagged 3 4) (.vrnd 3 5 false) ∧ Met randomForm (tagged 3 0x0C) (.vrndf 3 5 true) := by
  refine ⟨met_of rfl ?_, met_of rfl ?_, met_of rfl ?_, met_of rfl ?_, met_of rfl ?_, met_of rfl ?_, met_of rfl ?_,
    met_of rfl ?_, met_of rfl ?_, met_of rfl ?_, met_of rfl ?_, met_of rfl ?_, met_of rfl ?_, met_of rfl ?_,
    met_of rfl ?_⟩ <;> decide

/-- What `Refuses` asks of a form: it rounds under RM = 5. -/
def RefusedRounding (form : Hart → Nat → Instr → Option Element) (h : Hart) (i : Instr) : Prop :=
  ∃ F : Element, Issues i (one h) h ∧ form h (one h).tick i = some F ∧ h.looseTags i = [] ∧ F.rounds = true ∧ h.rm = 5
/-- A condition of detail d fails, and none of a lower one. -/
def RefusedTags (form : Hart → Nat → Instr → Option Element) (h : Hart) (i : Instr) (d : Nat) : Prop :=
  ∃ F : Element, Issues i (one h) h ∧ form h (one h).tick i = some F ∧ h.looseTags i = [] ∧
    (F.rounds = true → h.rm ≠ 5) ∧ refusedFor F.checks d

theorem refused_rounding {form : Hart → Nat → Instr → Option Element} {h : Hart} {i : Instr} {F : Element}
    (hf : form h 0 i = some F) (hh : (issuable i h && F.rounds && h.rm == 5 && (h.looseTags i).isEmpty) = true) :
    RefusedRounding form h i := by
  simp only [Bool.and_eq_true, beq_iff_eq, List.isEmpty_iff] at hh
  obtain ⟨⟨⟨h1, h2⟩, h3⟩, h4⟩ := hh
  exact ⟨F, issues_one h1, hf, h4, h2, h3⟩

theorem refused_tags {form : Hart → Nat → Instr → Option Element} {h : Hart} {i : Instr} {d : Nat} {F : Element}
    (hf : form h 0 i = some F)
    (hh : (issuable i h && h.rm != 5 && (h.looseTags i).isEmpty && F.checks.any (fun c => c.1 == d && !c.2) &&
      F.checks.all (fun c => c.2 || decide (d ≤ c.1))) = true) : RefusedTags form h i d := by
  simp only [Bool.and_eq_true, bne_iff_ne, List.isEmpty_iff] at hh
  obtain ⟨⟨⟨⟨h1, h2⟩, h3⟩, h4⟩, h5⟩ := hh
  exact ⟨F, issues_one h1, hf, h3, fun _ => h2, h4, h5⟩

/-- F64 under RM = 5; I64 under EW = 32 (1); a scaled operand where no entry names one (3); VSCALE of a scaled operand
without a scale register (2); VQUANT outside BLK 1 and 2 (3). (No random draw rounds, and none of the mask logic has a
tag to refuse.) -/
theorem witness_VectorRefusals :
    RefusedRounding arithForm (tagged 163 0x0C) (.vadd 3 1 2 false false false) ∧
    RefusedRounding signForm ((tagged 163 0x0C).setTag 1 4) (.vneg 3 1 false false) ∧
    RefusedRounding bitsForm ((tagged 163 0x0C).setTag 1 4) (.vclz 3 1 false false) ∧
    RefusedRounding scalarForm (tagged 163 0x0C) (.vaddX 3 1 5 false false) ∧
    RefusedRounding wideForm { paired 0x0B 0x0C with vtype := 162 } (.vwadd 4 1 2 false false false) ∧
    RefusedRounding maskForm (tagged 163 0x0C) (.mpref 3 1 false) ∧
    RefusedTags arithForm (tagged 2 4) (.vadd 3 1 2 false false false) 1 ∧
    RefusedTags arithForm (tagged 9 0x0D) (.vadd 3 1 2 false false false) 3 ∧
    RefusedTags signForm (tagged 2 4) (.vneg 3 1 false false) 1 ∧
    RefusedTags bitsForm (tagged 2 4) (.vand 3 1 2 false false false) 1 ∧
    RefusedTags scalarForm (tagged 2 4) (.vaddX 3 1 5 false false) 1 ∧
    RefusedTags wideForm ((paired 4 4).setTag 1 4) (.vwadd 4 1 2 false false false) 1 ∧
    RefusedTags wideForm { quantized with vtype := 2 } (.vquant 1 4 3 true false) 3 ∧
    RefusedTags wideForm ({ quantized with vtype := 10 }.setTag scaleReg 4) (.vscale 4 1 3 false false false) 2 ∧
    RefusedTags maskForm (tagged 2 4) (.vcmpEq 4 1 (.vec 2) false false) 1 ∧
    RefusedTags randomForm (tagged 2 4) (.vrnd 3 5 false) 1 := by
  refine ⟨refused_rounding rfl ?_, refused_rounding rfl ?_, refused_rounding rfl ?_, refused_rounding rfl ?_,
    refused_rounding rfl ?_, refused_rounding rfl ?_, refused_tags rfl ?_, refused_tags rfl ?_, refused_tags rfl ?_,
    refused_tags rfl ?_, refused_tags rfl ?_, refused_tags rfl ?_, refused_tags rfl ?_, refused_tags rfl ?_,
    refused_tags rfl ?_, refused_tags rfl ?_⟩ <;> decide

/-- What `TrapsFpx` asks of a form, the trap at element 1 of two. -/
def MetTrap (form : Hart → Nat → Instr → Option Element) (h : Hart) (i : Instr) : Prop :=
  ∃ (F : Element) (k : Nat), Issues i (one h) h ∧ form h (one h).tick i = some F ∧ h.stopAt = none ∧ F.ok ∧
    (F.rounds = true → h.rm ≠ 5) ∧ F.among h.vstart h.vl = [0] ++ 1 :: [] ∧
    (∀ j : Nat, j ∈ [0] → h.enabledFlag (F.value j).2 = none) ∧ h.enabledFlag (F.value 1).2 = some k

theorem met_trap {form : Hart → Nat → Instr → Option Element} {h : Hart} {i : Instr} {F : Element}
    (hf : form h 0 i = some F)
    (hi : (issuable i h && decide (h.stopAt = none) && h.rm != 5 && F.checks.all (·.2)) = true)
    (hh : (F.among h.vstart h.vl == [0, 1] && (h.enabledFlag (F.value 0).2).isNone &&
      (h.enabledFlag (F.value 1).2).isSome) = true) : MetTrap form h i := by
  simp only [Bool.and_eq_true, decide_eq_true_eq, beq_iff_eq, bne_iff_ne, Option.isNone_iff_eq_none] at hi hh
  obtain ⟨k, hk⟩ := Option.isSome_iff_exists.1 hh.2
  refine ⟨F, k, issues_one hi.1.1.1, hf, hi.1.1.2, hi.2, fun _ => hi.1.2, hh.1.1, fun j hj => ?_, hk⟩
  obtain rfl : j = 0 := by simpa using hj
  exact hh.1.2

/-- Two elements under every enabled flag: V1 = 1 and `x`, V2 = 1 and `y` under F64, V3 under F32. -/
def pointed (x y : Nat) : Hart :=
  (withV (withV { withX hart [(5, 0x3FF0000000000000)] with vcols := 2, fpcsr := 0x3E0 } 1 0x0C [0x3FF0000000000000, x])
    2 0x0C [0x3FF0000000000000, y]).setTag 3 0x0B

/-- The same with V4 and V5 a pair of F64 under EW = 32 whose wide elements are 1 and `x`. -/
def pointedPair (x : Nat) : Hart :=
  let h : Hart := { pointed 0 0 with vtype := 2 }
  ((h.setTag 4 0x0C).setTag 5 0x0C |>.setWide 0 4 0 0x3FF0000000000000).setWide 0 4 1 x

/-- What `StopsInside` asks of a form: a stop in the first row of two, before it (VSTART at the boundary, or a form that
is not divided) and inside. -/
def MetStop (form : Hart → Nat → Instr → Option Element) (h : Hart) (i : Instr) : Prop :=
  ∃ F : Element, Issues i (one h) h ∧ form h (one h).tick i = some F ∧ h.stopAt = some 1 ∧ 32 = h.groupCeil 1 ∧
    32 < h.vl ∧ F.ok ∧ (F.rounds = true → h.rm ≠ 5) ∧ ((32 ≤ h.vstart ∨ F.whole = true) ∨
      h.vstart < 32 ∧ F.whole = false ∧ ∀ e : Nat, e ∈ F.among h.vstart 32 → h.enabledFlag (F.value e).2 = none)

theorem met_stop {form : Hart → Nat → Instr → Option Element} {h : Hart} {i : Instr} {F : Element}
    (hf : form h 0 i = some F)
    (hh : (issuable i h && F.checks.all (·.2) && decide (h.stopAt = some 1) && h.fpcsr == 0 && h.rm != 5 && h.groupCeil 1 == 32 &&
      decide (32 < h.vl)) = true) : MetStop form h i := by
  simp only [Bool.and_eq_true, decide_eq_true_eq, beq_iff_eq, bne_iff_ne] at hh
  obtain ⟨⟨⟨⟨⟨⟨h1, hok⟩, h2⟩, h3⟩, h4⟩, h5⟩, h6⟩ := hh
  refine ⟨F, issues_one h1, hf, h2, h5.symm, h6, hok, fun _ => h4, ?_⟩
  cases hw : F.whole
  · rcases Nat.lt_or_ge h.vstart 32 with hv | hv
    · exact .inr ⟨hv, rfl, fun _ _ => quiet h3 _⟩
    · exact .inl (.inl hv)
  · exact .inl (.inr rfl)

/-- The hart told to stop while element 1 is under way, at element `from` of the instruction. -/
def stopping (h : Hart) (start : Nat) : Hart := { h with stopAt := some 1, vstart := start }

theorem met_traps :
    MetTrap arithForm (pointed 0x3FF0000000000000 0) (.vdiv 3 1 2 false false false) ∧
    MetTrap signForm (pointed 0x3FF0000000000001 0) (.vneg 3 1 false false) ∧
    MetTrap bitsForm (pointed 0x3FF0000000000001 0) (.vcvt 3 1 0x0B false false) ∧
    MetTrap scalarForm (pointed 0x3FF0000000000001 0) (.vmulX 3 1 5 false false) ∧
    MetTrap wideForm (pointedPair 0x3FF0000000000001) (.vnarrow 3 4 false false) ∧
    MetTrap maskForm (pointed 0x7FF8000000000000 0) (.vcmpLt 4 1 (.vec 2) false false) := by
  refine ⟨met_trap rfl ?_ ?_, met_trap rfl ?_ ?_, met_trap rfl ?_ ?_, met_trap rfl ?_ ?_, met_trap rfl ?_ ?_,
    met_trap rfl ?_ ?_⟩ <;> decide +kernel

theorem met_stops (start : Nat) (hs : start = 0 ∨ start = 32) :
    MetStop arithForm (stopping (tagged 3 4) start) (.vadd 3 1 2 false false false) ∧
    MetStop signForm (stopping (tagged 3 4) start) (.vneg 3 1 false false) ∧
    MetStop bitsForm (stopping (tagged 3 4) start) (.vand 3 1 2 false false false) ∧
    MetStop scalarForm (stopping (tagged 3 4) start) (.vaddX 3 1 5 false false) ∧
    MetStop wideForm (stopping (paired 3 4) start) (.vnarrow 1 4 false false) ∧
    MetStop maskForm (stopping (tagged 3 4) start) (.mand 1 2 3 false) ∧
    MetStop maskForm (stopping (tagged 3 4) start) (.msbf 0 1 true) ∧
    MetStop randomForm (stopping (tagged 3 4) start) (.vrnd 3 5 false) := by
  rcases hs with rfl | rfl <;>
  refine ⟨met_stop rfl ?_, met_stop rfl ?_, met_stop rfl ?_, met_stop rfl ?_, met_stop rfl ?_, met_stop rfl ?_,
    met_stop rfl ?_, met_stop rfl ?_⟩ <;> decide

/-- A trap at element 1 of a form of every family; a stop before, and inside, a form of every family. -/
theorem witness_VectorElementTraps :
    (∃ h : Hart, MetTrap arithForm h (.vdiv 3 1 2 false false false)) ∧
    (∃ h : Hart, h.vstart = 32 ∧ MetStop arithForm h (.vadd 3 1 2 false false false)) ∧
    (∃ h : Hart, h.vstart = 0 ∧ MetStop arithForm h (.vadd 3 1 2 false false false)) :=
  ⟨⟨_, met_traps.1⟩, ⟨_, rfl, (met_stops 32 (.inr rfl)).1⟩, _, rfl, (met_stops 0 (.inl rfl)).1⟩

/-- Element 1 of two rows, its neighbours and another register; a bit of M11 and of another mask. -/
theorem witness_RegisterStorage :
    (let h := tagged 3 4
     (h.v[(1 : VReg)]).words.wf = true ∧ h.blocked (h.kind 0 1) = false ∧ h.kw (h.kind 0 1) ≤ h.ew ∧
     1 ≤ h.vcols ∧ h.vcols ≤ h.w ∧ h.width ≤ 8 ∧ (63 : Nat) ≠ 32 ∧ (2 : VReg) ≠ 1) ∧
    (hart.m[(11 : MReg)]).bits.wf = true ∧ (hart.m[(11 : MReg)]).hidden.wf = true ∧
    ((0 : MReg) ≠ 11 ∨ (0 : Nat) ≠ 1) := by decide

theorem arith_of {h : Hart} {r : VReg} (hh : (arithUse h 0 r).all (·.2) = true) : arithTag h 0 r := hh

theorem bits_of {h : Hart} {r : VReg} (hh : (bitsUse h 0 r).all (·.2) = true) : bitsTag h 0 r := hh

theorem raw_of {h : Hart} {r : VReg} (hh : (rawUse h 0 r).all (·.2) = true) : rawTag h 0 r := hh

/-- One word number inside a mask register and one past it. -/
theorem witness_MaskCountsAndWords :
    let h := withX hart [(2, 511), (4, 512)]
    h.stopAt = none ∧ Issues (.mcnt 3 1 true) (one h) h ∧ Issues (.mffs 3 1 false) (one h) h ∧
    (Issues (.mtox 3 1 2 false) (one h) h ∧ h.getU 2 < 512) ∧ (Issues (.mtox 3 1 4 false) (one h) h ∧ 512 ≤ h.getU 4) ∧
    (Issues (.mxtom 3 1 2 true) (one h) h ∧ h.getU 2 < 512) ∧
    (Issues (.mxtom 3 1 4 true) (one h) h ∧ 512 ≤ h.getU 4) :=
  ⟨rfl, issues_one (by decide), issues_one (by decide), ⟨issues_one (by decide), by decide⟩,
   ⟨issues_one (by decide), by decide⟩, ⟨issues_one (by decide), by decide⟩, issues_one (by decide), by decide⟩

theorem untrapped_of {h : Hart} (hf : h.fpcsr = 0) (pts : List Point) : Untrapped h pts := fun p _ => quiet hf p.1

/-- The first point that raises an enabled flag. -/
theorem first_trap {h : Hart} {pts : List Point} (hh : pts.any (fun p => (h.enabledFlag p.1).isSome) = true) :
    ∃ ps rest p b, pts = ps ++ p :: rest ∧ Untrapped h ps ∧ h.enabledFlag p.1 = some b := by
  induction pts with
  | nil => cases hh
  | cons p pts ih =>
    cases hp : h.enabledFlag p.1 with
    | some b => exact ⟨[], pts, p, b, rfl, fun _ hq => absurd hq (List.not_mem_nil), hp⟩
    | none =>
      obtain ⟨ps, rest, q, b, rfl, h1, h2⟩ := ih (by simpa [hp] using hh)
      refine ⟨p :: ps, rest, q, b, rfl, fun r hr => ?_, h2⟩
      rcases List.mem_cons.1 hr with rfl | hr
      · exact hp
      · exact h1 r hr

theorem refused_of {checks : Checks} {n : Nat} (hh : (checks.any (fun c => c.1 == n && !c.2) &&
    checks.all (fun c => c.2 || decide (n ≤ c.1))) = true) : refusedFor checks n := by
  simp only [Bool.and_eq_true] at hh
  exact ⟨hh.1, hh.2⟩

/-- What `StripReductions` asks of a form: its tags admitted, the rounding allowed; whole, or a point that traps. -/
def MetStrip (h : Hart) (i : Instr) (traps : Bool) : Prop :=
  ∃ (d : VReg) (m : Bool) (checks : Checks) (leaf : Nat → Nat × Flags), Issues i (one h) h ∧
    stripForm h 0 i = some (d, m, checks, leaf) ∧ h.stopAt = none ∧ admitted checks ∧
    (partialRounds (h.kind 0 d) → h.rm ≠ 5) ∧
    (traps = false → Untrapped h (reduced h 0 d m leaf).2) ∧
    (traps = true → ∃ ps rest p b, (reduced h 0 d m leaf).2 = ps ++ p :: rest ∧ Untrapped h ps ∧
      h.enabledFlag p.1 = some b)

/-- A strip reduction that it refuses: for its tags, or for RM = 5. -/
def RefusedStrip (h : Hart) (i : Instr) (n : Option Nat) : Prop :=
  ∃ (d : VReg) (m : Bool) (checks : Checks) (leaf : Nat → Nat × Flags), Issues i (one h) h ∧
    stripForm h 0 i = some (d, m, checks, leaf) ∧ h.looseTags i = [] ∧
    (match n with
      | none => partialRounds (h.kind 0 d) ∧ h.rm = 5
      | some n => h.rm ≠ 5 ∧ refusedFor checks n)

/-- F64 leaves and I64 leaves, some under every enabled flag with 1 + 2^−60 to round; a partial that is none, a source
too wide, and RM = 5. -/
theorem witness_StripReductions :
    (MetStrip (tagged 3 0x0C) (.vreds 3 1 true false) false ∧
      MetStrip (tagged 3 4) (.vdots 3 1 2 false true true) false) ∧
    (let h := (pointed 0x3C30000000000000 0x3FF0000000000000).setTag 3 0x0C
     MetStrip h (.vreds 3 1 false false) true ∧ MetStrip h (.vdots 3 1 2 false false false) true) ∧
    RefusedStrip ((tagged 3 4).setTag 3 0x09) (.vreds 3 1 false false) (some 1) ∧
    RefusedStrip ((tagged 2 4).setTag 3 0x0C) (.vdots 3 1 2 false false false) (some 1) ∧
    RefusedStrip (tagged 163 0x0C) (.vreds 3 1 false false) none := by
  refine ⟨⟨⟨_, _, _, _, issues_one ?_, rfl, rfl, ?_, fun _ => ?_, fun _ => untrapped_of rfl _, fun h => nomatch h⟩,
      ⟨_, _, _, _, issues_one ?_, rfl, rfl, ?_, fun _ => ?_, fun _ => untrapped_of rfl _, fun h => nomatch h⟩⟩,
    ⟨⟨_, _, _, _, issues_one ?_, rfl, rfl, ?_, fun _ => ?_, (fun h => nomatch h), fun _ => first_trap ?_⟩,
      ⟨_, _, _, _, issues_one ?_, rfl, rfl, ?_, fun _ => ?_, (fun h => nomatch h), fun _ => first_trap ?_⟩⟩,
    ⟨_, _, _, _, issues_one ?_, rfl, ?_, ?_, refused_of ?_⟩, ⟨_, _, _, _, issues_one ?_, rfl, ?_, ?_, refused_of ?_⟩,
    ⟨_, _, _, _, issues_one ?_, rfl, ?_, ⟨?_, ?_⟩, ?_⟩⟩ <;> (first | decide +kernel | (unfold admitted; decide +kernel))

/-- A fold of F64 with elements and under VL = 0; one whose seed rounds under every enabled flag; a va that is no
partial, and RM = 5. -/
theorem witness_FoldOfPartials :
    let h := tagged 3 0x0C
    let e : Hart := { h with vcols := 0 }
    let x : Hart := withX (pointed 0 0) [(6, 0x3C30000000000000)]
    let n := tagged 3 0x09
    let r := tagged 163 0x0C
    let pts := fun (h : Hart) =>
      let k := h.kind 0 1
      let tree := treeSum (k.plus (h.vecRounding 0)) 5 ((List.range 32).map (fun i =>
        some (h.partialSlot 0 1 (k.width 64) i)))
      (tree.2 ++ [(k.plus (h.vecRounding 0) (tree.1.getD 0) (h.getU 6 % 2 ^ k.width 64)).2]).map
        (fun fl => ((fl, 0) : Point))
    (Issues (.vfold 5 1 6 false) (one h) h ∧ (h.kind 0 1).partialOk = true ∧ h.rm ≠ 5 ∧ h.stopAt = none ∧ h.vl ≠ 0 ∧
      Untrapped h (pts h)) ∧
    (Issues (.vfold 5 1 6 false) (one e) e ∧ (e.kind 0 1).partialOk = true ∧ e.rm ≠ 5 ∧ e.vl = 0) ∧
    (Issues (.vfold 5 1 6 false) (one x) x ∧ (x.kind 0 1).partialOk = true ∧ x.rm ≠ 5 ∧ x.vl ≠ 0 ∧
      ∃ ps rest p b, pts x = ps ++ p :: rest ∧ Untrapped x ps ∧ x.enabledFlag p.1 = some b) ∧
    (Issues (.vfold 5 1 6 false) (one n) n ∧ n.looseTags (.vfold 5 1 6 false) = [] ∧ n.rm ≠ 5 ∧
      refusedFor [(1, (n.kind 0 1).partialOk)] 1) ∧
    (Issues (.vfold 5 1 6 false) (one r) r ∧ r.looseTags (.vfold 5 1 6 false) = [] ∧ partialRounds (r.kind 0 1) ∧
      r.rm = 5) := by
  refine ⟨⟨issues_one ?_, ?_, ?_, rfl, ?_, untrapped_of rfl _⟩, ⟨issues_one ?_, ?_, ?_, ?_⟩,
    ⟨issues_one ?_, ?_, ?_, ?_, first_trap ?_⟩, ⟨issues_one ?_, ?_, ?_, refused_of ?_⟩,
    ⟨issues_one ?_, ?_, ⟨?_, ?_⟩, ?_⟩⟩ <;> decide +kernel

/-- The largest of some elements; the AND of none, every element inactive. -/
theorem witness_OrderFreeReductions :
    let h := tagged 3 4
    (∃ ok f, Issues (.vredmax 5 2 6 false false) (one h) h ∧
      orderFreeForm h 0 (.vredmax 5 2 6 false false) = some (5, 2, 6, false, ok, f) ∧ ok ∧ h.stopAt = none ∧
      activeFrom h 0 false ≠ [] ∧ ∀ pts : List Point, Untrapped h pts) ∧
    (∃ ok f, Issues (.vredand 5 2 6 true false) (one h) h ∧
      orderFreeForm h 0 (.vredand 5 2 6 true false) = some (5, 2, 6, true, ok, f) ∧ ok ∧
      activeFrom h 0 true = []) :=
  ⟨⟨_, _, issues_one (by decide), rfl, arith_of (by decide), rfl, by decide, untrapped_of rfl⟩,
   _, _, issues_one (by decide), rfl, ⟨raw_of (by decide), .inl (by decide)⟩, by decide⟩

/-- Slots moved down, pulled; a search; a scatter with elements and under VL = 0; a verify of F64 pairs. -/
theorem witness_Permutations :
    let h := tagged 3 4
    let e : Hart := { h with vrows := 0 }
    let f := tagged 3 0x0C
    h.stopAt = none ∧
    (∃ M, Issues (.vsldn 3 1 5 true false) (one h) h ∧ movesForm h 0 (.vsldn 3 1 5 true false) = some M ∧ M.ok) ∧
    (∃ M, Issues (.vpull 3 1 2 true false true) (one h) h ∧ movesForm h 0 (.vpull 3 1 2 true false true) = some M ∧
      M.ok) ∧
    (∃ d ok vs, Issues (.vconf 3 1 true false) (one h) h ∧ searchForm h 0 (.vconf 3 1 true false) = some (d, ok, vs) ∧
      ok) ∧
    (Issues (.vpush 3 1 2 false false false) (one h) h ∧ movable h 0 1 ∧ intTag h 0 2 ∧ h.vl ≠ 0) ∧
    (Issues (.vpush 3 1 2 false false false) (one e) e ∧ movable e 0 1 ∧ intTag e 0 2 ∧ e.vl = 0) ∧
    (Issues (.vacc 4 1 5 false) (one f) f ∧ arithTag f 0 1 ∧ arithTag f 0 (nextReg 1) ∧
      floats (f.kind 0 1) = true ∧ floats (f.kind 0 (nextReg 1)) = true) :=
  ⟨rfl, ⟨_, issues_one (by decide), rfl, bits_of (by decide), by decide⟩,
   ⟨_, issues_one (by decide), rfl, ⟨bits_of (by decide), by decide⟩, arith_of (by decide), by decide⟩,
   ⟨_, _, _, issues_one (by decide), rfl, ⟨bits_of (by decide), by decide⟩, arith_of (by decide), by decide⟩,
   ⟨issues_one (by decide), ⟨bits_of (by decide), by decide⟩, ⟨arith_of (by decide), by decide⟩, by decide⟩,
   ⟨issues_one (by decide), ⟨bits_of (by decide), by decide⟩, ⟨arith_of (by decide), by decide⟩, by decide⟩,
   issues_one (by decide), arith_of (by decide), arith_of (by decide), by decide⟩

/-- R187: two elements that name one position leave the later's value there and report the earlier; one that names no
position is reported; a position that none names keeps its value. -/
theorem test_vpush :
    let h : Hart := { withV (withV (tagged 3 4) 1 4 [7, 8, 9]) 2 4 [2, 2, 5] with vrows := 1, vcols := 3 }
    vAfter (.vpush 3 1 2 false false false) (withV h 3 4 [1, 2, 3]) 3 3 = some [1, 2, 8] ∧
    (after (.vpush 3 1 2 false false false) h).map (fun h => (List.range 3).map (h.mask 0 11)) =
      some [true, false, true] := by decide

/-- What `VectorLoads` and `VectorStores` ask of a hart and an instruction over register r. -/
structure MemoryReady (s : State) (h : Hart) (i : Instr) (r : VReg) : Prop where
  issues : Issues i s h
  stop : h.stopAt = none
  free : NoTransfers h
  some_ : h.vl ≠ 0
  tag : bitsTag h 0 r

/-- The same as one truth value. -/
def memoryReady (h : Hart) (i : Instr) (r : VReg) : Bool :=
  issuable i h && decide (h.stopAt = none) && (List.finRange 16).all (fun t => !(h.tags[t]).isBusy) && h.vl != 0 &&
  (bitsUse h 0 r).all (·.2)

theorem ready_in {s : State} {h : Hart} {i : Instr} {r : VReg} (ht : s.harts[s.cur]? = some h)
    (hh : memoryReady h i r = true) : MemoryReady s h i r := by
  simp only [memoryReady, Bool.and_eq_true, decide_eq_true_eq, bne_iff_ne] at hh
  obtain ⟨⟨⟨⟨h1, h2⟩, h3⟩, h4⟩, h5⟩ := hh
  exact ⟨issues_in ht h1, h2, noTransfers_of h3, h4, h5⟩

/-- The elements of a load pass. -/
def MetLoad (s : State) (h : Hart) (i : Instr) : Prop :=
  ∃ (A : Access) (c : Ctx), MemoryReady s h i A.reg ∧ vloadForm h 0 i = some A ∧ h.blocked (h.kind 0 A.reg) = false ∧
    A.ok ∧ loadAll 0 (h.kind 0 A.reg) A (zOf h 0 A.reg) (activeFrom h 0 A.m) ⟨h, s⟩ = some c

/-- The elements of a store pass, and no two share a byte where it is unordered. -/
def MetStore (s : State) (h : Hart) (i : Instr) : Prop :=
  ∃ (A : Access) (c : Ctx), MemoryReady s h i A.reg ∧ vstoreForm h 0 i = some A ∧ h.blocked (h.kind 0 A.reg) = false ∧
    A.ok ∧ storeAll A (zOf h 0 A.reg) (wholeRange h A (zOf h 0 A.reg) (A.addr 0)) (h.elem 0 (h.kind 0 A.reg) A.reg) []
      (activeFrom h 0 A.m) ⟨h, s⟩ = some c

theorem met_load {h : Hart} {i : Instr} {A : Access} (hf : vloadForm h 0 i = some A) (hok : A.ok)
    (hh : (memoryReady h i A.reg && !h.blocked (h.kind 0 A.reg)) = true)
    (hc : (loadAll 0 (h.kind 0 A.reg) A (zOf h 0 A.reg) (activeFrom h 0 A.m) ⟨h, one h⟩).isSome = true) :
    MetLoad (one h) h i := by
  obtain ⟨c, hc⟩ := Option.isSome_iff_exists.1 hc
  simp only [Bool.and_eq_true, Bool.not_eq_true'] at hh
  exact ⟨A, c, ready_in rfl hh.1, hf, hh.2, hok, hc⟩

theorem met_store {h : Hart} {i : Instr} {A : Access} (hf : vstoreForm h 0 i = some A) (hok : A.ok)
    (hh : (memoryReady h i A.reg && !h.blocked (h.kind 0 A.reg)) = true)
    (hc : (storeAll A (zOf h 0 A.reg) (wholeRange h A (zOf h 0 A.reg) (A.addr 0))
      (h.elem 0 (h.kind 0 A.reg) A.reg) [] (activeFrom h 0 A.m) ⟨h, one h⟩).isSome = true) :
    MetStore (one h) h i := by
  obtain ⟨c, hc⟩ := Option.isSome_iff_exists.1 hc
  simp only [Bool.and_eq_true, Bool.not_eq_true'] at hh
  exact ⟨A, c, ready_in rfl hh.1, hf, hh.2, hok, hc⟩

/-- Two elements; V1 at the end of the scratchpad by the unit mode, and words apart by the others. -/
def moving : Hart := { withX (withV (tagged 3 4) 2 4 [0x10, 0x20]) [(2, 0x7FF0), (5, 16), (6, 0x100), (7, 0x7FF8),
    (8, 0x800000), (9, 0x40000000)] with
  vrows := 1
  vcols := 2 }

/-- Two blocks of a blocked register, its image in the scratchpad's last bytes. -/
def blockHart : Hart := { withX (tagged 0x10 0x0D) [(2, 0x7FC0)] with vrows := 1, vcols := 32 }

theorem witness_VectorLoads :
    (MetLoad (one moving) moving (.vld 1 2 false) ∧ MetLoad (one moving) moving (.vldO 1 2 false) ∧
      MetLoad (one moving) moving (.vlds 1 6 5 false) ∧ MetLoad (one moving) moving (.vldsO 1 6 5 true) ∧
      MetLoad (one moving) moving (.vldx 1 6 2 false false) ∧ MetLoad (one moving) moving (.vldxO 1 6 2 true true)) ∧
    (∃ A, vloadForm moving 0 (.vld 1 7 false) = some A ∧ MemoryReady (one moving) moving (.vld 1 7 false) A.reg ∧
      activeFrom moving 0 A.m = [0] ++ 1 :: [] ∧ zOf moving 0 A.reg = 8 ∧
      ∃ c, loadAll 0 (moving.kind 0 A.reg) A 8 [0] ⟨moving, one moving⟩ = some c ∧
        ∃ f c', c.checked (A.addr 1) 8 .load none = .error (.fault f c')) ∧
    (∃ A, vloadForm moving 0 (.vld 1 8 false) = some A ∧ activeFrom moving 0 A.m = [] ++ 0 :: [1] ∧
      Ctx.checked ⟨moving, one moving⟩ (A.addr 0) 8 .load none = .ok (.sdata 0, ⟨moving, one moving⟩)) ∧
    (∃ A, vloadForm moving 0 (.vld 1 9 false) = some A ∧
      MemoryReady (withHost moving) moving (.vld 1 9 false) A.reg ∧
      ∃ sent c, Ctx.checked ⟨moving, withHost moving⟩ (A.addr 0) 8 .load none = .error (.wait sent c)) ∧
    (∃ A, vloadForm blockHart 0 (.vld 1 2 false) = some A ∧
      MemoryReady (one blockHart) blockHart (.vld 1 2 false) A.reg ∧ blockHart.blocked (blockHart.kind 0 A.reg) = true ∧
      A.unit = true ∧ A.addr 0 % 4 = 0 ∧
      ∃ c, loadBlocks 0 A.reg (blockHart.kw (blockHart.kind 0 A.reg)) (A.addr 0)
        (fun e => decide (blockHart.vstart ≤ e) && blockHart.active 0 A.m e) (blocksFrom blockHart 0 A.m)
        ⟨blockHart, one blockHart⟩ = some c) := by
  refine ⟨⟨met_load rfl trivial ?_ ?_, met_load rfl trivial ?_ ?_, met_load rfl trivial ?_ ?_,
      met_load rfl trivial ?_ ?_, met_load rfl ⟨arith_of ?_, ?_⟩ ?_ ?_, met_load rfl ⟨arith_of ?_, ?_⟩ ?_ ?_⟩,
    ⟨_, rfl, ready_in rfl ?_, ?_, ?_, _, rfl, exists_fault ?_⟩, ⟨_, rfl, ?_, rfl⟩,
    ⟨_, rfl, ready_in rfl ?_, is_wait ?_⟩,
    _, rfl, ready_in rfl ?_, ?_, rfl, ?_, Option.isSome_iff_exists.1 ?_⟩ <;> decide +kernel

/-- A store into a compressed sector that grows into a poisoned second sector. -/
def growing (h : Hart) : State := { withPacked h with poison := [0x100001] }

theorem witness_VectorStores :
    (MetStore (one moving) moving (.vst 1 2 false false) ∧ MetStore (one moving) moving (.vstO 1 2 true false) ∧
      MetStore (one moving) moving (.vsts 1 6 5 false false) ∧ MetStore (one moving) moving (.vstsO 1 6 5 false true) ∧
      MetStore (one moving) moving (.vstx 1 6 2 false false) ∧
      MetStore (one moving) moving (.vstxO 1 6 2 true true)) ∧
    (∃ A, vstoreForm moving 0 (.vst 1 7 false false) = some A ∧
      MemoryReady (one moving) moving (.vst 1 7 false false) A.reg ∧
      ∃ c, storeAll A 8 (wholeRange moving A 8 (A.addr 0)) (moving.elem 0 (moving.kind 0 A.reg) A.reg) [] [0]
          ⟨moving, one moving⟩ = some c ∧ c.h.noAck = false ∧
        ∃ f c', c.checked (A.addr 1) 8 .store (wholeRange moving A 8 (A.addr 0)) = .error (.fault f c')) ∧
    (let h := withX (withV moving 1 4 [0x123456789ABCDEF, 0x76543210FEDCBA9]) [(9, 0x40000010)]
     ∃ A, vstoreForm h 0 (.vst 1 9 false false) = some A ∧ MemoryReady (growing h) h (.vst 1 9 false false) A.reg ∧
      activeFrom h 0 A.m = [] ++ 0 :: [1] ∧ A.ordered = false ∧
      (∃ pa c, Ctx.checked ⟨h, growing h⟩ (A.addr 0) 8 .store (wholeRange h A 8 (A.addr 0)) =
        .ok (.packed pa 0x10, c)) ∧
      ∃ f c', Ctx.checkedStore ⟨h, growing h⟩ (A.addr 0) 8 .store (wholeRange h A 8 (A.addr 0))
        (fun _ _ => h.elem 0 (h.kind 0 A.reg) A.reg 0) = .error (.fault f c')) ∧
    (∃ A, vstoreForm moving 0 (.vst 1 8 false false) = some A ∧
      Ctx.checked ⟨moving, one moving⟩ (A.addr 0) 8 .store (wholeRange moving A 8 (A.addr 0)) =
        .ok (.sdata 0, ⟨moving, one moving⟩)) ∧
    (∃ A, vstoreForm moving 0 (.vst 1 9 false false) = some A ∧
      MemoryReady (withHost moving) moving (.vst 1 9 false false) A.reg ∧
      ∃ sent c, Ctx.checked ⟨moving, withHost moving⟩ (A.addr 0) 8 .store (wholeRange moving A 8 (A.addr 0)) =
        .error (.wait sent c)) ∧
    (∃ A, vstoreForm blockHart 0 (.vst 1 2 false false) = some A ∧
      MemoryReady (one blockHart) blockHart (.vst 1 2 false false) A.reg ∧
      blockHart.blocked (blockHart.kind 0 A.reg) = true ∧ A.unit = true ∧ A.addr 0 % 4 = 0 ∧
      ∃ c, storeBlocks blockHart 0 A.reg (blockHart.kw (blockHart.kind 0 A.reg)) (A.addr 0) A.m
        (blocksFrom blockHart 0 A.m) ⟨blockHart, one blockHart⟩ = some c) := by
  refine ⟨⟨met_store rfl trivial ?_ ?_, met_store rfl trivial ?_ ?_, met_store rfl trivial ?_ ?_,
      met_store rfl trivial ?_ ?_, met_store rfl ⟨arith_of ?_, ?_⟩ ?_ ?_, met_store rfl ⟨arith_of ?_, ?_⟩ ?_ ?_⟩,
    ⟨_, rfl, ready_in rfl ?_, _, rfl, ?_, exists_fault ?_⟩,
    ⟨_, rfl, ready_in rfl ?_, ?_, rfl, ⟨0x2000000, exists_packed ?_⟩, exists_fault ?_⟩, ⟨_, rfl, rfl⟩,
    ⟨_, rfl, ready_in rfl ?_, is_wait ?_⟩,
    _, rfl, ready_in rfl ?_, ?_, rfl, ?_, Option.isSome_iff_exists.1 ?_⟩ <;> decide +kernel

/-- VL = 0; a blocked register by another mode than the unit one, and at an odd base; VPREF. -/
theorem witness_VectorMemoryCorners :
    let e : Hart := { tagged 3 4 with vcols := 0 }
    let b : Hart := { withX (tagged 0x10 0x0D) [(2, 0x101)] with vrows := 1 }
    (∃ A, Issues (.vld 1 2 false) (one e) e ∧ vloadForm e 0 (.vld 1 2 false) = some A ∧ bitsTag e 0 1 ∧ A.ok ∧
      e.vl = 0 ∧ A.unit = true) ∧
    (∃ A, Issues (.vstx 1 2 3 true false) (one e) e ∧ vstoreForm e 0 (.vstx 1 2 3 true false) = some A ∧
      bitsTag e 0 1 ∧ A.ok ∧ e.vl = 0 ∧ e.blocked (e.kind 0 1) = false) ∧
    (∃ A, Issues (.vlds 1 2 3 false) (one b) b ∧ vloadForm b 0 (.vlds 1 2 3 false) = some A ∧ bitsTag b 0 1 ∧ A.ok ∧
      A.unit = false ∧ b.blocked (b.kind 0 1) = true ∧ b.looseTags (.vlds 1 2 3 false) = []) ∧
    (∃ A, Issues (.vst 1 2 false false) (one b) b ∧ vstoreForm b 0 (.vst 1 2 false false) = some A ∧ bitsTag b 0 1 ∧
      A.ok ∧ b.vl ≠ 0 ∧ A.unit = true ∧ A.addr 0 % 4 ≠ 0) ∧
    Issues (.vpref 2) (one e) e := by
  refine ⟨⟨_, issues_one (by decide), rfl, bits_of (by decide), trivial, by decide⟩,
    ⟨_, issues_one (by decide), rfl, bits_of (by decide), ⟨arith_of (by decide), by decide⟩, by decide⟩,
    ⟨_, issues_one (by decide), rfl, bits_of (by decide), trivial, by decide⟩,
    ⟨_, issues_one (by decide), rfl, bits_of (by decide), trivial, by decide⟩, issues_one (by decide)⟩

/-- Offsets 0x10 and 0xFF8, the last word of a lane's slice; then an offset one word past it, one below it, and one
that is not aligned. -/
def laned (second : Nat) : Hart :=
  { withV (tagged 3 4) 2 4 [0x10, second] with
    vrows := 1
    vcols := 2 }

/-- A record at 0x100 of one row of four columns with one element, packed at 0x200; the one at 0x130 has its counts
in the word at 0x210; the one at 0x160 is empty; those at 0x190, 0x1C0 and 0x220 have a misaligned bitmap, one row too
many and one element too many; those at 0x250 and 0x280 have their counts and their bitmap where no vector reads. -/
def sparseHart : Hart :=
  let h := withX { hart with vcols := 4 } [(1, 0x100), (2, 0x130), (4, 0x108), (5, 0x160), (6, 0x190), (7, 0x1C0),
    (8, 0x220), (9, 0x7FE0), (10, 0x250), (11, 0x280)]
  let word := fun (m : Memory) (p : Nat × Nat) => m.writeLe p.1 8 p.2
  { h with scratch := [(0x100, 0x200), (0x108, 0x208), (0x110, 8), (0x120, 0x401_0000_0001),
    (0x130, 0x200), (0x138, 0x208), (0x140, 8), (0x148, 0x210), (0x150, 0x401_0000_0000),
    (0x190, 0x200), (0x198, 0x204), (0x1A0, 8), (0x1B0, 0x401_0000_0001),
    (0x1C0, 0x200), (0x1C8, 0x208), (0x1D0, 8), (0x1E0, 0x402_0000_0001),
    (0x220, 0x200), (0x228, 0x208), (0x230, 8), (0x240, 0x401_0000_0002),
    (0x250, 0x200), (0x258, 0x208), (0x260, 8), (0x268, 0x800000), (0x270, 0x401_0000_0000),
    (0x280, 0x200), (0x288, 0x10000), (0x290, 8), (0x2A0, 0x401_0000_0001),
    (0x200, 0x55), (0x208, 2), (0x210, 0x1_0000_0001)].foldl word h.scratch }

/-- The record of a sparse load at `base`. -/
def recordAt (h : Hart) (base : Nat) : ShapeRec := shapeOf (h.scratch.readLe 0 base 48)

/-- Its counts and where they are read from. -/
def countsAt (h : Hart) (base : Nat) (held : Bool) : Option (Nat × Nat × Ctx) :=
  let r := recordAt h base
  if held then
    match Ctx.vload ⟨h, one h⟩ r.rcptr 8 with
    | .ok (v, c) => some (v % 2 ^ 32, v / 2 ^ 32, c)
    | .error _ => none
  else some (r.brows, r.nval, ⟨h, one h⟩)

/-- The record is admitted and aligned, the bitmap read, its set bits `more` than the count, and the elements pass. -/
def sparseRuns (h : Hart) (d : VReg) (base : Nat) (m held : Bool) (more : Bool) : Bool :=
  let r := recordAt h base
  match countsAt h base held with
  | some (rows, count, c) =>
    decide (rows ≤ r.brows) && decide (rows ≤ h.vrows) &&
    match c.bitmapRows r h.vcols rows with
    | .ok (bits, c') =>
      if more then (bits.filter id).length != count
      else (bits.filter id).length == count &&
        (sparseAll 0 d (kindOf r.vtag) (((kindOf r.vtag).width h.ew + 7) / 8) r.vbase bits
          (fun e v => if h.shapeSeen.any (fun old => old.changed (c'.seen base held (h.active 0 m) h.vstart false)) = true
            then (Config.undefWord 0 (2000000 + e)).toNat else v)
          (activeFrom h 0 m) { c' with h := c'.h.setTag d r.vtag }).isSome
    | .error _ => false
  | none => false

/-- Where a sparse load gets to once its record is admitted and aligned. -/
def SparseRuns (h : Hart) (d : VReg) (base : Nat) (m held : Bool) (more : Bool) : Prop :=
  ∃ (rows count : Nat) (c : Ctx), countsAt h base held = some (rows, count, c) ∧
    rows ≤ (recordAt h base).brows ∧ rows ≤ h.vrows ∧
    ∃ (bits : List Bool) (c' : Ctx), c.bitmapRows (recordAt h base) h.vcols rows = .ok (bits, c') ∧
      (more = true → (bits.filter id).length ≠ count) ∧
      (more = false → (bits.filter id).length = count ∧ ∃ (k : Kind) (z : Nat) (val : Nat → Nat → Nat)
        (e' : Ctx), k = kindOf (recordAt h base).vtag ∧ z = (k.width h.ew + 7) / 8 ∧
        (val = fun e v => if h.shapeSeen.any (fun old =>
            old.changed (c'.seen base held (h.active 0 m) h.vstart false)) = true
          then (Config.undefWord 0 (2000000 + e)).toNat else v) ∧
        sparseAll 0 d k z (recordAt h base).vbase bits val (activeFrom h 0 m)
          { c' with h := c'.h.setTag d (recordAt h base).vtag } = some e')

theorem sparse_runs {h : Hart} {d : VReg} {base : Nat} {m held more : Bool}
    (hh : sparseRuns h d base m held more = true) : SparseRuns h d base m held more := by
  unfold sparseRuns at hh
  dsimp only at hh
  split at hh
  · rename_i rows count c hc
    split at hh
    · rename_i bits c' hb
      simp only [Bool.and_eq_true, decide_eq_true_eq] at hh
      refine ⟨rows, count, c, hc, hh.1.1, hh.1.2, bits, c', hb, fun hm => ?_, fun hm => ?_⟩
      · simpa [hm] using hh.2
      · have h2 := hh.2
        rw [hm] at h2
        simp only [Bool.false_eq_true, if_false, Bool.and_eq_true, beq_iff_eq] at h2
        obtain ⟨e', he⟩ := Option.isSome_iff_exists.1 h2.2
        exact ⟨h2.1, _, _, _, e', rfl, rfl, rfl, he⟩
    · simp at hh
  · cases hh

theorem witness_SpecialLoads :
    (let h := laned 0xFF8
     h.stopAt = none ∧ laneTags h 0 1 2 ∧ Issues (.vldt 1 2 0 false false) (one h) h ∧
     Issues (.vstt 1 2 0 false false) (one h) h ∧
     ∀ e : Nat, e ∈ activeFrom h 0 false → laneOk (laneOffset h 0 2 0 e) 8) ∧
    (∀ o : Nat, o = 0x1000 ∨ o = 2 ^ 64 - 8 ∨ o = 0xFF4 →
     let h := laned o
     laneTags h 0 1 2 ∧ Issues (.vldt 1 2 0 false false) (one h) h ∧ Issues (.vstt 1 2 0 false false) (one h) h ∧
     activeFrom h 0 false = [0] ++ 1 :: [] ∧ (∀ j : Nat, j ∈ [0] → laneOk (laneOffset h 0 2 0 j) 8) ∧
     ¬ laneOk (laneOffset h 0 2 0 1) 8) ∧
    (let h := sparseHart
     let e : Hart := { h with vcols := 0 }
     h.stopAt = none ∧ h.blk = 0 ∧ NoTransfers h ∧ h.vl ≠ 0 ∧
     Issues (.vldsp 3 1 false) (one h) h ∧ Issues (.vldsh 3 2 true) (one h) h ∧
     (Issues (.vldsp 3 1 false) (one e) e ∧ e.vl = 0) ∧
     (Issues (.vldsh 3 4 false) (one h) h ∧ h.getU 4 % 16 ≠ 0) ∧
     (Issues (.vldsp 3 9 false) (one h) h ∧ h.getU 9 % 16 = 0 ∧ h.scratchSize < h.getU 9 + 48) ∧
     (Issues (.vldsp 3 5 false) (one h) h ∧ h.getU 5 + 48 ≤ h.scratchSize ∧ badRecord h (recordAt h 0x160) false) ∧
     (Issues (.vldsp 3 6 false) (one h) h ∧ badAddress (recordAt h 0x190) false 8 = some 0x204 ∧
       ((kindOf (recordAt h 0x190).vtag).width h.ew + 7) / 8 = 8) ∧
     (∀ (r : XReg) (base : Nat) (held : Bool), (r, base, held) ∈ [((1 : XReg), 0x100, false), (2, 0x130, true),
         (6, 0x190, false), (7, 0x1C0, false), (8, 0x220, false), (10, 0x250, true), (11, 0x280, false)] →
       h.getU r = base ∧ base % 16 = 0 ∧ base + 48 ≤ h.scratchSize ∧ ¬ badRecord h (recordAt h base) held) ∧
     (∀ (base : Nat) (held : Bool), (base, held) ∈ [(0x100, false), (0x130, true), (0x1C0, false), (0x220, false),
         (0x250, true), (0x280, false)] →
       badAddress (recordAt h base) held 8 = none) ∧
     ((recordAt h 0x1C0).brows = 2 ∧ h.vrows < 2) ∧
     (Issues (.vldsh 3 10 false) (one h) h ∧ ∃ f c, Ctx.vload ⟨h, one h⟩ (recordAt h 0x250).rcptr 8 = .error (.fault f c)) ∧
     (Issues (.vldsp 3 11 false) (one h) h ∧ (recordAt h 0x280).brows ≤ h.vrows ∧
       ∃ f c, Ctx.bitmapRows ⟨h, one h⟩ (recordAt h 0x280) h.vcols (recordAt h 0x280).brows = .error (.fault f c)) ∧
     SparseRuns h 3 0x220 false false true ∧
     SparseRuns h 3 0x100 false false false ∧ SparseRuns h 3 0x130 true true false) := by
  refine ⟨⟨rfl, ⟨bits_of ?_, ?_, arith_of ?_, ?_⟩, issues_one ?_, issues_one ?_, ?_⟩, ?_,
    rfl, ?_, noTransfers_of ?_, ?_, issues_one ?_, issues_one ?_, ⟨issues_one ?_, ?_⟩, ⟨issues_one ?_, ?_⟩,
    ⟨issues_one ?_, ?_⟩, ⟨issues_one ?_, ?_, ?_⟩, ⟨issues_one ?_, ?_, ?_⟩, ?_, ?_, ?_,
    ⟨issues_one ?_, exists_fault ?_⟩, ⟨issues_one ?_, ?_, exists_fault ?_⟩, sparse_runs ?_, sparse_runs ?_,
    sparse_runs ?_⟩
  all_goals first
    | decide +kernel
    | (unfold laneOk; decide)
    | (unfold badRecord; decide +kernel)
    | (intro r base held hm
       simp only [List.mem_cons, Prod.mk.injEq, List.not_mem_nil, or_false] at hm
       rcases hm with ⟨rfl, rfl, rfl⟩ | ⟨rfl, rfl, rfl⟩ | ⟨rfl, rfl, rfl⟩ | ⟨rfl, rfl, rfl⟩ | ⟨rfl, rfl, rfl⟩ |
         ⟨rfl, rfl, rfl⟩ | ⟨rfl, rfl, rfl⟩ <;> (unfold badRecord; decide +kernel))
    | (intro base held hm
       simp only [List.mem_cons, Prod.mk.injEq, List.not_mem_nil, or_false] at hm
       rcases hm with ⟨rfl, rfl⟩ | ⟨rfl, rfl⟩ | ⟨rfl, rfl⟩ | ⟨rfl, rfl⟩ | ⟨rfl, rfl⟩ | ⟨rfl, rfl⟩ <;> decide +kernel)
    | (rintro o (rfl | rfl | rfl) <;>
       refine ⟨⟨bits_of ?_, ?_, arith_of ?_, ?_⟩, issues_one ?_, issues_one ?_, ?_, ?_, ?_⟩ <;>
       first | decide | (unfold laneOk; decide))

theorem plain_of {h : Hart} {F : Element}
    (hh : (decide (h.stopAt = none) && F.checks.all (·.2) && h.fpcsr == 0 && h.rm != 5) = true) : Plain h F := by
  simp only [Bool.and_eq_true, decide_eq_true_eq, beq_iff_eq, bne_iff_ne] at hh
  exact ⟨hh.1.1.1, hh.1.1.2, fun _ => hh.2, fun _ _ => quiet hh.1.2 _⟩

/-- A form of each family that the frame covers, and one that completes outside a replay. -/
theorem witness_VectorRegisterFrame :
    (∃ F, Issues (.vadd 3 1 2 true true true) (one hart) hart ∧ arithForm hart 0 (.vadd 3 1 2 true true true) = some F) ∧
    (∃ F, Issues (.vabs 3 1 true true) (one hart) hart ∧ signForm hart 0 (.vabs 3 1 true true) = some F) ∧
    (∃ F, Issues (.vnot 3 1 true true) (one hart) hart ∧ bitsForm hart 0 (.vnot 3 1 true true) = some F) ∧
    (∃ F, Issues (.vidx 3 true) (one hart) hart ∧ scalarForm hart 0 (.vidx 3 true) = some F) ∧
    (∃ F, Issues (.vnarrow 3 4 true true) (one hart) hart ∧ wideForm hart 0 (.vnarrow 3 4 true true) = some F) ∧
    (∃ F, Issues (.mnot 3 1 true) (one hart) hart ∧ maskForm hart 0 (.mnot 3 1 true) = some F) ∧
    (∃ F, Issues (.vrndf 3 1 true) (one hart) hart ∧ randomForm hart 0 (.vrndf 3 1 true) = some F) ∧
    (∃ F, Issues (.vadd 3 1 2 false false false) (one (tagged 3 4)) (tagged 3 4) ∧
      arithForm (tagged 3 4) 0 (.vadd 3 1 2 false false false) = some F ∧ Plain (tagged 3 4) F ∧
      (tagged 3 4).replay = none ∧ F.vs = [3] ∧ F.ms = []) :=
  ⟨⟨_, issues_one (by decide), rfl⟩, ⟨_, issues_one (by decide), rfl⟩, ⟨_, issues_one (by decide), rfl⟩,
   ⟨_, issues_one (by decide), rfl⟩, ⟨_, issues_one (by decide), rfl⟩, ⟨_, issues_one (by decide), rfl⟩,
   ⟨_, issues_one (by decide), rfl⟩,
   _, issues_one (by decide), rfl, plain_of (by decide), rfl, rfl, rfl⟩

/-- An answer is a next state. -/
theorem exists_next {r : Result} (h : (match r with | .next _ => true | _ => false) = true) : ∃ t, r = .next t := by
  cases r with
  | next t => exact ⟨t, rfl⟩
  | fault f => cases h
  | refused f => cases h

theorem witness_ScalarRegisterFrame :
    (Issues (.mulh 3 1 2) (one hart) hart ∧ hart.stopAt = none ∧ hart.replay = none ∧
      intResult hart (.mulh 3 1 2) = some (3, 0) ∧ ∃ t, exec (.mulh 3 1 2) (one hart) = .next t) ∧
    (Issues (.fadd 3 1 2 true) (one hart) hart ∧ fpResult hart (.fadd 3 1 2 true) = some (3, (0, 0)) ∧
      hart.enabledFlag 0 = none ∧ ∃ t, exec (.fadd 3 1 2 true) (one hart) = .next t) :=
  ⟨⟨issues_one (by decide), rfl, rfl, by decide, exists_next (by decide)⟩,
   issues_one (by decide), by decide +kernel, by decide, exists_next (by decide +kernel)⟩

/-- A hart with a descriptor in slot 0 and two elements of one tag in V1 and V2. -/
def shafted (w tag x y : Nat) : Hart :=
  let h := withV (withV hart 1 tag [x, x]) 2 tag [y, y]
  { h with
    vcols := 2
    fpcsr := 0x3E0
    pseq := 0x1_0000_0000
    op := h.op.set 0 (some (BitVec.ofNat 64 w)) }

/-- What `OperatorPasses` asks of a pass under descriptor w that runs: its count, its tags, its rounding. -/
def MetPass (h : Hart) (i : Instr) (w : Word) (F : PassForm) : Prop :=
  Issues i (one h) h ∧ passForm h 0 i = some F ∧ h.op[F.slot] = some w ∧ F.count ∧
    admitted (passChecks h 0 F w.toNat) ∧ (passRounds w.toNat → h.rm ≠ 5)

theorem met_pass {h : Hart} {i : Instr} {w : Word} {F : PassForm} (hf : passForm h 0 i = some F) (hc : F.count)
    (hh : (issuable i h && decide (h.op[F.slot] = some w) && (passChecks h 0 F w.toNat).all (·.2) && h.rm != 5) = true) :
    MetPass h i w F := by
  simp only [Bool.and_eq_true, decide_eq_true_eq, bne_iff_ne] at hh
  obtain ⟨⟨⟨h1, h2⟩, h3⟩, h4⟩ := hh
  exact ⟨issues_one h1, hf, h2, hc, h3, fun _ => h4⟩

/-- A pass of slot 0 that is refused after its operator is found: for its count (none), RM = 5 (0) or its tags (n). -/
def RefusedPass (h : Hart) (i : Instr) (w : Word) (n : Option Nat) : Prop :=
  ∃ F, Issues i (one h) h ∧ passForm h 0 i = some F ∧ h.op[F.slot] = some w ∧
    match n with
    | none => ¬ F.count
    | some 0 => F.count ∧ h.looseTags i = [] ∧ passRounds w.toNat ∧ h.rm = 5
    | some n => F.count ∧ h.looseTags i = [] ∧ h.rm ≠ 5 ∧ refusedFor (passChecks h 0 F w.toNat) n

/-- An empty slot; CMPX over I64 in one stage, under VL = 0, told to stop after a stage and before the first; a scan of
F64 whose sum is not exact; the refusals: a count of 0 and of 9, RM = 5, a tag that is not the descriptor's. -/
theorem witness_OperatorPasses :
    let h := shafted 0x1040 4 7 5
    let x := shafted 0x30C1 0x0C 0x3FF0000000000000 0x3C90000000000000
    let e : Hart := { h with vcols := 0 }
    let s : Hart := { h with stopAt := some 1 }
    let b : Hart := { h with stopAt := some 0 }
    (∃ F, Issues (.pass 1 2 1 0 0 false .none) (one h) h ∧ passForm h 0 (.pass 1 2 1 0 0 false .none) = some F ∧
      h.op[F.slot] = none) ∧
    (∃ F, MetPass h (.passk 1 2 3 0) 0x1040 F ∧ h.vl ≠ 0 ∧ h.stopAt = none ∧
      ∃ h', stagesOf ⟨0, 1, 2, 0x1040⟩ F.kb F.k (F.stages.drop (passFrom h F.slot)) h = some h') ∧
    (∃ F, MetPass e (.pass 1 2 0 0 0 false .all) 0x1040 F ∧ e.vl = 0) ∧
    (∃ F n flag, MetPass x (.pass 1 2 0 0 0 false .none) 0x30C1 F ∧ x.vl ≠ 0 ∧ x.stopAt = none ∧
      F.stages.drop (passFrom x F.slot) = [] ++ 0 :: [] ∧ stagesOf ⟨0, 1, 2, 0x30C1⟩ F.kb F.k [] x = some x ∧
      nodesOf x.vl 0 F.kb F.k = [] ++ n :: [] ∧ x.enabledFlag (nodeOf ⟨0, 1, 2, 0x30C1⟩ x n).1 = some flag) ∧
    (∃ F, MetPass s (.pass 1 2 0 0 1 false .bit) 0x1040 F ∧ s.vl ≠ 0 ∧ s.stopAt = some 1 ∧
      passFrom s F.slot < 1 ∧ 1 < F.stages.length ∧
      ∃ h', stagesOf ⟨0, 1, 2, 0x1040⟩ F.kb F.k ((F.stages.drop (passFrom s F.slot)).take (1 - passFrom s F.slot)) s =
        some h') ∧
    (∃ F, MetPass b (.pass 1 2 0 0 1 false .bit) 0x1040 F ∧ b.vl ≠ 0 ∧ b.stopAt = some 0 ∧
      0 ≤ passFrom b F.slot ∧ passFrom b F.slot < F.stages.length) ∧
    RefusedPass { h with pseq := 0 } (.passk 1 2 3 0) 0x1040 none ∧
    RefusedPass { h with pseq := 0x9_0000_0000 } (.passk 1 2 3 0) 0x1040 none ∧
    RefusedPass { x with vtype := 163 } (.pass 1 2 0 0 0 false .none) 0x30C1 (some 0) ∧
    RefusedPass (h.setTag 1 0x0C) (.pass 1 2 0 0 0 false .none) 0x1040 (some 1) := by
  refine ⟨⟨_, issues_one (by decide), rfl, by decide⟩,
    ⟨_, met_pass rfl (by unfold PassForm.count; decide) (by decide +kernel), by decide, rfl,
      Option.isSome_iff_exists.1 (by decide +kernel)⟩,
    ⟨_, met_pass rfl trivial (by decide +kernel), by decide⟩,
    ⟨_, ⟨0, 1, false, .int 1⟩, 0, met_pass rfl trivial (by decide +kernel), by decide, rfl, by decide, rfl, rfl,
      by decide +kernel⟩,
    ⟨_, met_pass rfl trivial (by decide +kernel), by decide, rfl, by decide, by decide,
      Option.isSome_iff_exists.1 (by decide +kernel)⟩,
    ⟨_, met_pass rfl trivial (by decide +kernel), by decide, rfl, by decide, by decide⟩,
    ⟨_, issues_one (by decide), rfl, by decide +kernel, by decide⟩,
    ⟨_, issues_one (by decide), rfl, by decide +kernel, by decide⟩,
    ⟨_, issues_one (by decide), rfl, by decide +kernel, trivial, by decide, by unfold passRounds; decide, by decide⟩,
    ⟨_, issues_one (by decide), rfl, by decide +kernel, trivial, by decide, by decide, refused_of (by decide +kernel)⟩⟩

/-- An admitted descriptor and one of an unassigned kind; k = 0, 1, 64 and 65. -/
theorem witness_OperatorSlots :
    let h := withX (tagged 3 4) [(1, 0x1040), (2, 5), (5, 1), (6, 64), (7, 65)]
    (Issues (.opload 3 1 0) (one h) h ∧ loadStatus (h.getU 1) = 0) ∧
    (Issues (.opload 3 2 0) (one h) h ∧ loadStatus (h.getU 2) ≠ 0) ∧ Issues (.opqry 3 0) (one h) h ∧
    Issues (.opclr 3) (one h) h ∧
    (Issues (.vmergek 1 2 0 false false) (one h) h ∧ h.getU 0 < 1) ∧
    (Issues (.vmergek 1 2 7 false false) (one h) h ∧ 64 < h.getU 7) ∧
    (Issues (.vmergek 1 2 5 false false) (one h) h ∧ Issues (.vmergek 1 2 6 false false) (one h) h ∧
      1 ≤ h.getU 5 ∧ h.getU 6 ≤ 64 ∧ h.stopAt = none ∧ arithTag h 0 1 ∧ intTag h 0 2 ∧ (h.kind 0 1).isIN = true) :=
  ⟨⟨issues_one (by decide), by decide⟩, ⟨issues_one (by decide), by decide⟩, issues_one (by decide),
   issues_one (by decide), ⟨issues_one (by decide), by decide⟩, ⟨issues_one (by decide), by decide⟩,
   issues_one (by decide), issues_one (by decide), by decide, by decide, rfl, arith_of (by decide),
   ⟨arith_of (by decide), by decide⟩, by decide⟩

theorem scaled_of {h : Hart} {r : VReg} (hh : (scaledUse h 0 r).all (·.2) = true) : scaledTag h 0 r := hh

/-- A machine of one hart has no other. -/
theorem alone {h : Hart} {P : Nat → Hart → Prop} :
    ∀ (j : Nat) (o : Hart), (one h).harts[j]? = some o → j ≠ (one h).cur → P j o := by
  intro j o hj hne
  match j, hj, hne with
  | 0, _, hne => exact absurd rfl hne
  | j + 1, hj, _ => simp [one] at hj

/-- An attached hart of 16 rows of one type and two columns, V1 to V3 under a tag, two elements. -/
def attached (vtype tag : Nat) (typ : RowType) : Hart :=
  { withX (tagged vtype tag) [(5, 15), (6, 16)] with
    vrows := 1
    vcols := 2
    ma := true
    mgrant := 16
    mvl := 2
    bins := Vector.replicate 4 ⟨typ, 1, .const 0, List.replicate 16 ⟨[], 0⟩⟩ }

theorem witness_MatrixRows :
    let h := attached 3 4 .i32
    let p := attached 3 4 .f64
    let a := withX h [(1, 128), (2, 1), (4, 129), (7, 65), (8, 64)]
    let n : Hart := { a with ma := false }
    (Issues (.matt 3 1 2) (one a) a ∧ a.ma = true) ∧
    (Issues (.matt 3 4 2) (one n) n ∧ n.ma = false ∧
      ¬ (n.getU 4 % 16 = 0 ∧ n.getU 4 ≤ 128 ∧ 1 ≤ n.getU 2 ∧ n.getU 2 ≤ 128)) ∧
    (Issues (.matt 3 1 2) (one n) n ∧ n.getU 1 % 16 = 0 ∧ n.getU 1 ≤ 128 ∧ 1 ≤ n.getU 2 ∧ n.getU 2 ≤ 128 ∧
      ∀ (j : Nat) (o : Hart), (one n).harts[j]? = some o → j ≠ (one n).cur → o.status = .running →
        o.core / 4 = n.core / 4 → o.ma = true) ∧
    Issues .mdet (one a) a ∧ Issues .mdet (one n) n ∧ Issues (.mzro 2 .f64) (one a) a ∧
    (Issues (.masy 1 0) (one a) a ∧ a.getU 0 < 1) ∧ (Issues (.masy 1 7) (one a) a ∧ 64 < a.getU 7) ∧
    (Issues (.masy 1 2) (one p) p ∧ listType p.bins[(1 : Bin)].typ = none) ∧
    (Issues (.masy 1 8) (one a) a ∧ 1 ≤ a.getU 8 ∧ a.getU 8 ≤ 64 ∧
      listType a.bins[(1 : Bin)].typ = some .assayI32) ∧
    (Issues (.mopa 1 1 2 true false false) (one n) n ∧ matrixForm (.mopa 1 1 2 true false false) = some none) ∧
    (Issues (.mrd 1 2 6) (one h) h ∧ matrixForm (.mrd 1 2 6) = some (some 6) ∧ h.mgrant ≤ h.getU 6) :=
  ⟨⟨issues_one (by decide), rfl⟩, ⟨issues_one (by decide), rfl, by decide⟩,
   ⟨issues_one (by decide), by decide, by decide, by decide, by decide, alone⟩,
   issues_one (by decide), issues_one (by decide), issues_one (by decide), ⟨issues_one (by decide), by decide⟩,
   ⟨issues_one (by decide), by decide⟩, ⟨issues_one (by decide), by decide⟩,
   ⟨issues_one (by decide), by decide, by decide, by decide⟩, ⟨issues_one (by decide), rfl⟩,
   issues_one (by decide), rfl, by decide⟩

/-- I32 rows read into I64 and written from it; F32 rows written from F64 values, the second one inexact. -/
theorem witness_MatrixReadWrite :
    let h := attached 3 4 .i32
    let x : Hart := { withV (attached 3 0x0C .f32) 1 0x0C [0x3FF0000000000000, 0x3FF0000000000001] with fpcsr := 0x3E0 }
    (∃ C ok, Issues (.mrd 1 2 5) (one h) h ∧ columnsForm h 0 (.mrd 1 2 5) = some (5, C, ok) ∧ h.ma = true ∧
      h.getU 5 < h.mgrant ∧ ok ∧ h.rm ≠ 5 ∧ h.stopAt = none ∧
      ∀ j : Nat, j < min h.mvl h.vl → h.enabledFlag (C.result h j).2 = none) ∧
    (∃ C ok flag, Issues (.mwr 2 1 5) (one x) x ∧ columnsForm x 0 (.mwr 2 1 5) = some (5, C, ok) ∧ x.ma = true ∧
      x.getU 5 < x.mgrant ∧ ok ∧ x.rm ≠ 5 ∧ x.stopAt = none ∧ 1 < min x.mvl x.vl ∧
      (∀ j' : Nat, j' < 1 → x.enabledFlag (C.result x j').2 = none) ∧ x.enabledFlag (C.result x 1).2 = some flag) := by
  refine ⟨⟨_, _, issues_one (by decide), rfl, rfl, by decide, ⟨arith_of (by decide), .inr (.inl (by decide)),
      .inl (by decide)⟩, by decide, rfl, fun _ _ => quiet (by decide) _⟩, ?_⟩
  refine ⟨_, _, 0, issues_one (by decide), rfl, rfl, by decide, ⟨arith_of (by decide), .inl (by decide),
      by decide⟩, by decide, rfl, by decide, fun j hj => ?_, by decide +kernel⟩
  obtain rfl : j = 0 := by omega
  decide +kernel

/-- What `OuterProducts` asks of one that goes on: its tags and rounding, and a bad row, no flag enabled or one. -/
def MetOuter (h : Hart) (i : Instr) (row : Option Nat) (flag : Option Nat) : Prop :=
  ∃ F, Issues i (one h) h ∧ h.ma = true ∧ outerForm h 0 i = some F ∧ admitted F.checks ∧ h.rm ≠ 5 ∧ h.stopAt = none ∧
    F.bad.head? = row ∧ (row = none → F.bad = [] ∧ h.enabledFlag (F.flags h 0) = flag)

theorem met_outer {h : Hart} {i : Instr} {row flag : Option Nat} {F : Outer} (hf : outerForm h 0 i = some F)
    (hh : (issuable i h && h.ma && F.checks.all (·.2) && h.rm != 5 && decide (h.stopAt = none)) = true)
    (hb : F.bad.head? = row) (hr : row = none → F.bad = [] ∧ h.enabledFlag (F.flags h 0) = flag) :
    MetOuter h i row flag := by
  simp only [Bool.and_eq_true, decide_eq_true_eq, bne_iff_ne] at hh
  obtain ⟨⟨⟨⟨h1, h2⟩, h3⟩, h4⟩, h5⟩ := hh
  exact ⟨F, issues_one h1, h2, hf, h3, h4, h5, hb, hr⟩

/-- An outer product that is refused: under RM = 5 (none) or for its tags. -/
def RefusedOuter (h : Hart) (i : Instr) (n : Option Nat) : Prop :=
  ∃ F, Issues i (one h) h ∧ h.ma = true ∧ outerForm h 0 i = some F ∧ h.looseTags i = [] ∧
    match n with
    | none => (h.bins[F.bin].typ = .f32 ∨ h.bins[F.bin].typ = .f64) ∧ h.rm = 5
    | some n => h.rm ≠ 5 ∧ refusedFor F.checks n

/-- F32 rows from F16 values, no flag enabled; an inexact product under every enabled flag; I32 rows; MOPS with good
selectors, and with equal ones in row 0; F64 values into F32 rows, a scaled operand without a
scale register and one of an F64 pair, one blocked operand, MOPS of F32 values, and RM = 5. -/
theorem witness_OuterProducts :
    let h := attached 3 9 .f32
    let i := attached 3 2 .i32
    let x : Hart := { withV (attached 3 0x0B .f32) 1 0x0B [0x3F800001, 0x3F800001] with fpcsr := 0x3E0 }
    let x' := withV x 2 0x0B [0x3F800001, 0x3F800001]
    let good := withV (attached 3 9 .f32) 3 7 [0xEEEEEEEE, 0xEEEEEEEE]
    let bad := withV (attached 3 9 .f32) 3 7 [0, 0]
    MetOuter h (.mopa 2 1 2 false false false) none none ∧ MetOuter i (.mopa 1 1 2 true false false) none none ∧
    MetOuter x' (.mopa 2 1 2 false false false) none (some 0) ∧
    MetOuter good (.mops 2 1 2 3 false false false false) none none ∧
    MetOuter bad (.mops 2 1 2 3 false false false false) (some 0) none ∧
    RefusedOuter (attached 3 0x0C .f32) (.mopa 2 1 2 false false false) (some 1) ∧
    RefusedOuter (attached 11 0x0D .f32) (.mopa 2 1 2 false false false) (some 2) ∧
    RefusedOuter ((attached 11 0x0D .f64).setTag 47 0x12) (.mopa 2 1 2 false false false) (some 3) ∧
    RefusedOuter (((attached 0x13 0x0B .f32).setTag 1 9).setTag 47 0x12) (.mopa 2 1 2 false false false) (some 3) ∧
    RefusedOuter ((attached 3 0x0B .f32).setTag 3 7) (.mops 2 1 2 3 false false false false) (some 1) ∧
    RefusedOuter (attached 163 9 .f32) (.mopa 2 1 2 false false false) none := by
  refine ⟨met_outer rfl ?_ rfl fun _ => ⟨rfl, quiet (by decide) _⟩, met_outer rfl ?_ rfl fun _ => ⟨rfl, quiet (by decide) _⟩,
    met_outer rfl ?_ rfl fun _ => ⟨rfl, ?_⟩, met_outer rfl ?_ ?_ fun _ => ⟨?_, quiet (by decide) _⟩,
    met_outer rfl ?_ ?_ (fun h => nomatch h),
    ⟨_, issues_one ?_, rfl, rfl, ?_, ?_, refused_of ?_⟩, ⟨_, issues_one ?_, rfl, rfl, ?_, ?_, refused_of ?_⟩,
    ⟨_, issues_one ?_, rfl, rfl, ?_, ?_, refused_of ?_⟩, ⟨_, issues_one ?_, rfl, rfl, ?_, ?_, refused_of ?_⟩,
    ⟨_, issues_one ?_, rfl, rfl, ?_, ?_, refused_of ?_⟩, ⟨_, issues_one ?_, rfl, rfl, ?_, ?_, ?_⟩⟩ <;> decide +kernel

/-- Lists of I32 pairs, of one place; rows of another type, of MDRN's destination and of the others. -/
theorem witness_AssayLists :
    let h := attached 3 3 .assayI32
    let z : Hart := { h with vcols := 0 }
    let d : Hart := { h with bins := h.bins.set 0 ⟨.i32, 0, .const 0, []⟩ }
    let f := attached 3 3 .f32
    h.ma = true ∧ h.stopAt = none ∧ h.getU 5 < h.mgrant ∧ isList h.bins[(2 : Bin)].typ ∧
    (Issues (.masv 2 1 2 5 true false false) (one h) h ∧ arithTag h 0 1 ∧ arithTag h 0 2 ∧
      h.kind 0 1 = cellKind h.bins[(2 : Bin)].typ ∧ h.kind 0 2 = .int true 32) ∧
    (Issues (.mdrn 2 0 5) (one d) d ∧ d.bins[(2 : Bin)].typ = .assayI32 ∧ d.bins[(0 : Bin)].typ = .i32) ∧
    (Issues (.maget 1 2 3 5) (one h) h ∧ 32 ≤ h.ew ∧ h.vl ≠ 0) ∧
    (Issues (.maget 1 2 3 5) (one z) z ∧ 32 ≤ z.ew ∧ z.vl = 0) ∧ Issues (.mthr 3 2 5) (one h) h ∧
    (Issues (.mdrn 2 0 5) (one f) f ∧ ¬ ((f.bins[(2 : Bin)].typ = .assayF32 ∧ f.bins[(0 : Bin)].typ = .f32) ∨
      (f.bins[(2 : Bin)].typ = .assayI32 ∧ f.bins[(0 : Bin)].typ = .i32))) ∧
    (Issues (.mthr 3 2 5) (one f) f ∧ Issues (.maget 1 2 2 5) (one f) f ∧
      Issues (.masv 2 1 2 5 true false false) (one f) f ∧ f.getU 5 < f.mgrant ∧ ¬ isList f.bins[(2 : Bin)].typ) := by
  refine ⟨rfl, rfl, by decide, .inr (by decide), ⟨issues_one (by decide), arith_of (by decide), arith_of (by decide),
    by decide, by decide⟩, ⟨issues_one (by decide), by decide, by decide⟩, ⟨issues_one (by decide), by decide, by decide⟩,
    ⟨issues_one (by decide), by decide, by decide⟩, issues_one (by decide),
    ⟨issues_one (by decide), by decide⟩, issues_one (by decide), issues_one (by decide), issues_one (by decide),
    by decide, ?_⟩
  unfold isList
  decide

/-- Words fetched with the hart as it was. -/
def isFetched (r : Got (List (BitVec 32) × Ctx)) (h : Hart) : Bool :=
  match r with
  | .ok (_, c) => decide (c.h = h)
  | _ => false

theorem is_fetched {r : Got (List (BitVec 32) × Ctx)} {h : Hart} (hh : isFetched r h = true) :
    ∃ ws c, r = .ok (ws, c) ∧ c.h = h := by
  unfold isFetched at hh
  split at hh
  · exact ⟨_, _, rfl, of_decide_eq_true hh⟩
  · cases hh

/-- A virtual processor at a block at 0x1000000. -/
def vpOf (words : List (BitVec 32)) (idx : Nat) (state : VpState) : Vp := ⟨0x1000000, words, idx, state, [], none, none, false⟩

/-- A hart in lane-thread mode with processors, and the machine while processor 0 has its turn. -/
def laneHart (vs : List Vp) : Hart := { hart with
  lt := true
  vrows := vs.length
  vcols := 1
  run := some vs }
/-- Its machine. -/
def laneState (vs : List Vp) : State := { one (laneHart vs) with vp := some 0 }

theorem witness_LaneThreads :
    let h := withX hart [(1, 0x1000000), (2, 1), (4, 33), (5, 0x1000002), (6, 32)]
    let l : Hart := { h with lt := true }
    let n : Hart := { h with vtype := 2 }
    let f : Hart := { l with split := true, vcols := 2 }
    let z : Hart := { f with vcols := 0 }
    let v := vpOf [0] 0 .ready
    (Issues .lsplit (one l) l ∧ l.lt = true) ∧ (Issues .lsplit (one n) n ∧ n.lt = false ∧ ¬ (n.ew = 64 ∧ n.blk = 0)) ∧
    (Issues .lsplit (one h) h ∧ h.lt = false ∧ h.ew = 64 ∧ h.blk = 0) ∧
    (Issues (.vfetch 1 2) (one h) h ∧ h.split = false) ∧
    (Issues (.vfetch 1 0) (one f) f ∧ f.split = true ∧ f.getU 0 < 1) ∧ (Issues (.vfetch 1 4) (one f) f ∧ 32 < f.getU 4) ∧
    (Issues (.vfetch 1 6) (one z) z ∧ z.split = true ∧ 1 ≤ z.getU 6 ∧ z.getU 6 ≤ 32 ∧ z.vl = 0) ∧
    (Issues (.vfetch 5 2) (one f) f ∧ 1 ≤ f.getU 2 ∧ f.getU 2 ≤ 32 ∧ f.vl ≠ 0 ∧ f.getU 5 % 4 ≠ 0) ∧
    (Issues (.vfetch 1 2) (one f) f ∧ f.lt = true ∧ f.getU 1 % 4 = 0 ∧
      ∃ ws c, Ctx.fetchBlock ⟨f, one f⟩ 0 (f.getX 1) (f.getU 2) = .ok (ws, c)) ∧
    ((one h).vp = none ∧ Issues (.lfetch 1 2) (one h) h ∧ Issues .ljoin (one h) h ∧ Issues (.lvpid 3) (one h) h) ∧
    ((laneState [v]).vp = some 0 ∧ VpReady (laneState [v]) (laneHart [v]) 0 v [v]) := by
  refine ⟨⟨issues_one ?_, ?_⟩, ⟨issues_one ?_, ?_⟩, ⟨issues_one ?_, ?_⟩, ⟨issues_one ?_, ?_⟩, ⟨issues_one ?_, ?_⟩,
    ⟨issues_one ?_, ?_⟩, ⟨issues_one ?_, ?_⟩, ⟨issues_one ?_, ?_⟩,
    ⟨issues_one ?_, ?_, ?_, exists_done ?_⟩, ⟨?_, issues_one ?_, issues_one ?_, issues_one ?_⟩,
    rfl, ⟨rfl, rfl, rfl, rfl, rfl⟩⟩ <;> decide +kernel

/-- LFETCH's own operands: 0, 1, 32 and 33 words, aligned and not. -/
theorem lane_fetch_operands :
    let h := (((laneHart [vpOf [0] 0 .ready]).writeSpot 0 (vpReg 1) ((laneHart [vpOf [0] 0 .ready]).ordSpot 0) 64 0x1000000
      ).writeSpot 0 (vpReg 2) ((laneHart [vpOf [0] 0 .ready]).ordSpot 0) 64 32
      ).writeSpot 0 (vpReg 4) ((laneHart [vpOf [0] 0 .ready]).ordSpot 0) 64 33
    (h.vpX 0 0 0).toNat = 0 ∧ (h.vpX 0 0 1).toNat % 4 = 0 ∧ (h.vpX 0 0 2).toNat = 32 ∧ (h.vpX 0 0 4).toNat = 33 ∧
    (h.vpX 0 0 4).toNat % 4 ≠ 0 := by decide +kernel

/-- The word after the block's last; an integer, a floating and a branch word; a word outside the subset. -/
theorem witness_LaneSteps :
    let add : BitVec 32 := 0b000010_00011_00001_00010_00000000000
    let v := vpOf [add] 0 .ready
    let past := vpOf [add] 1 .ready
    (VpReady (laneState [past]) (laneHart [past]) 0 past [past] ∧ past.words[past.idx]? = none) ∧
    (VpReady (laneState [v]) (laneHart [v]) 0 v [v] ∧ v.words[v.idx]? = some add ∧
      decodeWord add.toNat = .instr (.add 3 1 2) ∧
      intResult ((laneHart [v]).asVp 0 0 v) (.add 3 1 2) = some (3, 0)) ∧
    (∀ off : BitVec 13, off = 0 ∨ off = 1 →
      branchForm ((laneHart [v]).asVp 0 0 v) (.beq 1 2 off) = some (off, true) ∧
      branchForm ((laneHart [v]).asVp 0 0 v) (.bne 1 2 off) = some (off, false)) ∧
    (((laneHart [v]).asVp 0 0 v).pc + 4 * (0 : BitVec 13).signExtend 64 - v.block).toNat < 4 * v.words.length ∧
    4 * v.words.length ≤ (((laneHart [v]).asVp 0 0 v).pc + 4 * (1 : BitVec 13).signExtend 64 - v.block).toNat ∧
    fpResult ((laneHart [v]).asVp 0 0 v) (.fadd 3 1 2 false) = some (3, (0, 0)) ∧
    (laneHart [v]).enabledFlag 0 = none ∧ ({ laneHart [v] with fpcsr := 0x3E0 } : Hart).enabledFlag 0x1F ≠ none ∧
    ¬ vpActs ((laneHart [v]).asVp 0 0 v) .nop := by
  refine ⟨⟨⟨rfl, rfl, rfl, rfl, rfl⟩, rfl⟩, ⟨⟨rfl, rfl, rfl, rfl, rfl⟩, rfl, ?_, ?_⟩, ?_, ?_, ?_, ?_, ?_, ?_, ?_⟩
  all_goals first
    | decide +kernel
    | rintro off (rfl | rfl)
    | (rintro (h | h | h | h | h)
       · exact absurd h (by decide)
       · exact absurd h (by decide)
       · exact absurd h (by decide)
       · exact absurd h.1 (by decide)
       · exact absurd h.1 (by decide))

/-- A load in the local window and one of generic memory; a store likewise; the lane table at the last word of the
slice, past it, with m set and with a register above 31. -/
theorem witness_LaneMemory :
    let v := vpOf [0] 0 .ready
    let h := laneHart [v]
    let h' := h.asVp 0 0 v
    let g := (withX h' [(1, 0x1000010)])
    let o := (withX h' [(2, 0xFF8)])
    VpReady (laneState [v]) h 0 v [v] ∧ NoTransfers h ∧ vpActs h' (.ld 3 1 8) ∧ vpActs h' (.std 3 1 8) ∧
    (∃ f, loadForm h' (.ld 3 1 8) = some (3, 8, 8, f) ∧ 8 % 8 = 0 ∧ 8 < genericBase) ∧
    (storeForm h' (.std 3 1 8) = some (0, 8, 8)) ∧
    (∃ f, loadForm g (.ld 3 1 0) = some (3, 0x1000010, 8, f) ∧ genericBase ≤ 0x1000010 ∧
      ∃ pa c, Ctx.checked ⟨g, laneState [v]⟩ 0x1000010 8 .load none = .ok (.phys pa, c)) ∧
    (storeForm g (.std 3 1 0) = some (0, 0x1000010, 8) ∧
      ∃ pa c, Ctx.checkedStore ⟨g, laneState [v]⟩ 0x1000010 8 .store none (fun _ _ => 0) = .ok (.phys pa, c)) ∧
    32 ≤ (32 : VReg).val ∧ (1 : VReg).val < 32 ∧ (true || false) = true ∧
    laneOk ((o.getX 2).toInt + (o.getX 0).toInt) 8 ∧ ¬ laneOk ((o.getX 2).toInt + (o.getX 2).toInt) 8 ∧
    (∀ (q : Nat) (u : Vp), [v][q]? = some u → q ≠ 0 → ∀ j : Nat, j < 8 → (4096 * h.laneOf 0 + 0xFF8 + j) ∉ u.wrote) := by
  refine ⟨⟨rfl, rfl, rfl, rfl, rfl⟩, noTransfers_of (by decide), ?_, ?_, ⟨_, rfl, by decide, by decide⟩, by decide,
    ⟨_, rfl, by decide, exists_phys (by decide +kernel)⟩, ⟨by decide, exists_phys (by decide +kernel)⟩, by decide, by decide,
    by decide, by unfold laneOk; decide, by unfold laneOk; decide, ?_⟩
  · exact .inr (.inr (.inr (.inl ⟨by decide, by intro d a sc w h; cases h⟩)))
  · exact .inr (.inr (.inr (.inr ⟨by decide, by intro d a sc w h; cases h⟩)))
  · intro q u hq hn
    match q, hn with
    | 0, hn => exact absurd rfl hn
    | q + 1, _ => simp at hq

/-- Every processor joined; one trapped; one not done; a block that another processor of the lane holds; a block that is
fetched while the lane holds none, and one; two other blocks held. -/
theorem witness_LaneRuns :
    let j := vpOf [0] 0 .joined
    let t := vpOf [0] 0 (.trapped causeMisalign 0 5)
    let r := vpOf [0] 0 .ready
    let f := vpOf [0, 0] 0 .waitFault
    let w := vpOf [0] 0 (.waitBlock 0x1000000 1)
    let w3 := vpOf [0] 0 (.waitBlock 0x1000000 3)
    (∀ vs : List Vp, (laneState vs).harts[0]? = some (laneHart vs) ∧ (laneHart vs).status = .running ∧
      (laneHart vs).run = some vs ∧
      ({ laneState vs with input := .laneRunJoin 0 } : State).input = .laneRunJoin 0 ∧
      ({ laneState vs with input := .laneBlockReady 0 0 } : State).input = .laneBlockReady 0 0) ∧
    (∀ v : Vp, v ∈ [j, j] → v.state = .joined) ∧
    ([j, t, j] = [j] ++ t :: [j] ∧ (∀ u : Vp, u ∈ [j] → u.state = .joined) ∧ t.state = .trapped causeMisalign 0 5 ∧
      (laneHart [j, t, j]).stopAt = none) ∧
    (∃ v : Vp, v ∈ [j, r] ∧ v.state = .ready) ∧
    (let h := laneHart [w, r]
     holdsFor h [w, r] 0 1 r ∧ r.block = 0x1000000 ∧ r.words.length = 1) ∧
    (∀ vs : List Vp, vs = [w] ∨ vs = [w3, f] →
      (∀ (q q' : Nat) (u u' : Vp), holdsFor (laneHart vs) vs 0 q u → holdsFor (laneHart vs) vs 0 q' u' →
        u.block = u'.block ∧ u.words = u'.words) ∧
      ∀ (q : Nat) (u : Vp), holdsFor (laneHart vs) vs 0 q u → ¬ (u.block = 0x1000000 ∧ u.words.length = 3)) ∧
    (∃ ws c, Ctx.fetchBlock ⟨{ laneHart [w] with timedOut := false }, laneState [w]⟩ 0 0x1000000 1 = .ok (ws, c)) ∧
    (let vs := [w3, r, f]
     holdsFor (laneHart vs) vs 0 1 r ∧ holdsFor (laneHart vs) vs 0 2 f ∧
       ¬ (r.block = f.block ∧ r.words = f.words)) := by
  refine ⟨fun vs => ⟨rfl, rfl, rfl, rfl, rfl⟩, by simp [vpOf], ⟨rfl, by simp [vpOf], rfl, rfl⟩,
    ⟨vpOf [0] 0 .ready, by simp, rfl⟩, ?_, ?_, exists_done (by decide +kernel), ?_⟩
  · unfold holdsFor
    decide +kernel
  · rintro vs (rfl | rfl)
    · refine ⟨fun q q' u u' hu _ => ?_, fun q u hu => ?_⟩ <;>
      · obtain ⟨hq, hn, -⟩ := hu
        match q, hn with
        | 0, hn => exact absurd rfl hn
        | q + 1, _ => simp at hq
    · have only : ∀ (q : Nat) (u : Vp), holdsFor (laneHart [vpOf [0] 0 (.waitBlock 0x1000000 3), vpOf [0, 0] 0 .waitFault])
          [vpOf [0] 0 (.waitBlock 0x1000000 3), vpOf [0, 0] 0 .waitFault] 0 q u → u = vpOf [0, 0] 0 .waitFault := by
        rintro q u ⟨hq, hn, -⟩
        match q, hn with
        | 0, hn => exact absurd rfl hn
        | 1, _ => simpa using hq.symm
        | q + 2, _ => simp at hq
      refine ⟨fun q q' u u' hu hu' => ?_, fun q u hu => ?_⟩
      · rw [only q u hu, only q' u' hu']
        exact ⟨rfl, rfl⟩
      · rw [only q u hu]
        decide
  · unfold holdsFor
    decide +kernel

theorem compared_of {h : Hart} {a : VReg} {b : CmpOperand} (hh : (compareUse h 0 a b).all (·.2) = true) :
    admitted (compareUse h 0 a b) := hh

/-- No element; all hold; element 0 fails; a signalling compare of a NaN under every enabled flag. -/
theorem witness_LoopTests :
    let h := tagged 3 4
    let z : Hart := { h with vcols := 0 }
    let x := pointed 0x7FF8000000000000 0
    (∃ off holds quiet, Issues (.vwhileEq 1 (.vec 2) 1) (one h) h ∧
      whileForm (.vwhileEq 1 (.vec 2) 1) = some (1, .vec 2, off, holds, quiet) ∧ h.stopAt = none ∧
      admitted (compareUse h 0 1 (.vec 2)) ∧ (∀ e : Nat, e < h.vl → h.enabledFlag (whileFlags h 0 1 (.vec 2) quiet e) = none) ∧
      ∀ e : Nat, e < h.vl → holds (element h 0 1 e).toVal (compareOperand h 0 1 e (.vec 2)) = true) ∧
    (∃ off holds quiet, Issues (.vwhileLt 1 (.vec 2) 1023) (one h) h ∧
      whileForm (.vwhileLt 1 (.vec 2) 1023) = some (1, .vec 2, off, holds, quiet) ∧
      (0 : Nat) < h.vl ∧ holds (element h 0 1 0).toVal (compareOperand h 0 1 0 (.vec 2)) = false) ∧
    (Issues (.vwhileNe 1 (.vec 2) 1) (one z) z ∧ admitted (compareUse z 0 1 (.vec 2)) ∧ z.vl = 0) ∧
    (∃ off holds quiet flag, Issues (.vwhileGe 1 (.vec 2) 1) (one x) x ∧
      whileForm (.vwhileGe 1 (.vec 2) 1) = some (1, .vec 2, off, holds, quiet) ∧ admitted (compareUse x 0 1 (.vec 2)) ∧
      1 < x.vl ∧ (∀ e : Nat, e < 1 → x.enabledFlag (whileFlags x 0 1 (.vec 2) quiet e) = none) ∧
      x.enabledFlag (whileFlags x 0 1 (.vec 2) quiet 1) = some flag) := by
  refine ⟨⟨_, _, _, issues_one (by decide), rfl, rfl, compared_of (by decide),
      fun _ _ => quiet (by decide) _, by decide +kernel⟩,
    ⟨_, _, _, issues_one (by decide), rfl, by decide, by decide +kernel⟩,
    ⟨issues_one (by decide), compared_of (by decide), by decide⟩,
    _, _, _, 4, issues_one (by decide), rfl, compared_of (by decide), by decide, fun e he => ?_,
    by decide +kernel⟩
  obtain rfl : e = 0 := by omega
  decide +kernel

/-- A hart all of whose tags are busy; the other seven harts of its core with theirs, which fill the queue. -/
def fullTags (h : Hart) : Hart := { h with tags := Vector.replicate 16 (busyWith (.copy 0 0 1 true)) }
/-- Two more harts of one core with every tag busy. -/
def fullQueue (h : Hart) : State := { one h with harts := [h, fullTags h, fullTags h] }

/-- A collective's descriptor at 0x100 of the scratchpad: a sum of one I64 over device 0 at class 2; another with
operation 5. -/
def collHart (word : Nat) : Hart :=
  let h := withX hart [(1, 0x100), (2, 0x108)]
  { h with scratch := (((h.scratch.writeLe 0x100 8 word).writeLe 0x108 8 1).writeLe 0x128 8 1).writeLe 0x130 8 0x40 }

/-- The descriptor is read, and `p` holds of it. -/
def collRead (h : Hart) (p : Nat → Ctx → CollDesc → Bool) : Bool :=
  match Ctx.loadDoubles ⟨h, one h⟩ (h.getU 1) 8 with
  | .ok (v, c) => p v c { collDesc v with srcLen := c.collSrcLen (collDesc v) }
  | .error _ => false

theorem coll_read {h : Hart} {p : Nat → Ctx → CollDesc → Bool} (hh : collRead h p = true) :
    ∃ (v : Nat) (c : Ctx) (x : CollDesc), Ctx.loadDoubles ⟨h, one h⟩ (h.getU 1) 8 = .ok (v, c) ∧
      x = { collDesc v with srcLen := c.collSrcLen (collDesc v) } ∧ p v c x = true := by
  unfold collRead at hh
  split at hh
  · exact ⟨_, _, _, ‹_›, rfl, hh⟩
  · cases hh

/-- Four commands in V1 under I64, the first two active: copies apart; then one with a reserved bit. -/
def batchHart (third : Nat) : Hart :=
  let h := withV { hart with vcols := 8 } 1 4 [0x1000000, 0x1000100, 8, 0, 0x1000200, 0x1000300, third, 1]
  (h.setMask 0 0 true).setMask 0 4 true

/-- `Admitted` as one truth value. -/
def admits (v ord cls : Nat) : Bool :=
  decide (fld v 0 8 ≤ 4) && decide (fld v 0 8 ≤ 2 → fld v 8 8 ∈ [0x0B, 0x0C, 0x03, 0x04, 0x07, 0x08]) &&
  decide (fld v 0 8 = 3 → fld v 8 8 ∈ [0x0B, 0x03]) && decide (fld v 0 8 = 4 → fld v 8 8 = 0) &&
  decide (fld v 16 8 ≤ 2 ∧ cls ≤ fld v 16 8) && decide (fld v 24 8 = 0 ∧ fld v 48 16 = 0 ∧ fld v 448 64 = 0) &&
  decide (if fld v 0 8 = 3 then 1 ≤ fld v 32 16 ∧ fld v 32 16 ≤ 64 else fld v 32 16 = 0) &&
  bitAt (fld v 64 128) ord && decide (fld v 384 64 % 16 = 0)

theorem admits_iff {v ord cls : Nat} : Admitted v ord cls ↔ admits v ord cls = true := by
  simp only [admits, Bool.and_eq_true, decide_eq_true_eq]
  exact ⟨fun ⟨a, b, c, d, e, f, g, h, i⟩ => ⟨⟨⟨⟨⟨⟨⟨⟨a, b⟩, c⟩, d⟩, e⟩, f⟩, g⟩, h⟩, i⟩,
    fun ⟨⟨⟨⟨⟨⟨⟨⟨a, b⟩, c⟩, d⟩, e⟩, f⟩, g⟩, h⟩, i⟩ => ⟨a, b, c, d, e, f, g, h, i⟩⟩

/-- Reading a collective's descriptor: misaligned; not admitted; no free tag; started. -/
theorem coll_clauses :
    (let h := collHart 0x20400
     Issues (.coll 3 2) (one h) h ∧ h.getU 2 % 64 ≠ 0) ∧
    (let h := collHart 0x20405
     Issues (.coll 3 1) (one h) h ∧ h.getU 1 % 64 = 0 ∧
     ∃ v c x, Ctx.loadDoubles ⟨h, one h⟩ (h.getU 1) 8 = .ok (v, c) ∧
      x = { collDesc v with srcLen := c.collSrcLen (collDesc v) } ∧
      (!admits v c.s.fab.dord (c.s.classOf c.h)) = true) ∧
    (let h := fullTags (collHart 0x20400)
     Issues (.coll 3 1) (one h) h ∧ h.getU 1 % 64 = 0 ∧
     ∃ v c x, Ctx.loadDoubles ⟨h, one h⟩ (h.getU 1) 8 = .ok (v, c) ∧
      x = { collDesc v with srcLen := c.collSrcLen (collDesc v) } ∧
      (admits v c.s.fab.dord (c.s.classOf c.h) &&
        (List.finRange 16).all (fun t => !decide (c.h.tags[t] = .free))) = true) ∧
    (let h := collHart 0x20400
     Issues (.coll 3 1) (one h) h ∧ h.getU 1 % 64 = 0 ∧
     ∃ v c x, Ctx.loadDoubles ⟨h, one h⟩ (h.getU 1) 8 = .ok (v, c) ∧
      x = { collDesc v with srcLen := c.collSrcLen (collDesc v) } ∧
      (admits v c.s.fab.dord (c.s.classOf c.h) && c.queueRoom 0 &&
        (List.finRange 16).all (fun t => decide (c.h.tags[t] = .free))) = true) :=
  ⟨⟨issues_one (by decide), by decide⟩, ⟨issues_one (by decide), by decide, coll_read (by decide +kernel)⟩,
   ⟨issues_one (by decide), by decide, coll_read (by decide +kernel)⟩,
   issues_one (by decide), by decide, coll_read (by decide +kernel)⟩

/-- A hart with operands whose tag 15 is in a state. -/
def tagHart (t : TagState) : Hart :=
  let h := withX hart [(1, 15), (2, 16), (4, 0x1000000), (5, 0x1000100), (6, 8)]
  { h with tags := h.tags.set 15 t }

theorem witness_EngineTags :
    let h := tagHart .free
    let f := fullTags h
    let fl : Flight := ⟨.copy 0x2000000 0x2000000 1 true, 0, false, none, []⟩
    let b := tagHart (.busy fl)
    let x := tagHart (.failed causeUncorr 1 0)
    let good := batchHart 8
    let bad := batchHart 0x2000000000000
    (Issues (.cpy 3 4 5 6) (one f) f ∧ ∀ t : Slot, f.tags[t] ≠ .free) ∧
    (Issues (.cpy 3 4 5 6) (fullQueue h) h ∧ ¬ queueHasRoom (fullQueue h) h) ∧
    (Issues (.cpy 3 4 5 0) (one h) h ∧ lowestFree h 0 ∧ queueHasRoom (one h) h ∧ h.getU 0 = 0) ∧
    (Issues (.cpy 3 4 5 6) (one b) b ∧ lowestFree b 0 ∧ queueHasRoom (one b) b ∧ b.getU 6 ≠ 0) ∧
    (Issues (.cpyb 4 1) (one good) good ∧ good.stopAt = none ∧ rawTag good 0 1 ∧ good.ew = 64 ∧
      good.kind 0 1 = .int true 64 ∧
      (let active := ((List.range (good.vl / 4)).filter (fun i => good.mask 0 0 (4 * i))).map (fun i =>
        (i, good.command 0 1 i))
       active.length = 2 ∧ ∀ q : Nat × Command, q ∈ active → q.2.bad = false)) ∧
    (Issues (.cpyb 4 1) (one bad) bad ∧
      ∃ q : Nat × Command, q ∈ ((List.range (bad.vl / 4)).filter (fun i => bad.mask 0 0 (4 * i))).map (fun i =>
        (i, bad.command 0 1 i)) ∧ q.2.bad = true) ∧
    (Issues (.ewait 2) (one h) h ∧ 16 ≤ h.getU 2) ∧
    (Issues (.ewait 1) (one h) h ∧ h.getU 1 = (15 : Slot).val ∧ h.tags[(15 : Slot)] = .free) ∧
    (Issues (.ewait 1) (one b) b ∧ b.tags[(15 : Slot)] = .busy fl) ∧
    (Issues (.ewait 1) (one x) x ∧ x.tags[(15 : Slot)] = .failed causeUncorr 1 0) ∧
    (Issues (.etst 3 2) (one h) h ∧ 16 ≤ h.getU 2) ∧ (Issues (.etst 3 1) (one x) x ∧ x.getU 1 = (15 : Slot).val) := by
  refine ⟨⟨issues_one (by decide), by decide⟩, ⟨issues_in rfl (by decide), by unfold queueHasRoom; decide⟩,
    ⟨issues_one (by decide), ⟨rfl, fun u hu => absurd hu (by simp)⟩, by unfold queueHasRoom; decide, by decide⟩,
    ⟨issues_one (by decide), ⟨rfl, fun u hu => absurd hu (by simp)⟩, by unfold queueHasRoom; decide, by decide⟩,
    ⟨issues_one (by decide), rfl, raw_of (by decide), by decide, by decide, by decide +kernel, ?_⟩,
    ⟨issues_one (by decide), ?_⟩,
    ⟨issues_one (by decide), by decide⟩, ⟨issues_one (by decide), by decide, rfl⟩, ⟨issues_one (by decide), rfl⟩,
    ⟨issues_one (by decide), rfl⟩, ⟨issues_one (by decide), by decide⟩, issues_one (by decide), by decide⟩
  · have : ∀ q ∈ ((List.range ((batchHart 8).vl / 4)).filter (fun i => (batchHart 8).mask 0 0 (4 * i))).map (fun i =>
        (i, (batchHart 8).command 0 1 i)), q.2.bad = false := by decide +kernel
    exact this
  · have : (((List.range ((batchHart 0x2000000000000).vl / 4)).filter (fun i =>
        (batchHart 0x2000000000000).mask 0 0 (4 * i))).map (fun i =>
        (i, (batchHart 0x2000000000000).command 0 1 i))).any (fun q => q.2.bad) = true := by decide +kernel
    simpa only [List.any_eq_true] using this

/-- A fixed-length mode with elements; a variable-length one whose input is empty; a sector header of 3; no element. -/
theorem witness_Transforms :
    let h := tagged 3 4
    let z : Hart := { h with vcols := 0 }
    let p := withX (tagged 0x11 0x0D) [(5, 1)]
    let x := withX (withV (tagged 3 4) 1 4 [3]) [(5, 1)]
    (∃ F, Issues (.vxfdDelta 3 1 0 false) (one h) h ∧ h.stopAt = none ∧
      fixedForm h 0 (.vxfdDelta 3 1 0 false) = some F ∧ F.ok) ∧
    (∃ F, Issues (.vxfdPlane 3 1 0 false) (one p) p ∧ fixedForm p 0 (.vxfdPlane 3 1 0 false) = some F ∧ F.ok) ∧
    (∃ F h' q, Issues (.vxfeRle 3 1 0 false) (one h) h ∧ variableForm h 0 (.vxfeRle 3 1 0 false) = some F ∧ F.ok ∧
      h.vl ≠ 0 ∧ Units F.unit h h.xfr h' q ∧ ¬ F.bad h' q) ∧
    (∃ F h' q, Issues (.vxfdSect 3 1 5 false) (one x) x ∧ variableForm x 0 (.vxfdSect 3 1 5 false) = some F ∧ F.ok ∧
      x.vl ≠ 0 ∧ Units F.unit x x.xfr h' q ∧ F.bad h' q) ∧
    (∃ F, Issues (.vxfdRle 3 1 5 false) (one z) z ∧ variableForm z 0 (.vxfdRle 3 1 5 false) = some F ∧ F.ok ∧
      z.vl = 0) := by
  refine ⟨⟨_, issues_one (by decide), rfl, rfl, by decide, ⟨arith_of (by decide), by decide⟩, by decide⟩,
    ⟨_, issues_one (by decide), rfl, by decide, bits_of (by decide), bits_of (by decide),
      by decide⟩,
    ⟨_, _, _, issues_one (by decide), rfl, ⟨by decide, arith_of (by decide)⟩, by decide, .stop rfl, fun h => h⟩,
    ⟨_, _, _, issues_one (by decide), rfl, ⟨by decide, by decide, bits_of (by decide)⟩, by decide, .stop ?_, ?_⟩,
    _, issues_one (by decide), rfl, ⟨by decide, arith_of (by decide)⟩, by decide⟩
  · exact Option.isNone_iff_eq_none.1 (by decide +kernel)
  · decide +kernel

/-- The hart's machine with an event's operands. -/
def event (h : Hart) (x : Input) : State := { one h with input := x }

/-- The instruction that stands next is fetched. -/
def fetchesTo (s : State) (i : Instr) : Bool :=
  match fetchHart 0 { s with cur := 0 } with
  | .run j _ => decide (j = i)
  | .rest _ => false

/-- The machine whose hart stands before an instruction, with a change to the hart. -/
def standing (i : Instr) (f : Hart → Hart) : State :=
  let s := State.reset.withFetchWord 32 ((encode i).getD 0)
  { s with harts := s.harts.map f }

/-- A class 0 request that may not narrow it wants hart 0 stopped; one that may, or a class 1 request, asks it to yield. -/
def wanted (h : Hart) (flags : Nat) (x : Input) : State :=
  let s := event h x
  let L : Launch := { installLaunch with req := { installLaunch.req with flags := flags } }
  { s with hall := { s.hall with
    launches := [L, { L with phase := .waiting }]
    preemptions := [⟨1, [(0, s.claim h)], [], []⟩] } }

/-- A hart stopped at its PC. -/
def restHart : Hart := { hart with
  status := .stopped
  record := some (hart.save 0 2 hart.pc) }

/-- A two-cluster hart told to narrow to one, its window over. -/
def narrowing : Hart := { hart with
  size := 1
  width := 2
  pend := some ⟨0, 0⟩
  pendAt := some 0 }

/-- A machine after its narrowing hart has lost the offer. -/
def narrowed (s : State) (h : Hart) : State := s.setHart 0 { h with pend := none, pendAt := none }

/-- A VADD that has issued under a prefix and waits. -/
def waiting : Hart := { hart with
  waits := true
  pfx := some 0x04000000 }

theorem standsBetween_of {s : State} {h : Hart} (h1 : h.lt = false) (h2 : h.replay = none) (h3 : h.waits = false) :
    StandsBetween s h := ⟨h1, h2, .inl h3⟩

/-- A fetch answers with a word, which `p` admits. -/
def isFetch (r : Got (Nat × Ctx)) (p : Nat → Bool) : Bool := match r with | .ok (w, _) => p w | _ => false

theorem exists_fetch {r : Got (Nat × Ctx)} {p : Nat → Bool} (h : isFetch r p = true) :
    ∃ w c, r = .ok (w, c) ∧ p w = true := by
  unfold isFetch at h
  split at h
  · exact ⟨_, _, rfl, h⟩
  · cases h

/-- A stall taken back, given and not given; a SETVL and a MATT that stand next; an end with no failed tag, and with
one; a barrier; a stop at once between instructions, of a prefixed window instruction that waits, inside, and in
lane-thread mode; a yield asked for, a window over, with and without a lane-thread run; a narrowing; a resumption. -/
theorem witness_HartEvents :
    let p : PendingStall := ⟨0, 1⟩
    let pending : Hart := { hart with pend := some p }
    let asked : Hart := { hart with yreq := true, yieldAt := some 0 }
    let running : Hart := { asked with lt := true, run := some [] }
    let lanes : Hart := { hart with lt := true }
    let halting : Hart := { hart with status := .halting }
    let failed : Hart := { halting with tags := hart.tags.set 15 (.failed causeUncorr 1 0) }
    let arrived : Hart := { hart with arrived := true }
    let late : State := { event asked (.yieldWindowExpiry 0) with hall := { State.reset.hall with hcnt := 30000 } }
    let tooLate : State := { event narrowing (.narrowingTimeout 0) with hall := { State.reset.hall with hcnt := 30000 } }
    (pending.status = .running ∧ pending.pend.isSome = true) ∧
    (hart.status = .running ∧ (event hart (.stallChangeRequest 0 (some p))).stallOk 0 hart p = true ∧
      (event hart (.stallChangeRequest 0 (some ⟨1, 1⟩))).stallOk 0 hart ⟨1, 1⟩ = false) ∧
    (∀ i : Instr, i = .setvl 3 1 ∨ i = .setvlx 3 1 2 ∨ i = .matt 3 1 2 →
      fetchesTo (standing i (fun h => { h with pend := some p })) i = true ∧
      fetchesTo (standing i (fun h => { h with yreq := true })) i = true) ∧
    (hart.canIssue = true ∧ pending.canIssue = true ∧ pending.yreq = false ∧ asked.canIssue = true ∧ asked.yreq = true ∧
      hart.ma = false) ∧
    (halting.status = .halting ∧ NoTransfers halting ∧ (∀ t c d a, halting.tags[(t : Slot)] ≠ .failed c d a) ∧
      (one halting).launchOf halting = some installLaunch ∧ installLaunch.phase = .started ∧
      NoTransfers failed ∧ failed.tags[(15 : Slot)] = .failed causeUncorr 1 0) ∧
    (arrived.status = .running ∧ arrived.arrived = true ∧ arrived.stopAt = none ∧ arrived.replay = none ∧
      ∀ (j : Nat) (o : Hart), [arrived][j]? = some o → o.launch = arrived.launch →
        o.status = .ended ∨ arrived.barriers < o.barriers ∨ (o.barriers = arrived.barriers ∧ o.arrived = true)) ∧
    (hart.stopAt = none ∧ hart.lt = false ∧ hart.replay = none ∧ lanes.lt = true ∧
      (wanted hart 0 (.hardStop 0 none)).stopsAtOnce 0 hart = true ∧
      (wanted lanes 0 (.hardStop 0 (some 3))).stopsAtOnce 0 lanes = true) ∧
    StandsBetween (wanted hart 0 (.hardStop 0 none)) hart ∧
    (waiting.lt = false ∧ waiting.replay = none ∧ waiting.drain = none ∧ waiting.pfx.isSome = true ∧
      ((wanted waiting 0 (.hardStop 0 none)).placeWord 0x1000000 0x58000000).stopsAtOnce 0 waiting = true ∧
      ∃ w c, Ctx.fetch ⟨waiting, (wanted waiting 0 (.hardStop 0 none)).placeWord 0x1000000 0x58000000⟩ waiting.pc =
        .ok (w, c) ∧ windowMajor (w / 2 ^ 26 % 64) = true) ∧
    (hart.yreq = false ∧ (wanted hart 1 (.yieldRequest 0)).asksYield 0 hart = true) ∧
    (asked.yreq = true ∧ asked.yieldAt = some 0 ∧ late.hall.ywin ≤ (late.hall.hcnt - 0).toNat ∧ asked.run = none ∧
      StandsBetween late asked ∧ running.run.isSome = true) ∧
    (narrowing.pend = some ⟨0, 0⟩ ∧ (0 : BitVec 2).toNat < narrowing.size ∧ narrowing.pendAt = some 0 ∧
      tooLate.hall.ywin ≤ (tooLate.hall.hcnt - 0).toNat ∧ tooLate.hall.preemptions = [] ∧
      (narrowed tooLate narrowing).hallOrder.all (fun l => ((narrowed tooLate narrowing).preempt l
        (fun vs => vs.contains narrowing.launch)).isNone) = true) ∧
    (∃ (q : Preemption) (c : Claim) (L : Launch), q ∈ (wanted narrowing 0 (.narrowingTimeout 0)).hall.preemptions ∧
      (0, c) ∈ q.victims ∧ (wanted narrowing 0 (.narrowingTimeout 0)).hall.launches[q.launch]? = some L) ∧
    (restHart.resumable = true ∧ restHart.record.isSome = true ∧
      (event restHart (.contextRestore 0 ⟨0, 0, 0⟩)).hallNext = some restHart.launch ∧
      (event restHart (.contextRestore 0 ⟨0, 0, 0⟩)).resumeAdmits restHart.launch [⟨0, 0, 0⟩] = true) := by
  refine ⟨by decide, by decide +kernel, ?_, by decide, ⟨rfl, noTransfers_of (by decide), ?_, rfl, rfl,
      noTransfers_of (by decide), rfl⟩,
    ⟨rfl, rfl, rfl, rfl, ?_⟩, by decide +kernel, standsBetween_of rfl rfl rfl,
    ⟨rfl, rfl, rfl, rfl, by decide +kernel, exists_fetch (by decide +kernel)⟩, by decide +kernel,
    ⟨rfl, rfl, by decide +kernel, rfl, standsBetween_of rfl rfl rfl, rfl⟩, by decide +kernel,
    ⟨_, _, _, List.mem_cons_self, List.mem_cons_self, rfl⟩, ?_⟩
  · rintro i (rfl | rfl | rfl) <;> decide +kernel
  · intro t c d a
    have all : ∀ t : Slot, hart.tags[t] = .free := by decide
    rw [show ({ hart with status := .halting } : Hart).tags = hart.tags from rfl, all t]
    intro hc
    cases hc
  · intro j o hj _
    match j, hj with
    | 0, hj =>
      obtain rfl : ({ hart with arrived := true } : Hart) = o := by simpa using hj
      exact .inr (.inr ⟨rfl, rfl⟩)
    | j + 1, hj => simp at hj
  · decide +kernel

/-- The hart of `vectors` with LIVEV naming V1 alone, and a record of it. -/
def recorded : Hart := { vectors with livev := 2 }

/-- Its record. -/
def recordOf : CtxRecord := recorded.save 0 2 recorded.pc

/-- A free tag and no busy one; an entry of the one live register, whose element 1 is −2; a restore that finds it, and
one whose window is to be replayed. -/
theorem witness_ContextRecords :
    NoTransfers recorded ∧ (recorded.livev.getLsbD (1 : VReg).val = true) ∧ recorded.blk ≠ 2 ∧
    (recordOf.vectors.map (·.reg) = [1] ∧
      (recordOf.vectors.map (fun en => en.positions[1]?)) = [some (some (0xFFFFFFFFFFFFFFFE : BitVec 64))] ∧
      ∀ en ∈ recordOf.vectors, 1 < en.positions.length ∧ en.slots = []) ∧
    ({ busyHart with ma := true } : Hart).tags[(15 : Slot)].isBusy = true ∧
    (recordOf.sys[0x16]? = some 0 ∧ (0 : Word).getLsbD 63 = false) ∧
    ((({ recorded with win := recorded.win.set 0 (winEntry 0 1 7) } : Hart).save 0 3 0).sys[0x16]? =
        some (winEntry 0 1 7) ∧ (winEntry 0 1 7).getLsbD 63 = true ∧ (winEntry 0 1 7).toNat / 2 ^ 40 % 2 ^ 8 ≠ 0) ∧
    (let h' := recorded.restore 0 recordOf ⟨0, 0, 0⟩
     recorded.vfetchAt ≠ some recordOf.rpc ∧ h'.blk ≠ 2 ∧ savedWidth h'.ew (some 4) ≤ h'.ew ∧ h'.vcols ≤ h'.w ∧
     h'.width ≤ 8 ∧ 1 < h'.vl ∧ (0xFFFFFFFFFFFFFFFE : BitVec 64).toNat < 2 ^ savedWidth h'.ew (some 4)) := by
  refine ⟨noTransfers_of (by decide), ?_⟩
  decide +kernel

/-- A hart in SYSC with its service and operands. -/
def calling (service start len : Word) : Hart :=
  let h := withX hart [(5, service), (6, start), (7, len)]
  { h with
    status := .inSysc
    tpc := 0x1000000
    record := some (h.save 0 2 hart.pc) }

/-- How the walk of a page for PREFAULT ends: at a leaf, at a page that it could not map, at another fault, or where
it waits for the link. -/
def prefaultEnd (s : State) (h : Hart) (va : Nat) : Nat :=
  match prefaultWalk s h va with
  | (.leaf _ _, _) => 0
  | (.fault c e r l, _) => if r == 2 || c == causeUncorr || (l == 4 && entryMeaning 4 e == .placeholder) then 1 else 2
  | (.unacked _ _, _) => 3
  | (.linkDown _ _, _) => 4

/-- The machine whose page at 0x1000000 is mapped and whose page at 0x1010000 has an entry, under DMPAGING and a
deadline. -/
def nextPage (h : Hart) (e : Nat) : State :=
  let s := one h
  { s with
    mem := [(0x22000, 0x23001), (0x23040, 0x24001), (0x24000, 0x200001F), (0x24008, e)].foldl
      (fun m (p : Nat × Nat) => m.writeLe p.1 8 p.2) s.mem
    hall := { s.hall with launches := [{ installLaunch with req := { installLaunch.req with
      flags := 2
      deadline := 5 } }] } }
/-- A placeholder and no free page. -/
def paged (h : Hart) : State := nextPage h 0x22
/-- No entry. -/
def unmanaged (h : Hart) : State := nextPage h 0
/-- The descriptors of the address spaces lie in host memory, and the link is down. -/
def withHostTable (h : Hart) : State := { one h with hall := { (one h).hall with atbase := 2 ^ 51 } }

/-- PREFAULT of three pages, the last two of generic memory: the one below it, a page, and one that ends so. -/
theorem prefaults_three {s : State} {h : Hart} (h0 : prefaultEnd s h 0x1000000 = 0) (h1 : ∀ level e s',
      prefaultWalk s h 0x1000000 = (.leaf level e, s') → prefaultEnd s' h 0x1010000 = 1 ∨ prefaultEnd s' h 0x1010000 = 2) :
    ∃ t x5, Prefaults 0 h 3 0xFF0000 s t x5 := by
  unfold prefaultEnd at h0
  split at h0
  · rename_i level e s' hw
    have h1 := h1 level e s' hw
    unfold prefaultEnd at h1
    split at h1
    · simp at h1
    · rename_i c e' r l s'' hw'
      by_cases hc : cannotMap c e' r l
      · exact ⟨_, _, .outside (.inl (by decide)) (.mapped (by decide) (by decide) hw (.fails (by decide) (by decide) hw' hc))⟩
      · exact ⟨_, _, .outside (.inl (by decide)) (.mapped (by decide) (by decide) hw
          (.notManaged (by decide) (by decide) hw' hc .none))⟩
    · simp at h1
    · simp at h1
  · split at h0 <;> cases h0
  · cases h0
  · cases h0

/-- The state after a leaf, and how the walk of the next page ends there. -/
def thenEnds (s : State) (h : Hart) : Option Nat :=
  match prefaultWalk s h 0x1000000 with
  | (.leaf _ _, s') => some (prefaultEnd s' h 0x1010000)
  | _ => none

theorem then_ends {s : State} {h : Hart} {n : Nat} (hh : thenEnds s h = some n) : ∀ level e s',
    prefaultWalk s h 0x1000000 = (.leaf level e, s') → prefaultEnd s' h 0x1010000 = n := by
  intro level e s' hw
  simpa [thenEnds, hw] using hh

/-- Every service; a deadline and none; PREFAULT of no byte, of three pages whose last cannot be mapped or is in no
device-managed region, of a page whose walk waits for the link. -/
theorem witness_HallServices :
    (∀ v : Word, v = 0 ∨ v = 1 ∨ v = 2 ∨ v = 3 ∨ v = 4 → ∃ cr, (calling v 0 0).status = .inSysc ∧
      (calling v 0 0).record = some cr ∧ cr.x[5] = v) ∧
    (∃ L, (one (calling 2 0 0)).launchOf (calling 2 0 0) = some L ∧ L.req.deadline = 0) ∧
    (∃ L, (paged (calling 2 0 0)).launchOf (calling 2 0 0) = some L ∧ L.req.deadline ≠ 0) ∧
    (∃ cr, (calling 3 0 0).record = some cr ∧ cr.x[7] = 0) ∧
    (let h := calling 3 0xFFFFFF 0x10002
     (∃ cr, h.record = some cr ∧ cr.x[6].toNat / 0x10000 * 0x10000 = 0xFF0000 ∧ 1 ≤ cr.x[7].toNat ∧
       (cr.x[6].toNat + cr.x[7].toNat - 0xFF0000 + 0xFFFF) / 0x10000 = 3) ∧
     (∃ t x5, Prefaults 0 h 3 0xFF0000 (paged h) t x5) ∧ ∃ t x5, Prefaults 0 h 3 0xFF0000 (unmanaged h) t x5) ∧
    (let h := calling 3 0x1000000 1
     prefaultEnd (withHostTable h) h 0x1000000 = 4) ∧
    3 < (4 : Word).toNat := by
  refine ⟨?_, ⟨_, rfl, rfl⟩, ⟨_, rfl, by decide⟩, ⟨_, rfl, rfl⟩, ⟨⟨_, rfl, by decide +kernel, by decide +kernel,
    by decide +kernel⟩, prefaults_three (by decide +kernel) fun l e s' hw => .inl (then_ends (by decide +kernel) l e s' hw),
    prefaults_three (by decide +kernel) fun l e s' hw => .inr (then_ends (by decide +kernel) l e s' hw)⟩,
    by decide +kernel, by decide⟩
  rintro v (rfl | rfl | rfl | rfl | rfl) <;> exact ⟨_, rfl, rfl, rfl⟩

/-- The machine while the host can reach it, at a stage of its boot, with queue 0's block, and words of memory. -/
def hosted (stage : Nat) (b : Queue) (words : List (Nat × Nat)) (x : Input) : State :=
  let s := event hart x
  { s with
    link := { s.link with up := true }
    sec := { s.sec with stage := stage }
    mem := words.foldl (fun m p => m.writeLe p.1 8 p.2) s.mem
    hall := { s.hall with queues := [(0, b)], atlim := 2 } }

/-- An enabled queue with its lists. -/
def listed : Queue := { Queue.reset with qlist := 0x50000, done := 0x50010, en := true }
/-- The words of a launch record at 0x40000 of a sequence number and some widths, of the list that holds it, and of the
descriptor of its ASID. -/
def recordWords (hseq widths : Nat) : List (Nat × Nat) :=
  [(0x40000, 0), (0x40008, hseq), (0x40010, 0x1_0000_0000 + 2 ^ 16 * widths), (0x40028, 0x1000000), (0x40038, 1),
   (0x50000, 0x40000), (0x50008, 0x40000), (0x10058, 1)]

/-- `CanMove` as one truth value. -/
def movesNode (s : State) (cls a b n : Nat) : Bool :=
  let uses := fun pa => (if isHostAddr pa = true then s.link.up && decide (∀ c : TrafficClass, c.val = cls →
    s.link.holdOut[c] = false) else s.reaches pa) && !s.poison.contains (pa / 32)
  let tail := (unlinked s a n).physRead (b + 8) 8
  n == s.physRead a 8 && n != 0 && uses a && uses b && uses n && (tail == 0 || uses tail)

theorem can_move {s : State} {cls a b n : Nat} (hh : movesNode s cls a b n = true) : CanMove s cls a b n := by
  simp only [movesNode, Bool.and_eq_true, Bool.or_eq_true, beq_iff_eq, bne_iff_ne] at hh
  obtain ⟨⟨⟨⟨⟨h1, h2⟩, h3⟩, h4⟩, h5⟩, h6⟩ := hh
  have use : ∀ {pa : Nat}, ((if isHostAddr pa = true then s.link.up && decide (∀ c : TrafficClass, c.val = cls →
      s.link.holdOut[c] = false) else s.reaches pa) = true ∧ (!s.poison.contains (pa / 32)) = true) →
      hallUses s cls pa := by
    intro pa ⟨h, hp⟩
    refine ⟨?_, by simpa using hp⟩
    split at h
    · rw [if_pos ‹_›]
      simpa using h
    · rw [if_neg ‹_›]
      exact h
  exact ⟨h1, h2, ⟨use h3, use h4⟩, use h5, h6.imp id use⟩

/-- A queue before STAGE 5, turned off, good and each kind of bad; a reset at two stages and its end; a record that is
accepted, refused with DETAIL 1 and with another; a posting of each kind, and one behind another that cannot be
posted. -/
theorem witness_QueueEvents :
    (hostOpen (hosted 4 listed [] (.queueEnable 0 true)) ∧ (hosted 4 listed [] (.queueEnable 0 true)).sec.stage ≠ 5) ∧
    (hosted 5 listed [] (.queueEnable 0 false)).sec.stage = 5 ∧
    (listed.qlist ≠ 0 ∧ listed.qlist.toNat % 16 = 0 ∧ listed.done ≠ 0 ∧ listed.done.toNat % 16 = 0 ∧
      listed.resetting = false) ∧
    (∀ b : Queue, b = { listed with qlist := 0 } ∨ b = { listed with done := 8 } ∨ b = { listed with resetting := true } →
      ¬ (b.qlist ≠ 0 ∧ b.qlist.toNat % 16 = 0 ∧ b.done ≠ 0 ∧ b.done.toNat % 16 = 0 ∧ b.resetting = false)) ∧
    (({ listed with resetting := true } : Queue).resetting = true ∧ listed.completed = listed.accepted) ∧
    (∀ n w : Nat, (n, w) ∈ [(1, 0x101), (1, 0x103), (2, 0x101)] →
      let s := hosted 5 listed (recordWords n w) (.launchAccept 0)
      (s.hall.queue 0).en = true ∧ s.hall.inflight (fun _ => true) < 4096 ∧
      CanMove s 0 listed.qlist.toNat listed.done.toNat 0x40000 ∧ (launchRec (s.physRead 0x40000 128)).dvalid = 0 ∧
      (launchRec (s.physRead 0x40000 128)).cpl % 32 = 0 ∧
      (s.physMove listed.qlist.toNat listed.done.toNat).2.refusal 0 (launchRec (s.physRead 0x40000 128)) =
        (if n = 2 then some 1 else if w = 0x101 then none else some 3)) ∧
    (let s := hosted 5 listed [(0x60000, 0x70000)] .completionPost
     (∀ k : PostKind, k = .completion 0 0 0 ∨ k = .refusal 0 1 2 1 ∨ k = .invalidation 1 →
      ({ s with hall := { s.hall with due := [⟨0x60000, k⟩] } } : State).canPost ⟨0x60000, k⟩ = true) ∧
     ({ s with hall := { s.hall with due := [⟨0x60100, .refusal 0 1 0 1⟩, ⟨0x60000, .refusal 0 1 0 1⟩] } } : State
       ).canPost ⟨0x60100, .refusal 0 1 0 1⟩ = false) ∧
    (hosted 5 listed [] .completionPost).hall.launches[0]? = some installLaunch := by
  refine ⟨⟨⟨rfl, 0, by decide⟩, by decide⟩, rfl, by decide, ?_, by decide, ?_, ⟨?_, by decide +kernel⟩, rfl⟩
  · rintro b (rfl | rfl | rfl) <;> decide
  · intro n w hm
    simp only [List.mem_cons, Prod.mk.injEq, List.not_mem_nil, or_false] at hm
    rcases hm with ⟨rfl, rfl⟩ | ⟨rfl, rfl⟩ | ⟨rfl, rfl⟩ <;>
    · refine ⟨by decide +kernel, by decide +kernel, can_move (by decide +kernel), ?_⟩
      decide +kernel
  · rintro k (rfl | rfl | rfl) <;> decide +kernel

/-- Another launch of a class that waits, accepted at HCNT 0. -/
def waitingLaunch (cls gang : Nat) : Launch := { installLaunch with
  phase := .waiting
  req := { installLaunch.req with
    hseq := 2
    cls := cls
    minw := 8
    gang := gang } }

/-- The hart's machine with one more launch waiting, after the ageing time; quad 0 alone is open to classes 1 and 2. -/
def crowded (cls gang : Nat) (x : Input) : State :=
  let s := event { hart with width := 8, size := 3 } x
  { s with hall := { s.hall with
    hcnt := 1500000001
    cl0q := 0xFFFFFFFE
    launches := [{ installLaunch with req := { installLaunch.req with cls := 2 } }, waitingLaunch cls gang] } }

/-- The same while a class 0 launch waits too, so that class 1 may use quad 0 alone (R354). -/
def besides (s : State) : State :=
  { s with hall := { s.hall with launches := s.hall.launches ++ [waitingLaunch 0 1] } }

/-- A launch that is next; a stopped gang that is next; a gang of the four cores of its one quad that needs another's, and which
a narrowing that is late may stop; a wait above AGE. -/
theorem witness_PlacementEvents :
    (let s := crowded 0 1 (.gangPlacement 1 [⟨1, 0, 3⟩])
     s.hallNext = some 1 ∧ s.eligible (waitingLaunch 0 1) = true ∧ (s.startPlace 1).isSome = true) ∧
    (let s := event restHart (.gangPlacement 0 [⟨0, 0, 0⟩])
     s.hall.launches[0]? = some installLaunch ∧ s.hallNext = some 0 ∧ s.eligible installLaunch = false ∧
     s.resumeAdmits 0 [⟨0, 0, 0⟩] = true) ∧
    (let s := besides (crowded 1 4 (.preemption 1))
     s.waits 1 = true ∧ s.canRun 1 = false ∧ s.hall.preemptions = [] ∧ s.victimGangs 1 = [0] ∧
       (s.victims 1 (waitingLaunch 1 4)).isSome = true) ∧
    (let h : Hart := { hart with width := 8, size := 3 }
     let s := besides (crowded 1 4 (.narrowingTimeout 0))
     ∃ l ∈ s.hallOrder, (s.preempt l (fun vs => vs.contains h.launch)).isSome = true) ∧
    (let s := crowded 1 1 (.agingExpiry 1)
     s.hall.launches[1]? = some (waitingLaunch 1 1) ∧ s.eligible (waitingLaunch 1 1) = true ∧
     (waitingLaunch 1 1).aged = false ∧ s.hall.age < (s.hall.hcnt - (waitingLaunch 1 1).accepted).toNat) := by
  decide +kernel

/-- A fault of the hart's machine at 0x1010000 that waits for a page, met by a source. -/
def waitingFault (src : FaultSource) : HallFault :=
  ⟨7, 0, src, causePage, 0x1010000, ⟨0, 0x22, 2, 4, true⟩, false, false⟩

/-- The machine with one placeholder page, a free page at 0x100000, and one fault waiting, its channel at 0x60000
with a free node. -/
def faulted (h : Hart) (src : FaultSource) (x : Input) : State :=
  let s := paged h
  { s with
    input := x
    mem := [(0x10008, 0x30000), (0x10010, 0x60000), (0x30000, 0x100000), (0x30008, 0x100000),
      (0x60000, 0x70000)].foldl (fun m p => m.writeLe p.1 8 p.2) s.mem
    link := { s.link with up := true }
    hall := { s.hall with
      ivchan := 0x60000
      faults := [waitingFault src]
      retiring := [(1, [.transfer 0 3 0])] } }

/-- A walk ends at a leaf when free pages may be taken. -/
def walksToLeaf (s : State) : Bool := match s.walk 0 0 0x1010000 ⟨true, false, true⟩ with | (.leaf _ _, _) => true | _ => false

/-- A translated page. -/
def pinned : PinnedPage := ⟨0x100, false, 0x22, 4⟩
/-- A copy that has translated it. -/
def pinningFlight : Flight := ⟨.copy 0 0x1000000 1 false, 0, false, none, [pinned]⟩
/-- A hart whose tag 3 is copying: a page of its source is translated; it has sent an access to that page, and so has
its virtual processor. -/
def pinning : Hart := { hart with
  tags := hart.tags.set 3 (.busy pinningFlight)
  sentPage := some pinned
  run := some [⟨0x1000000, [0], 0, .ready, [], none, some pinned, false⟩] }

/-- A page to map; a record to post; a FID that names none; a parked hart, a waiting virtual processor and a transfer
that are answered; invalidations that are ignored and one that is not, with a page in its range and one beside it; an
invalidation that a transfer and sent accesses hold up, and one whose transfer has ended. -/
theorem witness_PagingEvents :
    let h : Hart := { hart with status := .parked }
    let v : Hart := { hart with run := some [⟨0x1000000, [0], 0, .waitFault, [], none, none, false⟩] }
    let s := faulted h .hart (.devicePageMap 0 0x1010000)
    (s.hall.faults.filter (s.waitsFrame 0 0x1010000) = [waitingFault .hart] ∧ walksToLeaf s = true) ∧
    ((faulted h .hart .faultRecordPost).hall.faults = [] ++ waitingFault .hart :: [] ∧
      (faulted h .hart .faultRecordPost).canReport (waitingFault .hart) = true) ∧
    hostOpen s ∧ s.faultNamed 8 = none ∧
    ((faulted h .hart (.frespRetry 7)).faultNamed 7 = some (waitingFault .hart) ∧ h.status = .parked) ∧
    ((faulted v (.vp 0) (.frespRetry 7)).faultNamed 7 = some (waitingFault (.vp 0)) ∧ v.run.isSome = true) ∧
    ((faulted pinning (.engine 3) (.frespEnd 7)).faultNamed 7 = some (waitingFault (.engine 3)) ∧
      (pinning.tags[(3 : Slot)]).isBusy = true) ∧
    (2 ^ 48 ≤ (0x1000000000000 : BitVec 64).toNat ∧ (0x10000 : BitVec 64).toNat < 2 ^ 48 ∧
      s.hall.ivchan ≠ 0 ∧ (one hart).hall.ivchan = 0 ∧ covers 4 0x100 0x1000000 1 ∧ ¬ covers 4 0x101 0x1000000 1 ∧
      covers 4 0x101 0x1000000 0) ∧
    (s.hall.retiring = (1, [.transfer 0 3 0]) :: [] ∧
      (∀ (k : Nat) (o : Hart), s.harts[k]? = some o → ¬ Holds k o (.transfer 0 3 0)) ∧
      (faulted pinning .hart .invalidationComplete).harts[0]? = some pinning ∧
      (Uses 0 pinning pinned (.transfer 0 3 0) ∧ Holds 0 pinning (.transfer 0 3 0)) ∧
      (Uses 0 pinning pinned (.hart 0 pinned) ∧ Holds 0 pinning (.hart 0 pinned)) ∧
      Uses 0 pinning pinned (.vp 0 0 pinned) ∧ Holds 0 pinning (.vp 0 0 pinned)) := by
  refine ⟨by decide +kernel, by decide +kernel, ⟨rfl, 0, by decide⟩, by decide +kernel, by decide +kernel, by decide +kernel,
    by decide +kernel, by unfold covers; decide +kernel, rfl, fun k o ho hh => ?_, rfl,
    ⟨.transfer 3 pinningFlight rfl List.mem_cons_self, .transfer 3 pinningFlight rfl⟩, ⟨.hart rfl, .hart _ rfl⟩, .vp _ _ _ rfl rfl rfl,
    .vp _ _ _ _ rfl rfl rfl⟩
  have free : ∀ t : Slot, hart.tags[t] = .free := by decide
  match k, ho with
  | 0, ho =>
    obtain rfl : ({ hart with status := .parked } : Hart) = o := Option.some.inj ho
    generalize hp : (Pin.transfer 0 3 0) = pin at hh
    cases hh with
    | transfer t f busy => exact nomatch (free t).symm.trans busy
    | hart p sent => cases hp
    | vp vs i v p run mine sent => cases hp
  | _ + 1, ho => exact nomatch (show (none : Option Hart) = some o from ho)

/-- The host's machine with a poisoned sector far from the accesses. -/
def linked (x : Input) : State := { hosted 5 listed [(0x100, 0x40), (0x110, 0x41), (0x40, 0), (0x138, 0x59)] x with poison := [100] }

theorem sound_of {s : State} {a n : Nat} (h : s.poison = [100]) (ha : a + n ≤ 3200) : sound s a n := by
  intro b hb hn hm
  rw [h] at hm
  simp at hm
  omega

/-- The edges of the register window and of the memory window; a malformed read; a list move that completes, one from
an empty list, and ones at a misaligned node, at a misaligned old tail and at a poisoned node; registers without
behaviour; holds; the link up and down; an access sent 100 ms ago, and one that is one tick younger. -/
theorem witness_LinkEvents :
    let s := linked .idle
    let p : State := { s with poison := [2] }
    let down : State := { s with
      link := { s.link with up := false }
      hall := { s.hall with hcnt := 150000000 } }
    hostOpen s ∧ (∀ cls : TrafficClass, hostMay s cls) ∧
    (0x3FFFFFE < 0x4000000 ∧ ¬ ((2 = 4 ∨ 2 = 8) ∧ 0x3FFFFFE % 2 = 0)) ∧
    (0x3FFFFF8 < 0x4000000 ∧ (8 = 4 ∨ 8 = 8) ∧ 0x3FFFFF8 % 8 = 0) ∧
    (windowOk (2 ^ 39 - 8) 8 ∧ windowOk 0x100 256 ∧ sound s (baseOf s + 0x100) 256) ∧
    (0x108 % 8 = 0 ∧ 0x108 + 8 ≤ 2 ^ 39 ∧ sound s (baseOf s + 0x108) 8) ∧
    (s.physRead 0x100 8 = 0x40 ∧ tailSeen s 0x100 0x120 0x40 = 0 ∧
      (∀ q : Nat, q ∈ [0x100, 0x120, 0x40, 0] → q / 32 ∉ s.poison) ∧ s.physRead 0x120 8 = 0 ∧
      s.physRead 0x110 8 % 8 ≠ 0 ∧ tailSeen s 0x100 0x130 0x40 % 8 ≠ 0 ∧ 0x40 / 32 ∈ p.poison) ∧
    (∀ off : Nat, off ∈ [0x1018, 0x1020, 0x1028, 0x1100, 0x1108, 0x1110, 0x1118, 0x100018, 0x10FFE0, 0x200008, 0x200020,
        0x200028, 0x201000, 0x2013F8, 0x300040, 0x300098, 0x3000A0, 0x400040, 0x3FFFFF8] →
      off < 0x4000000 ∧ off % 8 = 0 ∧ hasBehaviour off 5 = false) ∧
    (s.link.up = true ∧ s.link.held .toDevice 0 = false ∧
      ({ s.link with holdIn := s.link.holdIn.set 0 true } : Link).held .toDevice 0 = true ∧
      ({ s.link with holdOut := s.link.holdOut.set 2 true } : Link).held .toHost 2 = true) ∧
    (down.link.up = false ∧ down.sec.stage ≠ 1 ∧ down.harts[0]? = some hart ∧
      ({ hart with sentAt := some 0 } : Hart).sentAt = some 0 ∧ ({ hart with sentAt := some 1 } : Hart).timedOut = false ∧
      150000000 ≤ (down.hall.hcnt - 0).toNat ∧ (down.hall.hcnt - 1).toNat < 150000000) := by
  refine ⟨⟨rfl, 0, by decide⟩, fun cls => ⟨rfl, ?_⟩, by decide, by decide,
    ⟨⟨by decide, .inl ⟨by decide, by decide⟩⟩, ⟨by decide, .inr (by decide)⟩, sound_of rfl (by decide)⟩,
    ⟨by decide, by decide, sound_of rfl (by decide)⟩, by decide +kernel, by decide, by decide, by decide +kernel⟩
  revert cls
  decide

/-- A hart with one transfer under way. -/
def flying (f : Flight) : Hart := { hart with tags := hart.tags.set 15 (.busy f) }

theorem flying_first (f : Flight) :
    (∀ g : HallFault, g ∈ (one (flying f)).hall.faults → ¬ (g.hart = 0 ∧ g.source = .engine (15 : Slot).val)) ∧
    ∀ (u : Slot) (g : Flight), (flying f).tags[u] = .busy g → f.seq ≤ g.seq := by
  refine ⟨fun g hg => absurd hg (by simp [one, installHart, State.reset, Hall.reset]), fun u g hu => ?_⟩
  have free : ∀ v : Slot, hart.tags[v] = .free := by decide
  have all : (flying f).tags[u] = if 15 = u.val then .busy f else hart.tags[u] :=
    Vector.getElem_set (by decide) u.isLt
  rw [all, free u] at hu
  split at hu
  · cases hu; exact Nat.le_refl _
  · cases hu

/-- The collective of one I64 over device 0 alone: a sum, or the one of an operation. -/
def soloColl (op : Nat) : CollDesc := ⟨op, 4, 0, 0, 1, 0x1000000, 0x1000100, 1, 0x1000200, 8⟩

/-- The machine whose fabric is on, device 0 its only member, `hcnt` ticks after the start. -/
def membered (s : State) (hcnt : Word) : State := { s with
  fab := { s.fab with
    den := true
    dmemb := 1 }
  hall := { s.hall with hcnt := hcnt } }

/-- A copy comes to a fault of which `p` holds. -/
def failsWith (r : Got (Unit × Ctx)) (p : MemFault → Bool) : Bool :=
  match r with
  | .error (.fault f _) => p f
  | _ => false

/-- The checks and then the writes of a collective's end succeed. -/
def collWritten (c : Ctx) (d : CollDesc) (out : List Byte) (spoil : Bool) (high low : Nat) : Bool :=
  isDone (do
    let (_, c) ← c.checkRange d.dst out
    let (_, c) ← c.checkRange d.status (leBytes 8 low ++ leBytes 8 high)
    let (_, c) ← Ctx.writeRange (if spoil then c.spoilRange d.dst d.dstLen else c) d.dst out
    let (_, c) ← c.writeRange (d.status + 8) (leBytes 8 high)
    c.writeRange d.status (leBytes 8 low))

/-- The check of the status at a collective's end comes to a fault of which `p` holds. -/
def collStalls (c : Ctx) (d : CollDesc) (out : List Byte) (high low : Nat) (p : MemFault → Bool) : Bool :=
  failsWith (do
    let (_, c) ← c.checkRange d.dst out
    c.checkRange d.status (leBytes 8 low ++ leBytes 8 high)) p

/-- A copy inside the scratchpad, a zeroing one, one performed already, one to an unmapped page, and one to a page that
waits for a frame; a sum over device 0 alone that ends, one whose status waits for a page, one that has met a case, one that fails elsewhere, and one
before and at its timeout; merges of two members that agree and that disagree. -/
theorem witness_TransferEvents :
    let copy : Flight := ⟨.copy 0x100 0x200 8 false, 0, false, none, []⟩
    let run := fun (s : State) (f : Flight) (dst src len : Nat) (zero : Bool) =>
      Ctx.runCopy ⟨{ flying f with held := f.pages }, s⟩ dst src len zero
    let coll : Flight := ⟨.coll (soloColl 0) ⟨0, [], none, none, false⟩, 0, false, none, []⟩
    let c : Ctx := ⟨{ flying coll with held := [] }, membered (one (flying coll)) 1500000⟩
    ((flying copy).tags[(15 : Slot)] = .busy copy ∧ copy.done = false ∧ ({ copy with done := true } : Flight).done = true) ∧
    (isDone (run (one (flying copy)) copy 0x100 0x200 8 false) = true ∧
      isDone (Ctx.readRange ⟨{ flying copy with held := [] }, one (flying copy)⟩ 0x200 8) = true ∧
      isDone (Ctx.writeRange ⟨{ flying copy with held := [] }, one (flying copy)⟩ 0x100 (List.replicate 8 0)) = true) ∧
    failsWith (run (one (flying copy)) copy 0x100 0x8000 8 false) (fun g => !g.info.resolvable) = true ∧
    failsWith (run (paged (flying copy)) copy 0x100 0x1010000 8 false)
      (fun g => g.info.resolvable && g.cause != causeUncorr) = true ∧
    (peersOk c.s.fab.dord (soloColl 0) [] = true ∧
      isDone (Ctx.readRange c (soloColl 0).src (Ctx.collSrcLen c (soloColl 0))) = true ∧
      collWritten c (soloColl 0) (leBytes 8 5) false 0x1F00 0x100000000 = true ∧
      collWritten c (soloColl 0) [] true 0x41F00 5 = true ∧
      collStalls ⟨{ flying coll with held := [] }, paged (flying coll)⟩ { soloColl 0 with status := 0x1010000 }
        (leBytes 8 5) 0x1F00 0x100000000 (fun g => g.info.resolvable && g.cause != causeUncorr) = true) ∧
    (c.s.fab.cto ≤ (c.s.hall.hcnt - 0).toNat ∧ ((membered c.s 1499999).hall.hcnt - 0).toNat < c.s.fab.cto) ∧
    (4 ∈ [1, 3, 4, 5] ∧ 0x1F < 32) ∧
    (let p : CollMember := ⟨1, 0, 4, 0, 0, 3, 1, leBytes 8 5⟩
     (p.op = (soloColl 0).op ∧ p.typ = (soloColl 0).typ ∧ p.cls = (soloColl 0).cls ∧ p.k = (soloColl 0).k ∧
       p.count = (soloColl 0).count) ∧ p.op ≠ (soloColl 1).op ∧
     kindOf (soloColl 0).typ = .int true 64 ∧ streamOk [] = false) := by
  refine ⟨⟨rfl, rfl, rfl⟩, by decide +kernel, by decide +kernel, by decide +kernel, by decide +kernel, by decide +kernel,
    by decide, by decide +kernel⟩

/-- A signature of leaf 0 of a tree of height 15, its chain values and its path all zero. -/
def plainSig : List Byte :=
  beBytes 4 0 ++ beBytes 4 4 ++ List.replicate 1120 0 ++ beBytes 4 7 ++ List.replicate 480 0

/-- The root that the signature of a message leads to (RFC 8554, Algorithm 6a). -/
def rootOf (message : List Byte) : List Byte :=
  let ident : List Byte := List.replicate 16 0
  lmsClimb ident (2 ^ 15 + beValue (slice plainSig 0 4))
    (sha256 (ident ++ beBytes 4 (2 ^ 15 + beValue (slice plainSig 0 4)) ++ beBytes 2 0x8282 ++
      otsCandidate ident (beValue (slice plainSig 0 4)) message (slice plainSig 8 32) (slice plainSig 40 1088)))
    (chunks 32 15 (plainSig.drop 1132))

/-- The public key under which that signature verifies. -/
def keyOf (message : List Byte) : List Byte := (beBytes 4 7 ++ beBytes 4 4 ++ List.replicate 16 0) ++ rootOf message

theorem sha256_length (bs : List Byte) : (sha256 bs).length = 32 := by
  simp [sha256, beBytes, leBytes_length]

theorem lmsClimb_length (ident : List Byte) : ∀ (path : List (List Byte)) (node : Nat) (t : List Byte),
    t.length = 32 → (lmsClimb ident node t path).length = 32
  | [], _, _, h => h
  | _ :: rest, node, _, _ => lmsClimb_length ident rest (node / 2) _ (sha256_length _)

theorem rootOf_length (message : List Byte) : (rootOf message).length = 32 :=
  lmsClimb_length _ _ _ _ (sha256_length _)

theorem keyOf_slice (message : List Byte) (off n : Nat) (h : off + n ≤ 24) : slice (keyOf message) off n =
    slice (beBytes 4 7 ++ beBytes 4 4 ++ List.replicate 16 0) off n := by
  have hl : (beBytes 4 7 ++ beBytes 4 4 ++ List.replicate 16 (0 : Byte)).length = 24 := by decide
  unfold slice keyOf
  rw [List.drop_append_of_le_length (by omega), List.take_append_of_le_length (by simp only [List.length_drop]; omega)]

theorem keyOf_root (message : List Byte) : slice (keyOf message) 24 32 = rootOf message := by
  unfold slice keyOf
  rw [List.drop_left' (by decide), List.take_of_length_le (Nat.le_of_eq (rootOf_length _))]

theorem keyOf_verifies (message : List Byte) : lmsVerify (keyOf message) message plainSig = true := by
  have h0 : beValue (slice (keyOf message) 0 4) = 7 := by rw [keyOf_slice _ _ _ (by decide)]; decide
  have h4 : beValue (slice (keyOf message) 4 4) = 4 := by rw [keyOf_slice _ _ _ (by decide)]; decide
  have h8 : slice (keyOf message) 8 16 = List.replicate 16 0 := by rw [keyOf_slice _ _ _ (by decide)]; decide
  have hl : (keyOf message).length = 56 := by
    unfold keyOf
    rw [List.length_append, rootOf_length]
    decide
  have ht : lmsHeight 7 = some 15 := by decide
  unfold lmsVerify
  simp only [h0, h4, h8, hl, ht, keyOf_root]
  simp only [Bool.and_eq_true, beq_iff_eq, decide_eq_true_eq]
  exact ⟨⟨⟨⟨⟨⟨trivial, by decide +kernel⟩, trivial⟩, by decide +kernel⟩, by decide +kernel⟩, by decide +kernel⟩, rfl⟩

/-- A version 1 image of four bytes. -/
def image : List Byte :=
  leBytes 4 0x4E5A4657 ++ leBytes 4 1 ++ leBytes 8 4 ++ leBytes 8 0 ++ leBytes 4 7 ++ List.replicate 40 0 ++ plainSig

theorem image_head : imageHead image = ⟨0x4E5A4657, 1, 4, 0, 7, 0⟩ := by decide +kernel

/-- The device with the key that admits the image, at a stage. -/
def fused (stage minVersion : Nat) : Security := { State.reset.sec with
  stage := stage
  key := keyOf (image.take 68)
  minVersion := minVersion
  fwver := 1 }

theorem image_admitted (stage : Nat) : (fused stage 0).checkImage image = 0 := by
  have h7 : beValue (slice (keyOf (image.take 68)) 0 4) = 7 := by rw [keyOf_slice _ _ _ (by decide)]; decide
  have hd : image.drop 68 = plainSig := by decide +kernel
  unfold Security.checkImage
  simp only [image_head]
  rw [show (fused stage 0).key = keyOf (image.take 68) from rfl, h7, show 64 + 4 = 68 from rfl, hd,
    keyOf_verifies]
  rfl

theorem image_old (stage : Nat) : (fused stage 2).checkImage image = 2 := by
  unfold Security.checkImage
  simp only [image_head]
  rfl

/-- The machine's memory with the image at 0. -/
def stagedMem : Memory := (one hart).mem.writeBytes 0 image

theorem take_readBytes (m : Memory) (tick a : Nat) : ∀ k n : Nat, k ≤ n →
    (m.readBytes tick a n).take k = m.readBytes tick a k := by
  intro k n h
  rw [Memory.readBytes_eq_map, Memory.readBytes_eq_map]
  simp only [fromTo, Nat.add_sub_cancel_left, ← List.map_take, List.take_range, Nat.min_eq_left h]

/-- The host's machine with a security state and the image staged. -/
def booting (c : Security) (x : Input) : State :=
  let s := hosted 5 listed [] x
  { s with
    sec := c
    mem := stagedMem }

/-- The same at the next stage of its boot. -/
def bootTurn (c : Security) : State := { booting c .idle with agenda := [.boot] }

theorem booting_mem (c : Security) (x : Input) : (booting c x).mem = stagedMem := by simp only [booting]

theorem passTime_mem (s : State) : s.passTime.mem = s.mem := by
  unfold State.passTime
  split <;> rfl

theorem passTime_poison (s : State) : s.passTime.poison = s.poison := by
  unfold State.passTime
  split <;> rfl

/-- What the ROM reads of the staged image is the image. -/
theorem staged_read (c : Security) (n : Nat) (hn : n ≤ image.length) :
    (turnTaken (bootTurn c) []).outerRead (baseOf (bootTurn c)) n = image.take n := by
  have hm : (turnTaken (bootTurn c) []).mem = stagedMem := by
    simp only [turnTaken, passTime_mem, bootTurn, booting_mem]
  have hp : (turnTaken (bootTurn c) []).poison = [] := by
    simp only [turnTaken, passTime_poison, bootTurn, booting, hosted, event, one, installHart, State.reset]
  generalize turnTaken (bootTurn c) [] = s at hm hp
  have hb : baseOf (bootTurn c) = 0 := by
    simp only [baseOf, bootTurn, booting, hosted, event, one, installHart, State.reset, Fabric.reset, Nat.zero_mul]
  have hs : s.outerRead 0 n = stagedMem.readBytes s.tick 0 n := by
    rw [State.outerRead_sound (fun b _ _ => by simp only [State.poisoned, hp, List.contains_nil]), hm]
  have hi : stagedMem.readBytes s.tick 0 image.length = image :=
    Memory.readBytes_writeBytes s.tick image (one hart).mem 0 (by decide +kernel)
  rw [hb, hs, ← take_readBytes stagedMem s.tick 0 n image.length hn, hi]

/-- A report about to be posted at the start of memory. -/
def signing (code : Nat) : Security := { fused 5 0 with
  fwdig := List.replicate 32 0
  report := some ⟨List.replicate 32 0, 0x80000, 0, code⟩ }

theorem witness_BootEvents_boot :
    (∀ n : Nat, n ∈ [1, 2, 3, 4] → (bootTurn (fused n 0)).agenda = .boot :: [] ∧
      (bootTurn (fused n 0)).rel.tripped = false ∧ (bootTurn (fused n 0)).sec.stage = n) ∧
    ((fused 3 0).staged = false ∧ (fused 3 0).flashImage = none ∧
      ({ fused 3 0 with flash := image } : Security).flashImage = some image ∧
      ({ fused 3 0 with flash := image } : Security).checkImage image = 0 ∧
      ({ fused 3 2 with flash := image } : Security).checkImage image ≠ 0) ∧
    (let c : Security := { fused 3 0 with staged := true, reclen := image.length }
     (turnTaken (bootTurn c) []).outerRead (baseOf (bootTurn c)) 64 = image.take 64 ∧
     image = (turnTaken (bootTurn c) []).outerRead (baseOf (bootTurn c)) c.reclen ∧ c.checkImage image = 0 ∧
     (imageHead (image.take 64)).size = some c.reclen ∧ (imageHead (image.take 64)).ok = true ∧
     (imageHead (image.take 64)).size ≠ some (fused 3 0).reclen) := by
  have hc : ∀ c : Security, c.key = (fused 3 0).key → c.minVersion = 0 → c.checkImage image = 0 := by
    intro c hk hv
    have := image_admitted 3
    unfold Security.checkImage at this ⊢
    rw [hk, hv]
    exact this
  refine ⟨?_, ⟨rfl, by decide +kernel, by decide +kernel, hc _ rfl rfl, ?_⟩, staged_read _ _ (by decide +kernel), ?_,
    hc _ rfl rfl, by decide +kernel, by decide +kernel, by decide +kernel⟩
  · intro n hn
    simp only [List.mem_cons, List.not_mem_nil, or_false] at hn
    rcases hn with rfl | rfl | rfl | rfl <;> exact ⟨rfl, rfl, rfl⟩
  · rw [show ({ fused 3 2 with flash := image } : Security).checkImage image = (fused 3 2).checkImage image from rfl,
      image_old]
    decide
  · rw [staged_read _ _ (Nat.le_refl _), List.take_length]

/-- A reset and a loss of power; recovery begun at STAGE 6 and ignored elsewhere; flash written whole and cut off; a
report asked for again, at a place that is not admitted, with no leaf left and with one; a report that fails and one
that is written. (The boot itself is in `witness_BootEvents_boot`.) -/
theorem witness_BootEvents :
    (booting (fused 1 0) .deviceReset).fab.dord = 0 ∧
    (booting (fused 1 0) (.powerLoss true)).input = .powerLoss true ∧
    (hostOpen (booting (fused 6 0) .recoveryGo) ∧ (fused 5 0).stage ≠ 6 ∧ (fused 6 0).stage = 6) ∧
    ((fused 5 0).stage = 5 ∧ (imageHead image).size = some image.length ∧ (imageHead image).ok = true ∧
      (fused 5 0).checkImage image = 0 ∧ (fused 5 0).minVersion ≤ 1 ∧ 1 ≤ (fused 5 0).fwver ∧ 0 < image.length) ∧
    (({ fused 5 0 with report := some ⟨[], 0, 0, 0⟩ } : Security).report.isSome = true ∧ (fused 5 0).report = none ∧
      (booting { fused 5 0 with aout := 1 } .attestRequest).aoutOk = false ∧
      (booting { fused 5 0 with nextLeaf := 2 ^ 35 } .attestRequest).aoutOk = true ∧
      (booting { fused 5 0 with nextLeaf := 2 ^ 35 - 1 } .attestRequest).sec.nextLeaf < 2 ^ 35) ∧
    (∀ n : Nat, n ∈ [0, 1] → ∃ r, (signing n).report = some r ∧ r.code = n ∧ r.nonce.length = 32 ∧
      sound (booting (signing n) .attestReportComplete) r.addr.toNat 3540) ∧
    (signing 0).fwdig.length = 32 := by
  refine ⟨rfl, rfl, ⟨⟨rfl, 0, by decide⟩, by decide, rfl⟩,
    ⟨rfl, by decide +kernel, by decide +kernel, image_admitted 5, by decide, by decide, by decide +kernel⟩, by decide, ?_, List.length_replicate ..⟩
  intro n _
  exact ⟨_, rfl, rfl, List.length_replicate .., fun b _ _ hm => nomatch hm⟩

/-- The host's machine with the fabric on and port 0 up to device 1. -/
def domained (x : Input) : State :=
  let s := linked x
  { s with fab := { s.fab with
    den := true
    dmemb := 3
    ports := s.fab.ports.set 0 { s.fab.ports[0] with up := true } } }

/-- The same with a sum over devices 0 and 1 under way. -/
def summing : Flight := ⟨.coll { soloColl 0 with group := 3 } ⟨0, [], none, none, false⟩, 0, false, none, []⟩

/-- Its machine while the host writes DMEMB. -/
def losing : State := { domained (.dmembWrite false 1) with harts := [flying summing] }

theorem flying_tags (f : Flight) (u : Slot) : (flying f).tags[u] = if 15 = u.val then .busy f else .free := by
  have free : ∀ v : Slot, hart.tags[v] = .free := by decide
  have all : (flying f).tags[u] = if 15 = u.val then .busy f else hart.tags[u] :=
    Vector.getElem_set (by decide) u.isLt
  rw [all, free u]

/-- A write of DMEMB with no collective under way, and one by which the one collective loses device 1. -/
theorem dmemb_clauses :
    (∀ (k : Nat) (h : Hart) (t : Slot) (f : Flight) (d : CollDesc) (st : CollStart),
      (domained .idle).harts[k]? = some h → h.tags[t] = .busy f → f.transfer ≠ .coll d st) ∧
    (losing.harts[0]? = some (flying summing) ∧ (flying summing).tags[(15 : Slot)] = .busy summing ∧
      losing.faultKnown 0 (.engine (15 : Slot).val) = false ∧
      (∀ (j : Nat) (g : Hart) (u : Slot) (fl : Flight) (e : CollDesc) (w : CollStart), losing.harts[j]? = some g →
        g.tags[u] = .busy fl → fl.transfer = .coll e w → j = 0 ∧ u = 15) ∧
      (∀ (u : Slot) (g : Flight), (flying summing).tags[u] = .busy g → summing.seq ≤ g.seq) ∧
      collWritten ⟨{ flying summing with held := [] }, losing⟩ { soloColl 0 with group := 3 } [] true 0x1_1F81 5 = true ∧
      bitAt (3 : BitVec 128).toNat 1 = true ∧ bitAt losing.fab.dmemb.toNat 1 = true ∧
      bitAt (BitVec.ofNat 128 (losing.fab.dmemb.toNat / 2 ^ 64 * 2 ^ 64 + (1 : BitVec 64).toNat)).toNat 1 = false ∧
      bitAt (BitVec.ofNat 128 (losing.fab.dmemb.toNat / 2 ^ 64 * 2 ^ 64 + (1 : BitVec 64).toNat)).toNat 0 = true) := by
  refine ⟨?_, rfl, rfl, by decide +kernel, ?_, (flying_first _).2, by decide +kernel, by decide, by decide +kernel, by decide +kernel, by decide +kernel⟩
  · intro k h t f d st hk
    match k, hk with
    | 0, hk =>
      obtain rfl : hart = h := Option.some.inj hk
      have all : ∀ t : Slot, hart.tags[t] = .free := by decide
      rw [all t]
      intro hc
      cases hc
    | k + 1, hk => simp [domained, linked, hosted, event, one] at hk
  · intro j g u fl e w hj hu _
    match j, hj with
    | 0, hj =>
      obtain rfl : flying summing = g := by simpa [losing] using hj
      rw [flying_tags] at hu
      split at hu
      · exact ⟨rfl, Fin.ext (by omega)⟩
      · cases hu
    | j + 1, hj => simp [losing] at hj

/-- What `FabricAndPower` says of the fabric: flits sent and received, with the last one lost; a port that is up and one
that is not; a missing acknowledgement; accesses from outside at this device's edges, and beside them. -/
theorem fabric_clauses :
    let s := domained .idle
    hostOpen s ∧
    ((s.fab.ports[(0 : Fin 24)]).up = true ∧ (s.fab.ports[(1 : Fin 24)]).up = false ∧ s.fab.ports[23]?.isSome = true ∧
      127 < 128 ∧ 23 < 24) ∧
    (s.fab.den = true ∧ s.harts[0]? = some hart ∧ hart.status = .running ∧ hart.noAck = false) ∧
    ((∃ p : Fin 24, s.fab.ports[p].up = true) ∧ baseOf s ≤ 0 ∧ 0x100 + 8 ≤ baseOf s + 2 ^ 39 ∧
      (0x108 : Nat) % 8 = 0 ∧ sound s 0x100 8) ∧
    (({ s with agenda := [.outside (.store (2 ^ 51) [0x55])] } : State).agenda = .outside (.store (2 ^ 51) [0x55]) :: [] ∧
      s.rel.tripped = false ∧ baseOf s + 2 ^ 39 ≤ 2 ^ 51 ∧ 2 ^ 51 / 32 ∉ s.poison) := by
  refine ⟨⟨rfl, 0, by decide⟩, by decide +kernel, by decide, ⟨⟨0, by decide +kernel⟩, by decide, by decide,
    by decide, sound_of rfl (by decide)⟩, by decide⟩

/-- The scrub's next sector, and one that it has passed in this pass, with a poisoned sector far off; power below, at
and above the limit; every clock at its lowest, with bandwidth left; a throttle; temperatures at the thresholds; the
steps taken back. -/
theorem power_clauses :
    let s := linked (.hbmScrub (2 ^ 34 - 1) .clean)
    let r : Reliability := s.rel
    let low : Reliability := { r with qclk := Vector.replicate 32 0 }
    let past : Reliability := { r with scrubNext := 5 }
    (s.fab.dord * 2 ^ 34 + (2 ^ 34 - 1) ∉ s.poison ∧ r.scrubNext ≤ 2 ^ 34 - 1 ∧ s.fab.dord * 2 ^ 34 + 99 ∉ s.poison ∧
      (∀ p : Nat, p ∈ s.poison → p < s.fab.dord * 2 ^ 34 + r.scrubNext ∨ s.fab.dord * 2 ^ 34 + 100 ≤ p) ∧
      4 < past.scrubNext ∧ (s.hall.hcnt - past.scrubSince).toNat < 129600000000000) ∧
    (2 ^ 16 - 1 < 2 ^ 16 ∧ r.throttled = false ∧ 2800 ≤ r.plim ∧ r.plim ≤ 2800 + 100 ∧ r.plim < 2801 ∧
      (∃ q : Fin 32, 0 < r.qclk[q]) ∧ 2699 + 100 < r.plim ∧
      ({ r with history := [.clock 31] } : Reliability).history = .clock (31 : Fin 32).val :: [] ∧
      ({ r with history := [.bandwidth] } : Reliability).history = .bandwidth :: [] ∧
      (∀ q : Fin 32, low.qclk[q] = 0) ∧ low.hbmLimit < 9 ∧
      ({ r with throttled := true } : Reliability).throttled = true) ∧
    (800 ≤ 879 ∧ 879 < 880 ∧ 759 < 760 ∧ 880 ≤ 880 ∧ s.mem.wf = true) ∧
    (({ s with rel := { r with tripped := true } } : State).rel.tripped = true ∧ s.agenda = [] ∧
      Turn.hart 0 ≠ .event .deviceReset) := by
  refine ⟨by decide, ⟨by decide, by decide, by decide, by decide, by decide, ⟨0, by decide⟩, by decide, rfl, rfl,
      by decide, by decide, rfl⟩,
    by decide +kernel, rfl, rfl, by decide⟩

/-- Soft errors of each kind, at the first turn. -/
theorem soft_clauses :
    let h := flying ⟨.copy 0x100 0x200 8 false, 0, false, none, []⟩
    let s : State := { one h with agenda := [.soft (.moved 0 (15 : Slot).val 0x207)] }
    (s.agenda = .soft (.moved 0 (15 : Slot).val 0x207) :: [] ∧ s.rel.tripped = false) ∧
    (2 ^ 34 - 1) / 2 ^ 34 = s.fab.dord ∧ (2 ^ 34 - 1) ∉ s.poison ∧
    (s.harts[0]? = some h ∧ h.status = .running ∧ h.run = none) ∧
    (h.tags[(15 : Slot)] = .busy ⟨.copy 0x100 0x200 8 false, 0, false, none, []⟩ ∧ 0x200 ≤ (0x207 : Word).toNat ∧
      (0x207 : Word).toNat < 0x200 + 8 ∧ (0x207 : Word).toNat < h.scratchSize ∧
      ∀ (u : Slot) (g : Flight), h.tags[u] = .busy g → 0 ≤ g.seq) :=
  ⟨by decide +kernel, by decide, by decide, by decide, rfl, by decide, by decide, by decide, fun _ _ _ => Nat.zero_le _⟩

/-- R403: an uncorrectable word of core storage ends the hart with STATUS 2, UNCORR in LERR. -/
theorem test_soft_error :
    (match step { one hart with agenda := [.soft (.read 0 0x40)] } with
      | .next t => t.rel.uecnt == 1 && t.rel.uelast == 0 && t.harts.all (fun h => h.status == .ended)
      | _ => false) = true := by
  decide +kernel

theorem witness_FabricAndPower :
    hostOpen (domained .idle) ∧ losing.faultKnown 0 (.engine 15) = false ∧ (linked .idle).rel.throttled = false :=
  ⟨fabric_clauses.1, dmemb_clauses.2.2.2.1, power_clauses.2.1.2.1⟩

/-- A word, a well-formed instruction, and an event that an input names. -/
theorem witness_DecodeOfEncode :
    (Instr.add 3 1 2).wellFormed = true ∧ (encode (.add 3 1 2)).isSome = true ∧ encode .deviceReset = none ∧
    eventOf .deviceReset = some .deviceReset := by decide

/-- The last word, refused; a word that decodes. -/
theorem witness_EncodeOfDecode :
    (0xFFFFFFFF : Nat) < 2 ^ 32 ∧ decodeWord 0xFFFFFFFF = .illegal 0 none ∧ (0x08611000 : Nat) < 2 ^ 32 ∧
    decodeWord 0x08611000 = .instr (.add 3 1 2) := by decide

/-- A fetch leaves a context of which `p` holds. -/
def isFetchCtx (r : Got (Nat × Ctx)) (p : Ctx → Bool) : Bool := match r with | .ok (_, c) => p c | _ => false

/-- A hart that a handler has left in a span of n words, two words below its PC. -/
def spanned (n : Nat) : Hart := { hart with loose := some (0x0FFFFF8, n) }

/-- Turns of a hart, a virtual processor, an event and a look at the window; a fetch of an instruction, of a word that
is none, in a loose span and past it, one that faults and one that waits; a window instruction that stays unfinished, and one that completes. -/
theorem witness_StepRunsDecoded :
    let s := standing (.add 3 1 2) id
    let bad : State := State.reset.withFetchWord 32 0xFFFFFFFF
    let lost : Hart := { hart with pc := 0x8000 }
    let far : Hart := { hart with pc := 0x40000000 }
    let look := fun (f : Hart → Hart) => standing (.vld 1 2 false) (fun h => f { h with ahead := [7], vcols := 8 })
    (({ s with agenda := [.hart 0] } : State).agenda = .hart 0 :: [] ∧ s.rel.tripped = false) ∧
    (({ s with agenda := [.vp 0 0] } : State).agenda = .vp 0 0 :: []) ∧
    (({ s with agenda := [.event .deviceReset] } : State).agenda = .event .deviceReset :: [] ∧
      eventOf .deviceReset = some .deviceReset) ∧
    (hart.status = .running ∧ hart.run = none ∧ hart.replay = none ∧ hart.stopAt = none ∧ hart.split = false) ∧
    (s.harts[0]? = some hart ∧
      isFetch (Ctx.fetch ⟨hart, s⟩ hart.pc) (fun w => decodeWord w == .instr (.add 3 1 2)) = true) ∧
    isFetch (Ctx.fetch ⟨hart, bad⟩ hart.pc) (fun w => decodeWord w == .illegal 0 none) = true ∧
    (∀ (n : Nat), n ∈ [1, 2, 3] → isFetchCtx (Ctx.fetch ⟨spanned n, one (spanned n)⟩ (spanned n).pc)
      (fun c => c.h.loose == some (0x0FFFFF8, n) && (c.h.pc - 0x0FFFFF8).toNat == 8 && hart.loose.isNone) = true) ∧
    isFault (Ctx.fetch ⟨lost, one lost⟩ lost.pc) = true ∧
    isWait (Ctx.fetch ⟨far, withHost far⟩ far.pc) = true ∧
    isPhys (Ctx.checked ⟨hart, s⟩ hart.pc.toNat 4 .fetch none) = true ∧
    (Turn.window 0 [7] ≠ .hart 0 ∧
      (match exec (.vld 1 2 false) (look (fun h => h.setX 2 0x100)) with
        | .next t => t.harts.map (fun h => h.drain.isSome) == [false]
        | _ => false) = true ∧
      (match exec (.vld 1 2 false) (look (fun h => { h.setX 2 0x7FFC with vtype := 2, vcols := 8 })) with
        | .next t => t.harts.map (fun h => h.drain.isSome) == [true]
        | _ => false) = true) ∧
    ({ s with rel := { s.rel with tripped := true } } : State).rel.tripped = true := by
  decide +kernel

/-- Both invariants hold after reset and after the probe's load, and a step from there answers a next state. -/
theorem witness_MemoryStaysCanonical :
    State.reset.mem.wf = true ∧ (State.reset.withFetchWord 32 0x08611000).mem.wf = true ∧
    (match step (State.reset.withFetchWord 32 0x08611000) with | .next _ => true | _ => false) = true := by
  decide +kernel

theorem witness_LocalMemoryStaysCanonical :
    ∀ h ∈ (one stored).harts, h.scratch.wf = true ∧ h.sdata.wf = true ∧
      ∀ r : CtxRecord, h.record = some r → ∀ a b : Memory, r.image = some (a, b) → a.wf = true ∧ b.wf = true := by
  intro h hh
  obtain rfl : h = stored := by simpa [one] using hh
  refine ⟨by decide +kernel, by decide +kernel, fun r hr => ?_⟩
  rw [show stored.record = none from by decide +kernel] at hr
  cases hr

end Sys2Proof.Tests
end

section
/-!
PROOFS. Scalar floating point and control transfers (spec 05): FKIND's word (R129), the scalar floating instructions
(R128), and branches and jumps (R132, R133).
-/
namespace Sys2Proof.Machine

open Sys2Proof.Claims

/-! ### The frame of an instruction that reads no tag -/

@[simp] theorem HRes.tagTrap_done (c : Ctx) : (HRes.done c).tagTrap = false := rfl
@[simp] theorem HRes.tagTrap_goto (c : Ctx) (pc : Word) : (HRes.goto c pc).tagTrap = false := rfl

/-- An instruction that may issue, and whose own effect is no refusal of a tag, has that effect. -/
theorem runHart_of_issues {i : Instr} {s : State} {h : Hart} {f : Ctx → HRes} {r : HRes} (hi : Issues i s h)
    (hf : f ⟨h, s⟩ = r) (hr : r.tagTrap = false) : runHart i s f = .next (settle s.cur r) := by
  subst hf
  rw [runHart_issued f hi.turn hi.running hi.noRun hi.prefixOk hi.vtypeOk hi.splitOk, withTags_effect hr]

/-! ### Bits and signs -/

/-- The top bit of an n-bit pattern, as a number. -/
theorem bool01_bitAt_top {n x : Nat} (hn : 0 < n) (hx : x < 2 ^ n) : bool01 (bitAt x (n - 1)) = x / 2 ^ (n - 1) := by
  have hlt : x / 2 ^ (n - 1) < 2 := by
    rw [Nat.div_lt_iff_lt_mul (by positivity), ← pow_succ', Nat.sub_add_cancel hn]
    exact hx
  generalize hq : x / 2 ^ (n - 1) = q at hlt
  have hb : bitAt x (n - 1) = (q % 2 == 1) := by rw [bitAt, hq]
  rw [hb]
  interval_cases q <;> rfl

/-- sext(x, n) of R8 is the sign extension of an n-bit word. -/
theorem sext_toNat {n : Nat} (hn : n ≤ 64) (b : BitVec n) : sext n b.toNat = b.signExtend 64 := by
  have hmsb : bitAt b.toNat (n - 1) = b.msb := by
    rw [BitVec.msb_eq_getLsbD_last, BitVec.getLsbD, Nat.testBit_eq_decide_div_mod_eq, bitAt]
    rfl
  have hlt : b.toNat < 2 ^ 64 := b.isLt.trans_le (Nat.pow_le_pow_right (by omega) hn)
  have hle : 2 ^ n ≤ 2 ^ 64 := Nat.pow_le_pow_right (by omega) hn
  apply BitVec.eq_of_toNat_eq
  rw [BitVec.toNat_signExtend, BitVec.toNat_setWidth, Nat.mod_eq_of_lt hlt, sext, hmsb, Nat.mod_eq_of_lt b.isLt]
  have hb := b.isLt
  cases b.msb
  · simpa using Nat.mod_eq_of_lt hlt
  · simp only [if_true, BitVec.toNat_ofNat]
    omega

/-- An n-bit pattern of an integer fits n bits. -/
theorem ofInt_lt (n : Nat) (v : Int) : ofInt n v < 2 ^ n := by
  have hpos : (0 : Int) < (2 ^ n : Nat) := by positivity
  have h0 := Int.emod_nonneg v hpos.ne'
  have h1 := Int.emod_lt_of_pos v hpos
  unfold ofInt
  omega

/-- An integer that fits 16 bits is read back from its pattern. -/
theorem toSigned_ofInt_16 {v : Int} (hlo : -2 ^ 15 ≤ v) (hhi : v < 2 ^ 15) : toSigned 16 (ofInt 16 v) = v := by
  unfold toSigned
  rw [Nat.mod_eq_of_lt (ofInt_lt 16 v)]
  unfold ofInt
  split <;> omega

/-! ### Branches and jumps (R132, R133) -/

/-- Each branch is `Ctx.branch` on the offset and the condition of its entry (R132). -/
theorem branch_effect {h : Hart} {i : Instr} {off : BitVec 13} {taken : Bool}
    (hf : branchForm h i = some (off, taken)) (s : State) :
    ∃ f : Ctx → HRes, exec i s = runHart i s f ∧ f ⟨h, s⟩ = Ctx.branch ⟨h, s⟩ off taken := by
  unfold branchForm at hf
  split at hf <;> cases hf
  case h_1 a b => exact ⟨effBeq a b off, rfl, rfl⟩
  case h_2 a b => exact ⟨effBne a b off, rfl, congrArg (Ctx.branch ⟨h, s⟩ off) (decide_not ..).symm⟩
  case h_3 a b => exact ⟨effBlt a b off, rfl, rfl⟩
  case h_4 a b => exact ⟨effBge a b off, rfl, congrArg (Ctx.branch ⟨h, s⟩ off) BitVec.sle_eq_not_slt.symm⟩
  case h_5 a b => exact ⟨effBltu a b off, rfl, rfl⟩
  case h_6 a b => exact ⟨effBgeu a b off, rfl, congrArg (Ctx.branch ⟨h, s⟩ off) (BitVec.ule_eq_not_ult ..).symm⟩

/-- A branch is a transfer to PC + 4 × sext(off13, 13), or it completes. -/
theorem Ctx.branch_eq (c : Ctx) (off : BitVec 13) (taken : Bool) :
    c.branch off taken = if taken then .goto c (c.h.pc + 4 * off.signExtend 64) else .done c := by
  rw [Ctx.branch, sext_toNat (by decide)]

/-- A branch goes to its target or falls through (R132). -/
theorem exec_branch {s : State} {h : Hart} {i : Instr} {off : BitVec 13} {taken : Bool} (hi : Issues i s h)
    (hf : branchForm h i = some (off, taken)) :
    exec i s = .next (if taken then jumped s h (h.pc + 4 * off.signExtend 64) else finished s h) := by
  obtain ⟨f, hx, hr⟩ := branch_effect hf s
  rw [Ctx.branch_eq] at hr
  rw [hx]
  cases taken
  · exact runHart_of_issues hi hr rfl
  · exact runHart_of_issues hi hr rfl

/-- JAL links in X1 and jumps (R133). -/
theorem exec_jal {s : State} {h : Hart} {off : BitVec 26} (hi : Issues (.jal off) s h) :
    exec (.jal off) s = .next (jumped s (h.setX 1 (h.pc + 4)) (h.pc + 4 * off.signExtend 64)) := by
  rw [← sext_toNat (by decide)]
  exact runHart_of_issues hi rfl rfl

/-- JALR to a word's address links in xd and jumps, with xa as it was before (R133). -/
theorem exec_jalr_aligned {s : State} {h : Hart} {d a : XReg} {imm : BitVec 16} (hi : Issues (.jalr d a imm) s h)
    (ht : (h.getX a + 4 * imm.signExtend 64).toNat % 4 = 0) :
    exec (.jalr d a imm) s = .next (jumped s (h.setX d (h.pc + 4)) (h.getX a + 4 * imm.signExtend 64)) := by
  rw [← sext_toNat (by decide)] at ht ⊢
  exact runHart_of_issues hi (if_neg (fun hne => bne_iff_ne.mp hne ht)) rfl

/-- JALR to another address raises MISALIGN, detail 1, and writes nothing (R133, R288). -/
theorem exec_jalr_misaligned {s : State} {h : Hart} {d a : XReg} {imm : BitVec 16} (hi : Issues (.jalr d a imm) s h)
    (ht : (h.getX a + 4 * imm.signExtend 64).toNat % 4 ≠ 0) :
    exec (.jalr d a imm) s =
      .next (trapped s h { Trap.plain causeMisalign 1 with addr := h.getX a + 4 * imm.signExtend 64 }) := by
  rw [← sext_toNat (by decide)] at ht ⊢
  exact runHart_of_issues (r := .trap ⟨h, s⟩ _) hi (if_pos (bne_iff_ne.mpr ht)) rfl

/-! ### Scalar floating operands and results (R19, R128) -/

/-- A double operand is all 64 bits of its register. -/
theorem Hart.fpBits_double (h : Hart) (r : XReg) : h.fpBits false r = h.getU r := by
  simp only [Hart.fpBits, fpWidth, Bool.false_eq_true, if_false]
  exact Nat.mod_eq_of_lt (h.getX r).isLt

/-- The value of an operand is the table's. -/
theorem Hart.fpArg_eq (h : Hart) (single : Bool) (r : XReg) : h.fpArg single r = fpValue h single r := by
  cases single
  · simp only [Hart.fpArg, Hart.fpBits_double, fpValue, scalarFmt, Bool.false_eq_true, if_false]
  · simp only [Hart.fpArg, Hart.fpBits, fpWidth, fpValue, scalarFmt, if_true]

/-- With no raised flag enabled, a result is written and its flags are set (R128). -/
theorem Ctx.fpPut_done {c : Ctx} {d : XReg} {r : Nat × Flags} (he : c.h.enabledFlag r.2 = none) :
    c.fpPut d r = .done { c with h := (c.h.orFlags r.2).setX d (BitVec.ofNat 64 r.1) } := by
  simp only [Ctx.fpPut, he]; rfl

/-- With one enabled, the flags are set and FPX is raised (R288). -/
theorem Ctx.fpPut_trap {c : Ctx} {d : XReg} {r : Nat × Flags} {k : Nat} (he : c.h.enabledFlag r.2 = some k) :
    c.fpPut d r = .trap { c with h := c.h.orFlags r.2 } (.fpx k 0 none) := by
  simp only [Ctx.fpPut, he]

/-- No raised flag is no enabled one. -/
theorem Hart.enabledFlag_zero (h : Hart) : h.enabledFlag 0 = none := by
  simp [Hart.enabledFlag, bitAt]

/-- No flag leaves FPCSR as it was. -/
theorem Hart.orFlags_zero (h : Hart) : h.orFlags 0 = h := by
  simp [Hart.orFlags]

/-- A result without flags is written as it is. -/
theorem Ctx.putN_eq_fpPut (c : Ctx) (d : XReg) (n : Nat) : c.putN d n = c.fpPut d (n, 0) := by
  rw [Ctx.fpPut_done c.h.enabledFlag_zero, Hart.orFlags_zero]; rfl

/-- An operation on one operand writes its rounded result, with the flags of both. -/
theorem Ctx.fp1_eq (c : Ctx) (d a : XReg) (single : Bool) (f : Val → Val × Flags) :
    c.fp1 d a single f = c.fpPut d (fpRounded c.h single (f (fpValue c.h single a))) := by
  rw [Ctx.fp1, Hart.fpArg_eq]; rfl

/-- So does one on two operands. -/
theorem Ctx.fp2_eq (c : Ctx) (d a b : XReg) (single : Bool) (f : Rounding → Val → Val → Val × Flags) :
    c.fp2 d a b single f =
      c.fpPut d (fpRounded c.h single (f c.h.scalarRounding (fpValue c.h single a) (fpValue c.h single b))) := by
  rw [Ctx.fp2, Hart.fpArg_eq, Hart.fpArg_eq]; rfl

/-- So does one on three operands. -/
theorem Ctx.fp3_eq (c : Ctx) (d a b e : XReg) (single : Bool) (f : Rounding → Val → Val → Val → Val × Flags) :
    c.fp3 d a b e single f =
      c.fpPut d (fpRounded c.h single
        (f c.h.scalarRounding (fpValue c.h single a) (fpValue c.h single b) (fpValue c.h single e))) := by
  rw [Ctx.fp3, Hart.fpArg_eq, Hart.fpArg_eq, Hart.fpArg_eq]; rfl

/-- A rounding of a value that no flag comes with. -/
theorem fpRounded_noFlags (h : Hart) (single : Bool) (v : Val) :
    fpRounded h single (v, 0) = (scalarFmt single).round h.scalarRounding v :=
  Prod.ext rfl BitVec.or_zero

/-- A signalling NaN is a NaN. -/
theorem Val.isNan_of_isSnan {v : Val} (h : v.isSnan = true) : v.isNan = true := by
  cases v with
  | nan _ => rfl
  | _ => cases h

/-- A comparison writes its truth value, and NV for a NaN that it does not admit (R50). -/
theorem Ctx.fpCompare_eq (c : Ctx) (d a b : XReg) (single quiet : Bool) (f : Val → Val → Bool) :
    c.fpCompare d a b single quiet f =
      c.fpPut d (fpCompared (fpValue c.h single a) (fpValue c.h single b) (!quiet)
        (f (fpValue c.h single a) (fpValue c.h single b))) := by
  simp only [Ctx.fpCompare, Hart.fpArg_eq]
  generalize fpValue c.h single a = x
  generalize fpValue c.h single b = y
  have hsnan : (x.isSnan || y.isSnan) = true → (x.isNan || y.isNan) = true := by
    simp only [Bool.or_eq_true]
    exact Or.imp Val.isNan_of_isSnan Val.isNan_of_isSnan
  have hinvalid : (if quiet then x.isSnan || y.isSnan else x.isNan || y.isNan) =
      (x.isSnan || y.isSnan || (!quiet && (x.isNan || y.isNan))) := by
    cases quiet
    · exact (Bool.or_eq_right_iff_imp.mpr hsnan).symm
    · exact (Bool.or_false _).symm
  rw [hinvalid, Bool.not_or]
  rfl

/-- FABS clears the sign bit (R128). -/
theorem Hart.fpBits_abs (h : Hart) (single : Bool) (r : XReg) :
    h.fpBits single r % 2 ^ (fpWidth single - 1) = if single then h.getU r % 2 ^ 31 else h.getU r % 2 ^ 63 := by
  cases single
  · rw [Hart.fpBits_double]; rfl
  · exact Nat.mod_mod_of_dvd _ (Nat.pow_dvd_pow 2 (by decide))

/-- FNEG inverts the sign bit (R128). -/
theorem Hart.fpBits_neg (h : Hart) (single : Bool) (r : XReg) :
    h.fpBits single r ^^^ 2 ^ (fpWidth single - 1) =
      if single then (h.getU r % 2 ^ 32) ^^^ 2 ^ 31 else h.getU r ^^^ 2 ^ 63 := by
  cases single
  · rw [Hart.fpBits_double]; rfl
  · rfl

/-- FKIND reads its operand in the selected format (R129). -/
theorem kindWord_fpBits (h : Hart) (single : Bool) (r : XReg) :
    kindWord (scalarFmt single) (h.fpBits single r) =
      if single then kindWord fmtF32 (h.getU r % 2 ^ 32) else kindWord fmtF64 (h.getU r) := by
  cases single
  · rw [Hart.fpBits_double]; rfl
  · rfl

/-- Each scalar floating instruction writes the table's result with the table's flags (R128, R129). -/
theorem float_effect {h : Hart} {i : Instr} {d : XReg} {r : Nat × Flags} (hf : fpResult h i = some (d, r))
    (s : State) : ∃ f : Ctx → HRes, exec i s = runHart i s f ∧ f ⟨h, s⟩ = Ctx.fpPut ⟨h, s⟩ d r := by
  unfold fpResult at hf
  split at hf <;> cases hf
  case h_1 a b g => exact ⟨effFadd d a b g, rfl, Ctx.fp2_eq ..⟩
  case h_2 a b g => exact ⟨effFsub d a b g, rfl, Ctx.fp2_eq ..⟩
  case h_3 a b g => exact ⟨effFmul d a b g, rfl, Ctx.fp2_eq ..⟩
  case h_4 a b g => exact ⟨effFdiv d a b g, rfl, Ctx.fp2_eq ..⟩
  case h_5 a g => exact ⟨effFsqrt d a g, rfl, Ctx.fp1_eq ..⟩
  case h_6 a b g => exact ⟨effFmin d a b g, rfl, Ctx.fp2_eq ..⟩
  case h_7 a b g => exact ⟨effFmax d a b g, rfl, Ctx.fp2_eq ..⟩
  case h_8 a b c g => exact ⟨effFma d a b c g, rfl, Ctx.fp3_eq ..⟩
  case h_9 a b c g => exact ⟨effFnma d a b c g, rfl, Ctx.fp3_eq ..⟩
  case h_10 a b g => exact ⟨effFeq d a b g, rfl, Ctx.fpCompare_eq ..⟩
  case h_11 a b g => exact ⟨effFlt d a b g, rfl, Ctx.fpCompare_eq ..⟩
  case h_12 a b g => exact ⟨effFle d a b g, rfl, Ctx.fpCompare_eq ..⟩
  case h_13 a g => exact ⟨effFcvtDL d a g, rfl, by rw [fpRounded_noFlags]; rfl⟩
  case h_14 a g => exact ⟨effFcvtLD d a g, rfl, by rw [effFcvtLD, Hart.fpArg_eq]⟩
  case h_15 a => exact ⟨effFcvtDS d a, rfl, by rw [effFcvtDS, Hart.fpArg_eq, fpRounded_noFlags]; rfl⟩
  case h_16 a => exact ⟨effFcvtSD d a, rfl, by rw [effFcvtSD, Hart.fpArg_eq, fpRounded_noFlags]; rfl⟩
  case h_17 a g => exact ⟨effFabs d a g, rfl, by rw [effFabs, Ctx.putN_eq_fpPut, Hart.fpBits_abs]⟩
  case h_18 a g => exact ⟨effFneg d a g, rfl, by rw [effFneg, Ctx.putN_eq_fpPut, Hart.fpBits_neg]⟩
  case h_19 a g => exact ⟨effFkind d a g, rfl, by rw [effFkind, Ctx.putN_eq_fpPut, kindWord_fpBits]⟩

/-- With no raised flag enabled, a scalar floating instruction completes, its flags set (R128). -/
theorem exec_float_done {s : State} {h : Hart} {i : Instr} {d : XReg} {bits : Nat} {fl : Flags} (hi : Issues i s h)
    (hf : fpResult h i = some (d, (bits, fl))) (he : h.enabledFlag fl = none) :
    exec i s = .next (finished s ((h.orFlags fl).setX d (BitVec.ofNat 64 bits))) := by
  obtain ⟨f, hx, hr⟩ := float_effect hf s
  rw [Ctx.fpPut_done he] at hr
  rw [hx]
  exact runHart_of_issues hi hr rfl

/-- With one enabled, it raises FPX, its flags set and xd unchanged (R288). -/
theorem exec_float_fpx {s : State} {h : Hart} {i : Instr} {d : XReg} {bits k : Nat} {fl : Flags} (hi : Issues i s h)
    (hf : fpResult h i = some (d, (bits, fl))) (he : h.enabledFlag fl = some k) :
    exec i s = .next (trapped s (h.orFlags fl) (Trap.fpx k 0 none)) := by
  obtain ⟨f, hx, hr⟩ := float_effect hf s
  rw [Ctx.fpPut_trap he] at hr
  rw [hx]
  exact runHart_of_issues hi hr rfl

/-! ### FKIND's word (R129) -/

/-- KIND of an operand's value. -/
def kindCode (f : Fmt) : Val → Nat
  | .zero _ => 0
  | .fin _ m e _ => if exponentOf m e < f.qmin + (f.p - 1 : Nat) then 1 else 2
  | .inf _ => 3
  | .nan sig => if sig then 5 else 4

/-- EXP of an operand's value. -/
def kindExp : Val → Nat
  | .fin _ m e _ => ofInt 16 (exponentOf m e)
  | _ => 0

/-- FKIND's word holds KIND, SIGN and EXP, and nothing else. -/
theorem kindWord_eq (f : Fmt) (bits : Nat) :
    kindWord f bits =
      kindCode f (f.value bits) + 8 * bool01 (bitAt bits (f.width - 1)) + 2 ^ 16 * kindExp (f.value bits) := by
  unfold kindWord
  cases f.value bits with
  | nan sig => cases sig <;> rfl
  | _ => rfl

/-- KIND fits its three bits. -/
theorem kindCode_lt (f : Fmt) (v : Val) : kindCode f v < 8 := by
  cases v with
  | zero _ => simp [kindCode]
  | fin _ _ _ _ => rw [kindCode]; split <;> omega
  | inf _ => simp [kindCode]
  | nan _ => rw [kindCode]; split <;> omega

/-- EXP fits its sixteen bits. -/
theorem kindExp_lt (v : Val) : kindExp v < 2 ^ 16 := by
  cases v with
  | fin _ m e _ => exact ofInt_lt 16 _
  | _ => exact Nat.two_pow_pos 16

/-- A value made from a magnitude is finite and non-zero only with that magnitude. -/
theorem Val.make_fin {neg neg' st : Bool} {m m' : Nat} {e e' : Int} (h : Val.make neg m e = .fin neg' m' e' st) :
    m' = m ∧ e' = e ∧ 0 < m := by
  unfold Val.make at h
  split at h <;> cases h
  next hm => exact ⟨rfl, rfl, Nat.pos_of_ne_zero (by simpa using hm)⟩

/-- A finite non-zero value is the code's own multiple of 2^qmin, below the least normal magnitude, or has the hidden
bit and the exponent of the code (R48). -/
theorem Fmt.value_fin {f : Fmt} {bits m : Nat} {neg st : Bool} {e : Int} (hv : f.value bits = .fin neg m e st) :
    0 < m ∧
    ((bits % 2 ^ (f.width - 1) < 2 ^ (f.p - 1) ∧ m < 2 ^ (f.p - 1) ∧ e = f.qmin) ∨
     (2 ^ (f.p - 1) ≤ bits % 2 ^ (f.width - 1) ∧ 2 ^ (f.p - 1) ≤ m ∧ m < 2 ^ (f.p - 1) + 2 ^ (f.p - 1) ∧
       f.qmin ≤ e ∧ e < f.qmin + (f.maxCode / 2 ^ (f.p - 1) : Nat))) := by
  unfold Fmt.value at hv
  dsimp only at hv
  generalize bits % 2 ^ (f.width - 1) = mag at hv ⊢
  have hpos : 0 < 2 ^ (f.p - 1) := Nat.two_pow_pos _
  have hmod : mag % 2 ^ (f.p - 1) < 2 ^ (f.p - 1) := Nat.mod_lt _ hpos
  split at hv
  · split at hv <;> cases hv
  next hmax =>
    split at hv
    next hsub =>
      obtain ⟨rfl, rfl, hm⟩ := Val.make_fin hv
      have hlt : mag < 2 ^ (f.p - 1) := (Nat.div_eq_zero_iff_lt hpos).mp (beq_iff_eq.mp hsub)
      exact ⟨hm, .inl ⟨hlt, hmod, rfl⟩⟩
    next hnorm =>
      obtain ⟨rfl, rfl, hm⟩ := Val.make_fin hv
      have hge : 1 ≤ mag / 2 ^ (f.p - 1) := Nat.pos_of_ne_zero (by simpa using hnorm)
      have hle : mag / 2 ^ (f.p - 1) ≤ f.maxCode / 2 ^ (f.p - 1) := Nat.div_le_div_right (Nat.not_lt.mp hmax)
      have hmag : 2 ^ (f.p - 1) ≤ mag := by simpa using (Nat.le_div_iff_mul_le hpos).mp hge
      exact ⟨hm, .inr ⟨hmag, by omega, by omega, by omega, by omega⟩⟩

/-- The exponents of a format's finite values fit the field EXP. -/
def Fmt.ExpFits (f : Fmt) : Prop :=
  -2 ^ 15 ≤ f.qmin ∧ f.qmin + (f.p - 1 : Nat) + (f.maxCode / 2 ^ (f.p - 1) : Nat) < 2 ^ 15

theorem fmtF32_expFits : fmtF32.ExpFits := ⟨by decide, by decide⟩
theorem fmtF64_expFits : fmtF64.ExpFits := ⟨by decide, by decide⟩

/-- KIND of a finite non-zero operand: 2 from the least normal magnitude on, 1 below it. -/
theorem kindCode_fin {f : Fmt} {bits m : Nat} {neg st : Bool} {e : Int} (hv : f.value bits = .fin neg m e st) :
    kindCode f (.fin neg m e st) = if 2 ^ (f.p - 1) ≤ bits % 2 ^ (f.width - 1) then 2 else 1 := by
  obtain ⟨hm, ⟨hmag, hlt, rfl⟩ | ⟨hmag, hge, -, he, -⟩⟩ := Fmt.value_fin hv
  · have hlog : Nat.log2 m < f.p - 1 := (Nat.log2_lt hm.ne').mpr hlt
    rw [if_neg (Nat.not_le.mpr hmag), kindCode, exponentOf, if_pos (by omega)]
  · have hlog : f.p - 1 ≤ Nat.log2 m := (Nat.le_log2 hm.ne').mpr hge
    rw [if_pos hmag, kindCode, exponentOf, if_neg (by omega)]

/-- EXP of a finite non-zero operand m × 2^e is floor(log2 m) + e. -/
theorem toSigned_kindExp {f : Fmt} (hfit : f.ExpFits) {bits m : Nat} {neg st : Bool} {e : Int}
    (hv : f.value bits = .fin neg m e st) : toSigned 16 (kindExp (.fin neg m e st)) = e + Nat.log2 m := by
  obtain ⟨hlo, hhi⟩ := hfit
  have hfin := Fmt.value_fin hv
  generalize f.maxCode / 2 ^ (f.p - 1) = top at hhi hfin
  obtain ⟨hm, ⟨-, hlt, rfl⟩ | ⟨-, -, hlt, he, he'⟩⟩ := hfin
  · have hlog : Nat.log2 m < f.p - 1 := (Nat.log2_lt hm.ne').mpr hlt
    rw [kindExp, exponentOf, toSigned_ofInt_16 (by omega) (by omega), add_comm]
  · have hlog : Nat.log2 m < f.p - 1 + 1 := (Nat.log2_lt hm.ne').mpr (by rw [pow_succ]; omega)
    rw [kindExp, exponentOf, toSigned_ofInt_16 (by omega) (by omega), add_comm]

/-- FKIND's word in a format whose exponents fit EXP, bit by bit (R129). -/
theorem kindWord_fields {f : Fmt} (hw : 0 < f.width) (hfit : f.ExpFits) {bits : Nat} (hb : bits < 2 ^ f.width) :
    ∃ kind ex : Nat, kind < 8 ∧ ex < 2 ^ 16 ∧
      kindWord f bits = kind + 8 * (bits / 2 ^ (f.width - 1)) + 2 ^ 16 * ex ∧
      (∀ (neg : Bool) (m : Nat) (e : Int) (st : Bool), f.value bits = .fin neg m e st →
        kind = (if 2 ^ (f.p - 1) ≤ bits % 2 ^ (f.width - 1) then 2 else 1) ∧
        ∃ k : Nat, 2 ^ k ≤ m ∧ m < 2 ^ (k + 1) ∧ toSigned 16 ex = e + k) ∧
      (∀ neg : Bool, f.value bits = .zero neg → kind = 0 ∧ ex = 0) ∧
      (∀ neg : Bool, f.value bits = .inf neg → kind = 3 ∧ ex = 0) ∧
      (∀ sig : Bool, f.value bits = .nan sig → kind = (if sig then 5 else 4) ∧ ex = 0) := by
  refine ⟨kindCode f (f.value bits), kindExp (f.value bits), kindCode_lt f _, kindExp_lt _, ?word, ?fin, ?zero, ?inf,
    ?nan⟩
  case word => rw [kindWord_eq, bool01_bitAt_top hw hb]
  case fin =>
    intro neg m e st hv
    have hm : m ≠ 0 := (Fmt.value_fin hv).1.ne'
    rw [hv]
    exact ⟨kindCode_fin hv, Nat.log2 m, Nat.log2_self_le hm, Nat.lt_log2_self, toSigned_kindExp hfit hv⟩
  all_goals
    intro _ hv
    rw [hv]
    exact ⟨rfl, rfl⟩

/-! ### The obligations -/

/-- Settles O3: FKIND's word from the value of its operand (`kindWord_fields`); every scalar floating instruction is one
write of a result with its flags (`float_effect`). -/
theorem floatResults : Obligations.FloatResults := by
  unfold Obligations.FloatResults
  refine ⟨fun f bits hf hb => ?_, fun s h i d bits fl hi hf =>
    ⟨exec_float_done hi hf, fun k => exec_float_fpx hi hf⟩⟩
  obtain rfl | rfl := hf
  · exact kindWord_fields (by decide) fmtF32_expFits hb
  · exact kindWord_fields (by decide) fmtF64_expFits hb

/-- Settles O8: every branch is one operation on its offset and condition (`branch_effect`); JAL and JALR by their own
effects. -/
theorem controlTransfers : Obligations.ControlTransfers := by
  unfold Obligations.ControlTransfers
  refine ⟨fun s h i off taken => exec_branch, fun s h => ⟨fun off => exec_jal, ?_⟩⟩
  rintro d a imm t hi rfl
  exact ⟨exec_jalr_aligned hi, exec_jalr_misaligned hi⟩

end Sys2Proof.Machine
end

section
/-!
PROOFS. The operator slots and the best-k merge of the shaft (spec 08): the status of OPLOAD is the first check of R195
that fails, the slots (R195, R196), and VMERGEK (R208).
-/
namespace Sys2Proof.Machine

open Sys2Proof.Claims

/-! ### The status of OPLOAD (R193 to R195) -/

/-- A field of n bits is an n-bit number. -/
theorem fld_lt (w lo n : Nat) : fld w lo n < 2 ^ n := Nat.mod_lt _ (Nat.two_pow_pos n)

/-- TIE and DIR are the two bits of one field (R192). -/
theorem opTie_or_opDir (w : Nat) : (opTie w || opDir w) = (fld w 16 2 != 0) := by
  have hdir : w / 2 ^ 17 = w / 2 ^ 16 / 2 := by rw [Nat.div_div_eq_div_mul]; rfl
  rw [opTie, opDir, bitAt, bitAt, fld, hdir, Bool.eq_iff_iff]
  simp only [Bool.or_eq_true, beq_iff_eq, bne_iff_ne]
  omega

/-- Of the tags of R45, F16, BF16, F32 and F64 are the floating ones that are not narrow. -/
theorem isIeee_kindOf_fld (w lo : Nat) : (kindOf (fld w lo 6)).isIeee = wideFloat (kindOf (fld w lo 6)) := by
  have hcodes : ∀ n < 2 ^ 6, (kindOf n).isIeee = wideFloat (kindOf n) := by decide
  exact hcodes _ (fld_lt w lo 6)

/-- The tags that the model admits for a descriptor are those of R194. -/
theorem opTagsOk_eq_opTags (w : Nat) : opTagsOk w = opTags w := by
  simp only [opTagsOk, opTags, opKind, opVtag, opCtag, isIeee_kindOf_fld]
  generalize fld w 0 4 = kind
  match kind with
  | 0 | 1 | 2 | 3 | 4 | _ + 5 => rfl

/-- An expression names source 14 or 15 when one of its two sources is at least 14 (R193). -/
theorem exprNames_state (x : Nat) : (exprNames x 14 || exprNames x 15) = exprState x := by
  have ha := fld_lt x 4 4
  have hb := fld_lt x 0 4
  rw [exprNames, exprNames, exprA, exprB, exprState, Bool.eq_iff_iff]
  simp only [Bool.or_eq_true, beq_iff_eq, decide_eq_true_eq]
  omega

/-- An expression is admitted when no code of it is reserved and B is zero under pass (R193). -/
theorem exprOk_eq_not_exprBad (x : Nat) : exprOk x = !exprBad x := by
  rw [exprOk, exprBad, exprOp, exprA, exprB, Bool.eq_iff_iff]
  simp only [Bool.and_eq_true, Bool.or_eq_true, Bool.not_eq_true', decide_eq_true_eq, bne_iff_ne, beq_iff_eq,
    Bool.or_eq_false_iff, Bool.and_eq_false_iff, decide_eq_false_iff_not, bne_eq_false_iff_eq, beq_eq_false_iff_ne]
  omega

/-- The kinds that R192 assigns. -/
theorem opKind_assigned (w : Nat) : [0, 1, 2, 3, 4, 8].contains (opKind w) = false ↔
    fld w 0 4 ≠ 0 ∧ fld w 0 4 ≠ 1 ∧ fld w 0 4 ≠ 2 ∧ fld w 0 4 ≠ 3 ∧ fld w 0 4 ≠ 4 ∧ fld w 0 4 ≠ 8 := by
  simp [opKind]

/-- The third check: bits 63:56, and a CUSTOM expression that names source 14 or 15. -/
theorem opStatus_third (w : Nat) :
    (fld w 56 8 != 0 ||
      (opKind w == 8 && [opLower w, opUpper w].any (fun x => exprNames x 14 || exprNames x 15))) = true ↔
    fld w 56 8 ≠ 0 ∨ (fld w 0 4 = 8 ∧ (exprState (fld w 24 12) || exprState (fld w 36 12)) = true) := by
  simp [opKind, opLower, opUpper, exprNames_state]

/-- The fourth check: the reserved bits, TIE and DIR of another kind than 0, and the expressions. -/
theorem opStatus_fourth (w : Nat) :
    (fld w 48 8 != 0 || fld w 18 6 != 0 || (opKind w != 0 && (opTie w || opDir w)) ||
      (if opKind w == 8 then !(exprOk (opLower w) && exprOk (opUpper w)) else opLower w != 0 || opUpper w != 0)) =
        true ↔
    fld w 48 8 ≠ 0 ∨ fld w 18 6 ≠ 0 ∨ (fld w 0 4 ≠ 0 ∧ fld w 16 2 ≠ 0) ∨
      (fld w 0 4 = 8 ∧ (exprBad (fld w 24 12) || exprBad (fld w 36 12)) = true) ∨
      (fld w 0 4 ≠ 8 ∧ (fld w 24 12 ≠ 0 ∨ fld w 36 12 ≠ 0)) := by
  by_cases hk : fld w 0 4 = 8 <;>
    simp [opKind, opLower, opUpper, opTie_or_opDir, exprOk_eq_not_exprBad, hk, or_assoc]

/-- The model's status of a descriptor is the first check of R195 that fails. -/
theorem opStatus_eq_loadStatus (w : Nat) : opStatus w = loadStatus w := by
  simp only [opStatus, loadStatus, opTagsOk_eq_opTags, opStatus_third, opStatus_fourth, Bool.not_eq_true',
    opKind_assigned]

/-! ### The slots (R195, R196) -/

/-- OPLOAD of an admitted descriptor writes it to the slot, and 0 to xd. -/
theorem exec_opload_admitted {s : State} {h : Hart} {d a : XReg} {slot : Slot} (hi : Issues (.opload d a slot) s h)
    (hst : loadStatus (h.getU a) = 0) :
    exec (.opload d a slot) s =
      .next (finished s ({ h with op := h.op.set slot (some (h.getX a)) }.setX d 0)) := by
  have hmodel : opStatus (h.getX a).toNat = 0 := (opStatus_eq_loadStatus _).trans hst
  refine runHart_of_issues hi ?_ rfl
  simp only [hmodel]
  rfl

/-- OPLOAD of another writes only its status. -/
theorem exec_opload_refused {s : State} {h : Hart} {d a : XReg} {slot : Slot} (hi : Issues (.opload d a slot) s h)
    (hst : loadStatus (h.getU a) ≠ 0) :
    exec (.opload d a slot) s = .next (finished s (h.setX d (BitVec.ofNat 64 (loadStatus (h.getU a))))) := by
  have hmodel : opStatus (h.getX a).toNat = loadStatus (h.getU a) := opStatus_eq_loadStatus _
  refine runHart_of_issues hi ?_ rfl
  simp only [hmodel, beq_iff_eq, if_neg hst]
  rfl

/-- OPQRY reads the slot, 0 when it is empty. -/
theorem exec_opqry {s : State} {h : Hart} {d : XReg} {slot : Slot} (hi : Issues (.opqry d slot) s h) :
    exec (.opqry d slot) s = .next (finished s (h.setX d (h.op[slot].getD 0))) :=
  runHart_of_issues hi rfl rfl

/-- OPCLR empties the slot. -/
theorem exec_opclr {s : State} {h : Hart} {slot : Slot} (hi : Issues (.opclr slot) s h) :
    exec (.opclr slot) s = .next (finished s { h with op := h.op.set slot none }) :=
  runHart_of_issues hi rfl rfl

/-! ### The best-k merge (R208) -/

/-- A register that is an arithmetic operand is not refused as one. -/
theorem Hart.useFault_of_arithTag {h : Hart} {t : Nat} {r : VReg} (hr : arithTag h t r) :
    h.useFault t useArith r = none := by
  simp only [arithTag, admitted, arithUse, usable, List.all_cons, List.all_nil, Bool.and_true, Bool.and_eq_true,
    Bool.or_eq_true, Bool.not_eq_true', bne_iff_ne, beq_iff_eq, decide_eq_true_eq] at hr
  obtain ⟨⟨⟨⟨hres, hwidth⟩, hsliced⟩, hraw⟩, hscaled⟩ := hr
  have hlayout : ((h.kind t r).isSliced && h.blk != 2) = false := by simpa [or_iff_not_imp_left] using hsliced
  simp [Hart.useFault, Hart.kindFault, hres, hraw, hwidth, hlayout, hscaled]

/-- An instruction that does not round, and none of whose tags is refused, has its effect. -/
theorem Ctx.guarded_of_no_fault {c : Ctx} {faults : List (Option Nat)} {k : HRes} (hf : firstFault faults = none) :
    c.guarded false faults k = k := by
  simp only [Ctx.guarded, Bool.false_and, Bool.false_eq_true, if_false, hf]

/-- The value that an element of an I, N or floating tag stands for, as the model reads it. -/
theorem element_toVal {h : Hart} {t : Nat} {r : VReg} (hk : (h.kind t r).isIN = true ∨ (h.kind t r).isFlt = true)
    (e : Nat) : (element h t r e).toVal = h.value t (h.kind t r) r e := by
  unfold element Hart.value
  cases hkind : h.kind t r with
  | int sgn w => simp [Kind.isInt, Kind.intVal, Kind.value, Num.toVal, Hart.scaled, Kind.isBlock]
  | flt f => simp [Kind.isInt, Num.toVal]
  | raw | e8m0 | sliced _ _ | reserved => simp [hkind, Kind.isIN, Kind.isFlt] at hk

/-- Applying a function to the elements of a list in order is a left fold. -/
theorem forEach_eq_foldl {α β : Type} (f : β → α → β) : ∀ (as : List α) (b : β), forEach as b f = as.foldl f b
  | [], _ => rfl
  | a :: as, b => forEach_eq_foldl f as (f b a)

/-- The lowest value of a tag. -/
theorem Kind.lowest_eq_lowestBits (k : Kind) : k.lowest = lowestBits k := by
  cases k with
  | int sgn w => cases sgn <;> rfl
  | _ => rfl

/-- The model ranks pairs as R208 does. -/
theorem pairBefore_eq_mergesBefore : pairBefore (α := Nat × Nat) = mergesBefore := rfl

/-- The pairs that VMERGEK ranks, the best first: of the active elements whose value is no NaN. -/
def Hart.rankedPairs (h : Hart) (t : Nat) (d c : VReg) (m : Bool) : List (Val × Int × Nat × Nat) :=
  sortBy pairBefore (((activeBelow h t m).filter (fun e => !(h.value t (h.kind t d) d e).isNan)).map (fun e =>
    (h.value t (h.kind t d) d e, Claims.intAt h t c e, h.elem t (h.kind t d) d e, h.elem t (h.kind t c) c e)))

/-- The bits of pair i in rank order, or of the empty pair. -/
def Hart.bestPair (h : Hart) (t : Nat) (d c : VReg) (m : Bool) (i : Nat) : Nat × Nat :=
  match (h.rankedPairs t d c m)[i]? with
  | some p => p.2.2
  | none => ((h.kind t d).lowest, 2 ^ h.kw (h.kind t c) - 1)

/-- Position i takes the pair of rank i. -/
def Hart.putBest (h : Hart) (t : Nat) (d c : VReg) (m : Bool) (h' : Hart) (i : Nat) : Hart :=
  (h'.setElem t (h.kind t d) d i (h.bestPair t d c m i).1).setElem t (h.kind t c) c i (h.bestPair t d c m i).2

/-- The merge writes the pairs in rank order, position by position. -/
theorem merged_eq_forEach {h : Hart} {t : Nat} {d : VReg} (hk : (h.kind t d).isIN = true ∨ (h.kind t d).isFlt = true)
    (c : VReg) (m : Bool) (n : Nat) :
    merged h t d c m n = forEach (List.range (min n h.vl)) h (h.putBest t d c m) := by
  simp only [merged, element_toVal hk, forEach_eq_foldl]
  refine congrArg (List.foldl · h _) (funext₂ fun h' i => ?_)
  simp only [Hart.putBest, Hart.bestPair, Hart.rankedPairs, pairBefore_eq_mergesBefore,
    Kind.lowest_eq_lowestBits]
  generalize (sortBy mergesBefore _)[i]? = best
  cases best <;> rfl

/-- VMERGEK for k outside 1 to 64 (R208). -/
theorem exec_vmergek_illegal {s : State} {h : Hart} {d c : VReg} {k : XReg} {m ca : Bool}
    (hi : Issues (.vmergek d c k m ca) s h) (hk : h.getU k < 1 ∨ 64 < h.getU k) :
    exec (.vmergek d c k m ca) s = .next (trapped s h (Trap.illegal 5)) :=
  runHart_of_issues (r := .trap ⟨h, s⟩ (.illegal 5)) hi (if_pos (by simpa using hk)) rfl

/-- VMERGEK for k from 1 to 64 leaves the best k pairs and the empty pair behind them (R208). -/
theorem exec_vmergek_merged {s : State} {h : Hart} {d c : VReg} {k : XReg} {m ca : Bool}
    (hi : Issues (.vmergek d c k m ca) s h) (hlo : 1 ≤ h.getU k) (hhi : h.getU k ≤ 64) (hstop : h.stopAt = none)
    (hd : arithTag h s.tick d) (hc : intTag h s.tick c)
    (hk : (h.kind s.tick d).isIN = true ∨ (h.kind s.tick d).isFlt = true) :
    exec (.vmergek d c k m ca) s =
      .next (finished s { merged h s.tick d c m (h.getU k) with vstart := 0 }) := by
  obtain ⟨hcTag, hcInt⟩ := hc
  have hinside : ¬ (decide (h.getU k < 1) || decide (64 < h.getU k)) = true := by simp; omega
  have hkd : ((h.kind s.tick d).isIN || (h.kind s.tick d).isFlt) = true := by simpa using hk
  refine runHart_of_issues (r := .done ⟨{ merged h s.tick d c m (h.getU k) with vstart := 0 }, s⟩) hi ?_ rfl
  have hfaults : firstFault [h.useFault s.tick useArith d, h.useFault s.tick useArith c,
      needTag ((h.kind s.tick d).isIN || (h.kind s.tick d).isFlt), needTag (h.kind s.tick c).isIN] = none := by
    rw [Hart.useFault_of_arithTag hd, Hart.useFault_of_arithTag hcTag, hkd, hcInt]
    rfl
  dsimp only
  rw [if_neg hinside, Ctx.guarded_of_no_fault hfaults, Ctx.whole_running _ _ hstop, merged_eq_forEach hk]
  rfl

/-- Settles O33: the status is the first check of R195 that fails (`opStatus_eq_loadStatus`); VMERGEK ranks the pairs as
R208 does (`exec_vmergek_merged`). -/
theorem operatorSlots : Obligations.OperatorSlots := by
  unfold Obligations.OperatorSlots
  refine ⟨fun s h slot => ⟨fun d a hi => ⟨exec_opload_admitted hi, exec_opload_refused hi⟩, fun d hi => ?_, exec_opclr⟩,
    fun s h d c k m ca hi => ⟨exec_vmergek_illegal hi, exec_vmergek_merged hi⟩⟩
  rw [exec_opqry hi]
  cases h.op[slot] <;> rfl

end Sys2Proof.Machine
end
